-- ==== Sys2Proof/Word.lean ====
section
/-!
DEFINITION. The words of the LR-SF4: bytes, 64-bit scalars, 40-bit lanes, vectors of 16 lanes (R17, R21), and the type of the
sorted sparse maps that hold everything the machine has many of (memory cells, tiles, regions, plan entries).
-/
namespace Sys2Proof

/-- One byte of memory. -/
abbrev Byte := BitVec 8

/-- A scalar register, a constant word, a scalar payload (R17, R21). -/
abbrev Word := BitVec 64

/-- One lane: a W40 value or a 40-bit integer (R99, R376). -/
abbrev Lane := BitVec 40

/-- A vector register or a vector payload: 16 lanes of 40 bits (R17, R21). -/
abbrev Vec := Vector Lane 16

/-- A sparse map: keys strictly rising, no entry equal to what an unlisted key reads as (the default of the value type). -/
abbrev SMap (β : Type) := List (Nat × β)

/-- The vector every lane of which is `x`. -/
def Vec.all (x : Lane) : Vec := Vector.mk #[x, x, x, x, x, x, x, x, x, x, x, x, x, x, x, x] rfl

/-- The vector with the sixteen lanes `f 0` to `f 15`, written out so that it evaluates at once. -/
def Vec.build (f : Nat → Lane) : Vec :=
  Vector.mk #[f 0, f 1, f 2, f 3, f 4, f 5, f 6, f 7, f 8, f 9, f 10, f 11, f 12, f 13, f 14, f 15] rfl

/-- Lane `n` of a vector; lane numbers are taken modulo 16. -/
def Vec.lane (x : Vec) (n : Nat) : Lane := x[n % 16]'(Nat.mod_lt _ (by decide))

/-- The zero vector, the value of a vector register at arming (R18). -/
def Vec.zero : Vec := Vec.all 0

end Sys2Proof
end

