-- ==== Sys2Proof/Syntax.lean ====
section
/-!
DEFINITION. The instructions and events of the LR-SF4: one constructor of `Instr` for each row of the opcode table. Rows 0 to 157
are slot instructions and carry the trigger of their slot word (R77, R81); rows 158 to 250 are the steps of the other units (those that name no unit stand last).
-/
namespace Sys2Proof

/-- A trigger code of a slot word or of a compound entry (R81). -/
inductive Trig where
  | pSet (n : Fin 8)
  | pClear (n : Fin 8)
  | qTag (tag : Fin 4) (q : Fin 4)
  | comp (n : Fin 16)
  | oFree (q : Fin 4)
  | oEmpty (q : Fin 4)
  | always
  | never
deriving DecidableEq, Repr

/-- A scalar source: a register, a queue dequeued or peeked, a constant word (R79). -/
inductive SSrc where
  | s (n : Fin 16)
  | i (q : Fin 4)
  | ik (q : Fin 4)
  | c (n : Fin 8)
deriving DecidableEq, Repr

/-- A vector source (R79). -/
inductive VSrc where
  | v (n : Fin 32)
  | i (q : Fin 4)
  | ik (q : Fin 4)
  | c (n : Fin 8)
deriving DecidableEq, Repr

/-- A source that may be scalar or vector; a constant word counts as a scalar (R79). -/
inductive ASrc where
  | s (n : Fin 16)
  | v (n : Fin 32)
  | i (q : Fin 4)
  | ik (q : Fin 4)
  | c (n : Fin 8)
deriving DecidableEq, Repr

/-- A scalar destination: a register, a port with the side halfword's tag, a port with tag end-of-run, discard (R79). -/
inductive SDst where
  | s (n : Fin 16)
  | o (q : Fin 4)
  | oe (q : Fin 4)
  | nul
deriving DecidableEq, Repr

/-- A vector destination (R79). -/
inductive VDst where
  | v (n : Fin 32)
  | o (q : Fin 4)
  | oe (q : Fin 4)
  | nul
deriving DecidableEq, Repr

/-- A destination that may be scalar or vector (R395). -/
inductive ADst where
  | s (n : Fin 16)
  | v (n : Fin 32)
  | o (q : Fin 4)
  | oe (q : Fin 4)
  | nul
deriving DecidableEq, Repr

/-- Where the reply of a request goes: a queue, by codes 48 to 51, or discard (R152). -/
inductive RDst where
  | i (q : Fin 4)
  | nul
deriving DecidableEq, Repr

/-- The operands of SEL: both scalar or both vector (R367). -/
inductive SelOp where
  | s (d : Fin 16) (a : SSrc)
  | v (d : Fin 32) (a : VSrc)
deriving DecidableEq, Repr

/-- The system registers of RDSR (R361). -/
inductive SysReg where
  | region
  | cycle
  | self
  | seed
  | flags
  | tstamp
  | task
  | frec (e : Fin 16)
deriving DecidableEq, Repr

/-- A field of the work identifier, or the whole of it (R93, R401). -/
inductive WField where
  | field (f : Fin 6)
  | whole
deriving DecidableEq, Repr

/-- The conditions of R94. -/
inductive Cond where
  | eq
  | ne
  | lt
  | ltu
  | le
  | leu
deriving DecidableEq, Repr

/-- The operations of PLOG and KLOG (R94). -/
inductive LogOp where
  | and
  | or
  | xor
  | andn
  | orn
  | mov
deriving DecidableEq, Repr

/-- The rounding modes of R93: to nearest even, toward zero, down, up, to nearest with ties away from zero. -/
inductive RMode where
  | rne
  | rtz
  | rdn
  | rup
  | rna
deriving DecidableEq, Repr

/-- The target precisions of VSRND (R93). -/
inductive Prec where
  | fp32
  | bf16
  | fp16
  | e4m3
  | e5m2
  | e2m1
deriving DecidableEq, Repr

/-- The operators of VSCAN (R93). -/
inductive ScanOp where
  | add
  | max
  | min
deriving DecidableEq, Repr

/-- The use of a relaxed atomic (R95, R171). -/
inductive AtUse where
  | unpaired
  | commutative
  | nonOrdering
  | quantum
  | speculative
deriving DecidableEq, Repr

/-- The ordering of a synchronising atomic or a fence (R95). -/
inductive SyncOrd where
  | acq
  | rel
  | ar
deriving DecidableEq, Repr

/-- The scopes of R95. -/
inductive Scope where
  | context
  | element
  | region
  | task
  | die
  | package
  | domain
  | system
deriving DecidableEq, Repr

/-- The scopes of BAR (R295). -/
inductive BarScope where
  | element
  | region
  | task
deriving DecidableEq, Repr

/-- The FN field of an atomic (R95). -/
inductive AtOrd where
  | relaxed (u : AtUse)
  | sync (o : SyncOrd) (sc : Scope)
deriving DecidableEq, Repr

/-- A packet about to move: the head of port `q` of tile `tile`, or a flight already in a router (R26). -/
inductive HopRef where
  | port (tile : Nat) (q : Fin 4)
  | flight (id : Nat)
deriving DecidableEq, Repr

/-- A chunk of a collective: its two header flits and its sixteen data flits (R233). `wide` holds the elements of a partial that a switch has made, each
a W40 value or an integer (R117, R234; log 95); `senders` are the dies and the tile-table entries of this package whose chunks it carries. -/
structure Chunk where
  tag : BitVec 32
  dest : BitVec 50
  index : Nat
  op : Fin 16
  fmt : Fin 16
  expect : Nat
  ranks : BitVec 640
  data : List Byte
  wide : List Word
  senders : List (Nat × Nat)
deriving DecidableEq, Repr

/-- The instruction set: every row of the opcode table. -/
inductive Instr where
  /-- NOP. No effect but the side halfword's predicate effect (R341). -/
  | nop (t : Trig)
  /-- HALT. Halts the owning context (R312). -/
  | halt (t : Trig)
  /-- TRAP. Faults with TrapInstruction, cause 0 (R382). -/
  | trap (t : Trig)
  /-- TMARK. Marks the context for trace (R381). -/
  | tmark (t : Trig)
  /-- RDSR. Reads a system register (R360, R361). -/
  | rdsr (t : Trig) (d : SDst) (r : SysReg)
  /-- WRSR. Clears FLAGS bits (R402). -/
  | wrsr (t : Trig) (a : SSrc)
  /-- MOVI. d := sext(imm) (R339). -/
  | movi (t : Trig) (d : Fin 16) (imm : BitVec 13)
  /-- MOVHI. d := (d << 13) OR imm (R339). -/
  | movhi (t : Trig) (d : Fin 16) (imm : BitVec 13)
  /-- SEL. Conditional move on a predicate (R367). -/
  | sel (t : Trig) (o : SelOp) (pol : Bool) (n : Fin 8)
  /-- WFLD. A field of the work identifier (R401). -/
  | wfld (t : Trig) (d : SDst) (f : WField)
  /-- ADD. R294. -/
  | add (t : Trig) (d : SDst) (a b : SSrc)
  /-- ADDI. R294. -/
  | addi (t : Trig) (d : Fin 16) (imm : BitVec 13)
  /-- SUB. R375. -/
  | sub (t : Trig) (d : SDst) (a b : SSrc)
  /-- MUL. R340. -/
  | mul (t : Trig) (d : SDst) (a b : SSrc)
  /-- MULH. R340. -/
  | mulh (t : Trig) (d : SDst) (a b : SSrc)
  /-- MULHU. R340. -/
  | mulhu (t : Trig) (d : SDst) (a b : SSrc)
  /-- DIV. R306. -/
  | div (t : Trig) (d : SDst) (a b : SSrc)
  /-- DIVU. R306. -/
  | divu (t : Trig) (d : SDst) (a b : SSrc)
  /-- REM. R363. -/
  | rem (t : Trig) (d : SDst) (a b : SSrc)
  /-- REMU. R363. -/
  | remu (t : Trig) (d : SDst) (a b : SSrc)
  /-- AND. R294. -/
  | and (t : Trig) (d : SDst) (a b : SSrc)
  /-- ANDI. R294. -/
  | andi (t : Trig) (d : Fin 16) (imm : BitVec 13)
  /-- OR. R342. -/
  | or (t : Trig) (d : SDst) (a b : SSrc)
  /-- ORI. R342. -/
  | ori (t : Trig) (d : Fin 16) (imm : BitVec 13)
  /-- XOR. R404. -/
  | xor (t : Trig) (d : SDst) (a b : SSrc)
  /-- XORI. R404. -/
  | xori (t : Trig) (d : Fin 16) (imm : BitVec 13)
  /-- SHL. R366. -/
  | shl (t : Trig) (d : SDst) (a b : SSrc)
  /-- SHLI. R366; the count is 0 to 63 (R78). -/
  | shli (t : Trig) (d : Fin 16) (imm : Fin 64)
  /-- SHR. R366. -/
  | shr (t : Trig) (d : SDst) (a b : SSrc)
  /-- SHRI. R366; the count is 0 to 63 (R78). -/
  | shri (t : Trig) (d : Fin 16) (imm : Fin 64)
  /-- SAR. R366. -/
  | sar (t : Trig) (d : SDst) (a b : SSrc)
  /-- SARI. R366; the count is 0 to 63 (R78). -/
  | sari (t : Trig) (d : Fin 16) (imm : Fin 64)
  /-- MIN. R326. -/
  | min (t : Trig) (d : SDst) (a b : SSrc)
  /-- MINU. R326. -/
  | minu (t : Trig) (d : SDst) (a b : SSrc)
  /-- MAX. R326. -/
  | max (t : Trig) (d : SDst) (a b : SSrc)
  /-- MAXU. R326. -/
  | maxu (t : Trig) (d : SDst) (a b : SSrc)
  /-- CLZ. R299. -/
  | clz (t : Trig) (d : SDst) (a : SSrc)
  /-- POPC. R355. -/
  | popc (t : Trig) (d : SDst) (a : SSrc)
  /-- BFX. R298. -/
  | bfx (t : Trig) (d : SDst) (a b : SSrc)
  /-- BFI. R298. -/
  | bfi (t : Trig) (d : Fin 16) (a b : SSrc)
  /-- CMP. R300. -/
  | cmp (t : Trig) (pd : Fin 8) (pol : Bool) (a b : SSrc) (c : Cond)
  /-- CMPI. R300; imm is two's complement (R78). -/
  | cmpi (t : Trig) (pd : Fin 8) (pol : Bool) (a : SSrc) (imm : BitVec 6) (c : Cond)
  /-- PLOG. R352. -/
  | plog (t : Trig) (pd : Fin 8) (pol : Bool) (a b : Fin 8) (f : LogOp)
  /-- VADD. R384. -/
  | vadd (t : Trig) (d : VDst) (a b : VSrc)
  /-- VSUB. R384. -/
  | vsub (t : Trig) (d : VDst) (a b : VSrc)
  /-- VMUL. R384. -/
  | vmul (t : Trig) (d : VDst) (a b : VSrc)
  /-- VFMA. R275. -/
  | vfma (t : Trig) (d : Fin 32) (a b : VSrc)
  /-- VFMS. R275. -/
  | vfms (t : Trig) (d : Fin 32) (a b : VSrc)
  /-- VFNMA. R275. -/
  | vfnma (t : Trig) (d : Fin 32) (a b : VSrc)
  /-- VMIN. R276. -/
  | vmin (t : Trig) (d : VDst) (a b : VSrc)
  /-- VMAX. R276. -/
  | vmax (t : Trig) (d : VDst) (a b : VSrc)
  /-- VABS. R273. -/
  | vabs (t : Trig) (d : VDst) (a : VSrc)
  /-- VNEG. R273. -/
  | vneg (t : Trig) (d : VDst) (a : VSrc)
  /-- VMOV. R273. -/
  | vmov (t : Trig) (d : VDst) (a : VSrc)
  /-- VBCAST. R273. -/
  | vbcast (t : Trig) (d : VDst) (a : SSrc)
  /-- VCMP. R387; .LTU and .LEU do not exist (R94). -/
  | vcmp (t : Trig) (kd : Fin 4) (pol : Bool) (a b : VSrc) (c : Cond)
  /-- VSEL. R399. -/
  | vsel (t : Trig) (d : Fin 32) (a : VSrc) (m : Fin 4)
  /-- VEXTR. R391. -/
  | vextr (t : Trig) (d : SDst) (a : VSrc) (n : Fin 16)
  /-- VRCPS. R111, R274. -/
  | vrcps (t : Trig) (d : VDst) (a : VSrc)
  /-- VRSQS. R111, R274. -/
  | vrsqs (t : Trig) (d : VDst) (a : VSrc)
  /-- VEXP2S. R111, R274. -/
  | vexp2s (t : Trig) (d : VDst) (a : VSrc)
  /-- VLOG2S. R111, R274. -/
  | vlog2s (t : Trig) (d : VDst) (a : VSrc)
  /-- VRND. R396. -/
  | vrnd (t : Trig) (d : VDst) (a : VSrc) (m : RMode)
  /-- VSCALE. R385. -/
  | vscale (t : Trig) (d : VDst) (a b : VSrc)
  /-- VCVTI. R389. -/
  | vcvti (t : Trig) (d : VDst) (a : VSrc) (m : RMode)
  /-- VCVTF. R389. -/
  | vcvtf (t : Trig) (d : VDst) (a : VSrc) (m : RMode)
  /-- VSRND. R400, R107. -/
  | vsrnd (t : Trig) (d : VDst) (a : VSrc) (p : Prec)
  /-- VIADD. R386. -/
  | viadd (t : Trig) (d : VDst) (a b : VSrc)
  /-- VISUB. R386. -/
  | visub (t : Trig) (d : VDst) (a b : VSrc)
  /-- VIMUL. R386. -/
  | vimul (t : Trig) (d : VDst) (a b : VSrc)
  /-- VIMIN. R386. -/
  | vimin (t : Trig) (d : VDst) (a b : VSrc)
  /-- VIMAX. R386. -/
  | vimax (t : Trig) (d : VDst) (a b : VSrc)
  /-- VAND. R386. -/
  | vand (t : Trig) (d : VDst) (a b : VSrc)
  /-- VOR. R386. -/
  | vor (t : Trig) (d : VDst) (a b : VSrc)
  /-- VXOR. R386. -/
  | vxor (t : Trig) (d : VDst) (a b : VSrc)
  /-- VSHL. R386. -/
  | vshl (t : Trig) (d : VDst) (a b : VSrc)
  /-- VSHR. R386. -/
  | vshr (t : Trig) (d : VDst) (a b : VSrc)
  /-- VSAR. R386. -/
  | vsar (t : Trig) (d : VDst) (a b : VSrc)
  /-- VICMP. R387. -/
  | vicmp (t : Trig) (kd : Fin 4) (pol : Bool) (a b : VSrc) (c : Cond)
  /-- VPERM. R394. -/
  | vperm (t : Trig) (d : VDst) (a b : VSrc)
  /-- VROT. R397. -/
  | vrot (t : Trig) (d : VDst) (a : VSrc) (dn : Bool) (n : Fin 16)
  /-- VREDA. R395. -/
  | vreda (t : Trig) (d : ADst) (a : VSrc)
  /-- VREDM_MAX. R395. -/
  | vredmMax (t : Trig) (d : ADst) (a : VSrc)
  /-- VREDM_MIN. R395. -/
  | vredmMin (t : Trig) (d : ADst) (a : VSrc)
  /-- VSCAN. R398. -/
  | vscan (t : Trig) (d : VDst) (a : VSrc) (o : ScanOp)
  /-- VCPRS. R388. -/
  | vcprs (t : Trig) (d : VDst) (a : VSrc) (m : Fin 4)
  /-- VXPND. R388. -/
  | vxpnd (t : Trig) (d : VDst) (a : VSrc) (m : Fin 4)
  /-- KLOG. R319. -/
  | klog (t : Trig) (kd : Fin 4) (pol : Bool) (a b : Fin 4) (f : LogOp)
  /-- KMOV_TO_MASK. k := a[15:0] (R320). -/
  | kmovToMask (t : Trig) (k : Fin 4) (a : SSrc)
  /-- KMOV_FROM_MASK. d := k, zero-extended (R320). -/
  | kmovFromMask (t : Trig) (d : SDst) (k : Fin 4)
  /-- MCFG. Loads the panel record from s(2n), s(2n+1) (R331). -/
  | mcfg (t : Trig) (n : Fin 8)
  /-- MLDB. Loads one B column (R332). -/
  | mldb (t : Trig) (q : Fin 4)
  /-- MROW. One A row from a queue (R334). -/
  | mrow (t : Trig) (o q : Fin 4)
  /-- MROW_G. One A row from the gather latch (R334). -/
  | mrowG (t : Trig) (o : Fin 4)
  /-- MGATH. Collects 16 A rows (R333). -/
  | mgath (t : Trig) (a : VSrc)
  /-- MDRAIN. Drains an accumulator row (R336). -/
  | mdrain (t : Trig) (o : Fin 4) (drop : Bool)
  /-- MDRAIN_R. Drains a row with a residual (R336). -/
  | mdrainR (t : Trig) (o : Fin 4) (peek : Bool) (q : Fin 4) (drop : Bool)
  /-- MZERO. Clears the panel rows (R337). -/
  | mzero (t : Trig)
  /-- LDS_N. R323. -/
  | ldsN (t : Trig) (q : Fin 4) (a : SSrc)
  /-- LDS_W. R323. -/
  | ldsW (t : Trig) (q : Fin 4) (a : SSrc)
  /-- LDS_WC. R323. -/
  | ldsWc (t : Trig) (q : Fin 4) (a : SSrc)
  /-- STS. R373. -/
  | sts (t : Trig) (r : RDst) (a : SSrc) (b : ASrc)
  /-- FEOP_CLR. R310. -/
  | feopClr (t : Trig) (r : RDst) (n : Fin 8)
  /-- FEOP_SET. R310. -/
  | feopSet (t : Trig) (r : RDst) (n : Fin 8)
  /-- LDG. R321. -/
  | ldg (t : Trig) (q : Fin 4) (a : SSrc)
  /-- STG. R371. -/
  | stg (t : Trig) (r : RDst) (a : SSrc) (b : ASrc)
  /-- LDW. R325. -/
  | ldw (t : Trig) (q : Fin 4) (n : Fin 8) (m : Fin 8)
  /-- AADD. R288 to R291. -/
  | aadd (t : Trig) (r : RDst) (n : Fin 8) (o : AtOrd)
  /-- AFADD. R288 to R291. -/
  | afadd (t : Trig) (r : RDst) (n : Fin 8) (o : AtOrd)
  /-- AMIN. R288 to R291. -/
  | amin (t : Trig) (r : RDst) (n : Fin 8) (o : AtOrd)
  /-- AMAX. R288 to R291. -/
  | amax (t : Trig) (r : RDst) (n : Fin 8) (o : AtOrd)
  /-- AAND. R288 to R291. -/
  | aand (t : Trig) (r : RDst) (n : Fin 8) (o : AtOrd)
  /-- AOR. R288 to R291. -/
  | aor (t : Trig) (r : RDst) (n : Fin 8) (o : AtOrd)
  /-- AXOR. R288 to R291. -/
  | axor (t : Trig) (r : RDst) (n : Fin 8) (o : AtOrd)
  /-- ASWP. R288 to R291. -/
  | aswp (t : Trig) (r : RDst) (n : Fin 8) (o : AtOrd)
  /-- ACAS. R288 to R291. -/
  | acas (t : Trig) (r : RDst) (n : Fin 8) (o : AtOrd)
  /-- FENCE. R307. -/
  | fence (t : Trig) (r : RDst) (a : SSrc) (o : SyncOrd) (sc : Scope)
  /-- BAR. R295. -/
  | bar (t : Trig) (q : Fin 4) (a : SSrc) (sc : BarScope)
  /-- TSET. R378. -/
  | tset (t : Trig) (a : SSrc)
  /-- TCOMMIT. R377. -/
  | tcommit (t : Trig) (a : SSrc)
  /-- HNEW. R315. -/
  | hnew (t : Trig) (q : Fin 4) (a b : SSrc) (z : Bool)
  /-- HDUP. R153. -/
  | hdup (t : Trig) (r : RDst) (a : SSrc)
  /-- HREL. R316. -/
  | hrel (t : Trig) (r : RDst) (a : SSrc)
  /-- HWEAK. R316. -/
  | hweak (t : Trig) (d : SDst) (a : SSrc)
  /-- HUPG. R154. -/
  | hupg (t : Trig) (q : Fin 4) (a : SSrc) (n : Fin 8)
  /-- HINFO. R316. -/
  | hinfo (t : Trig) (q : Fin 4) (a : SSrc)
  /-- HPRIO. R316. -/
  | hprio (t : Trig) (r : RDst) (a : SSrc) (p : Fin 16)
  /-- SINIT_QS. R368. -/
  | sinitQs (t : Trig) (r : RDst) (n : Fin 8)
  /-- SINIT_HH. R368. -/
  | sinitHh (t : Trig) (r : RDst) (n : Fin 8)
  /-- SINIT_DC. R368. -/
  | sinitDc (t : Trig) (r : RDst) (n : Fin 8)
  /-- QSINS. R304. -/
  | qsins (t : Trig) (o : Fin 4) (a : VSrc)
  /-- HHINS. R304. -/
  | hhins (t : Trig) (o : Fin 4) (a : VSrc)
  /-- DCINS. R304. -/
  | dcins (t : Trig) (o : Fin 4) (a : VSrc)
  /-- SMERGE. R369. -/
  | smerge (t : Trig) (r : RDst) (a b : SSrc)
  /-- QREAD. R359. -/
  | qread (t : Trig) (q : Fin 4) (n : Fin 8)
  /-- QRANK. R359. -/
  | qrank (t : Trig) (q : Fin 4) (n : Fin 8)
  /-- HHGET. R318. -/
  | hhget (t : Trig) (q : Fin 4) (n : Fin 8)
  /-- DCEST. R303. -/
  | dcest (t : Trig) (q : Fin 4) (n : Fin 8)
  /-- TKINIT. R224. -/
  | tkinit (t : Trig) (r : RDst) (n : Fin 8)
  /-- TKINS. R380. -/
  | tkins (t : Trig) (o : Fin 4) (a b : SSrc)
  /-- TKOUT. R224. -/
  | tkout (t : Trig) (q : Fin 4) (n : Fin 8)
  /-- PFRAG. R346. -/
  | pfrag (t : Trig) (q : Fin 4) (a : SSrc)
  /-- PSEQ. R353, R354. -/
  | pseq (t : Trig) (q : Fin 4) (a b : SSrc)
  /-- POVL. R353, R354. -/
  | povl (t : Trig) (q : Fin 4) (a b : SSrc)
  /-- PPIPE. R353, R354. -/
  | ppipe (t : Trig) (q : Fin 4) (n : Fin 8) (b : SSrc)
  /-- PNEST. R353, R354. -/
  | pnest (t : Trig) (q : Fin 4) (n : Fin 8) (b : SSrc)
  /-- PREP. R353, R354. -/
  | prep (t : Trig) (q : Fin 4) (a b : SSrc)
  /-- PIFACE. R349. -/
  | piface (t : Trig) (q : Fin 4) (n : Fin 8)
  /-- PCOST. R345. -/
  | pcost (t : Trig) (q : Fin 4) (a : SSrc)
  /-- PLAUNCH. R350. -/
  | plaunch (t : Trig) (q : Fin 4) (a b : SSrc)
  /-- PLAUNCH_C. R350; a child task. -/
  | plaunchC (t : Trig) (q : Fin 4) (a b : SSrc)
  /-- PFREE. R348. -/
  | pfree (t : Trig) (r : RDst) (a : SSrc)
  /-- XREQ. R405. -/
  | xreq (t : Trig) (o : Fin 4) (a : VSrc)
  /-- XEXP. R403. -/
  | xexp (t : Trig) (a : SSrc)
  /-- CRDY. R230, R301. -/
  | crdy (t : Trig) (q : Fin 4) (a : SSrc)
  /-- CSLOT. R230, R302. -/
  | cslot (t : Trig) (q : Fin 4) (a : SSrc)
  /-- QPUSH. R356. -/
  | qpush (t : Trig) (q : Fin 4) (a : VSrc) (m : Fin 8)
  /-- RNEXT. R364. -/
  | rnext (t : Trig) (q : Fin 4) (m : Fin 8)
  /-- RANGE_UNIT_SERVE. The range unit serves RNEXT request `rq` (R41). -/
  | rangeUnitServe (rq : Nat)
  /-- KICK_WRITE. The host writes KICK of queue `q` (R197). -/
  | kickWrite (q : Fin 1024) (v : Word)
  /-- QSTAT_WRITE. The host writes QSTAT of queue `q` (R196). -/
  | qstatWrite (q : Fin 1024) (v : Word)
  /-- REGISTER_WRITE. The host writes the register at BAR0 offset `off` (R193). -/
  | registerWrite (off : Nat) (v : Word)
  /-- AM_PIN. Writing GO applies the PIN value to the AMSIG entry (R75). -/
  | amPin (pin : BitVec 3)
  /-- DEBUG_ARM. Writing ARM in DBGSTOP (R263). -/
  | debugArm (region : BitVec 12)
  /-- DEBUG_STOP. An armed region reaches a reconfiguration boundary (R263). -/
  | debugStop (region : Nat)
  /-- SPDM_GET_MEASUREMENTS. The host reads measurement `idx` (R269). -/
  | spdmGetMeasurements (idx : Nat)
  /-- HOST_MEM_WRITE. A host write of device memory (R238). -/
  | hostMemWrite (pa : Nat) (bytes : List Byte)
  /-- HOST_MEM_READ. A host read of `n` bytes of device memory (R238). -/
  | hostMemRead (pa n : Nat)
  /-- LAUNCH. A LAUNCH packet, `p` its number among the packets in progress (R198, R199). -/
  | launch (p : Nat)
  /-- GRAPH. A GRAPH packet (R68). -/
  | graph (p : Nat)
  /-- WAIT. A WAIT packet tests its condition (R198). -/
  | wait (p : Nat)
  /-- WAIT_RETEST. A waiting WAIT is tested again (R201). -/
  | waitRetest (p : Nat)
  /-- QUEUE_UNPARK. The signal page of a parked queue is resident (R202). -/
  | queueUnpark (q : Fin 1024)
  /-- SIGNAL. A SIGNAL packet (R176). -/
  | signal (p : Nat)
  /-- COPY. A COPY packet (R199). -/
  | copy (p : Nat)
  /-- PREEMPT. A PREEMPT packet (R206). -/
  | preempt (p : Nat)
  /-- PREEMPT_KILL. A PREEMPT packet with KILL (R206). -/
  | preemptKill (p : Nat)
  /-- BARRIER. A BARRIER packet (R199). -/
  | barrier (p : Nat)
  /-- LAUNCH_RESERVE_TURN. Launch `l` has waited 2^20 cycles and reserves its turn (R205). -/
  | launchReserveTurn (l : Nat)
  /-- REGION_PLACE. The front end places, loads and arms launch `l` (R204). -/
  | regionPlace (l : Nat)
  /-- SLOT_TABLE_APPLY. A slot table written by the scheduler takes effect (R31). -/
  | slotTableApply (tile : Nat)
  /-- REGISTER_FILL_COMPLETE. A vector register fill completes (R19). -/
  | registerFillComplete (tile : Nat)
  /-- REGISTER_EVICT_COMPLETE. A vector register eviction completes (R19). -/
  | registerEvictComplete (tile : Nat)
  /-- FOLLOWER_FIRE. A follower fires its own slot (R34). -/
  | followerFire (tile : Nat) (slot : Fin 32)
  /-- TOKEN_DELIVER. A packet reaches a router or a queue (R26). -/
  | tokenDeliver (h : HopRef)
  /-- SCATTER_FORWARD. A scatter register sends a token on (R65). -/
  | scatterForward (tile n : Nat)
  /-- GATHER_FORWARD. A gather register forwards a token (R65). -/
  | gatherForward (tile n : Nat)
  /-- STAGING_SEND. A PSEQ staging tile sends a token (R64). -/
  | stagingSend (tile : Nat)
  /-- REPLY_TOKEN_ENTER. The reply of request `rq` enters its queue (R156). -/
  | replyTokenEnter (rq : Nat)
  /-- FAULT_TOKEN_DELIVER. Fault token `f` reaches the fault queue (R211). -/
  | faultTokenDeliver (f : Nat)
  /-- STREAM_READ_TOKEN. Generator `g` reads and sends a token (R129). -/
  | streamReadToken (tile : Nat) (g : Fin 4)
  /-- STREAM_WRITE_TOKEN. Generator `g` takes a token and writes (R122). -/
  | streamWriteToken (tile : Nat) (g : Fin 4)
  /-- STREAM_COMPLETE. Stream `g` completes its last access (R131). -/
  | streamComplete (tile : Nat) (g : Fin 4)
  /-- REDUCE_CONTRIBUTION. A reduce stream adds a contribution (R116). -/
  | reduceContribution (tile : Nat) (g : Fin 4)
  /-- SUMMARY_INSERT. A summary stream inserts a token (R181). -/
  | summaryInsert (tile : Nat) (g : Fin 4)
  /-- TOPK_INSERT. A top-k stream inserts one candidate (R223). -/
  | topkInsert (tile : Nat) (g : Fin 4)
  /-- WALK_REQUEST. A sequence walk serves (a step of) one request (R220). -/
  | walkRequest (tile : Nat) (g : Fin 4)
  /-- ACC_TOKEN_ADD. An accumulator tile adds an ACC token (R335). -/
  | accTokenAdd (tile : Nat) (q : Fin 4)
  /-- ACC_ACK. An acknowledgement lowers OUT of element `tile` (R335). -/
  | accAck (tile : Nat)
  /-- MROW_RESULT. An MROW result enters the port (R334). -/
  | mrowResult (tile id : Nat)
  /-- MROW_REPLAY_RESULT. A replayed MROW enters the port, or fails again (R267). -/
  | mrowReplayResult (tile id : Nat) (ok : Bool)
  /-- MDRAIN_RESULT. A drained row enters the port (R336). -/
  | mdrainResult (tile id : Nat)
  /-- MZERO_COMPLETE. The home tile has cleared the panel rows (R337). -/
  | mzeroComplete (tile : Nat)
  /-- MGATH_ROW_ARRIVE. The next gathered row arrives (R333). -/
  | mgathRowArrive (tile : Nat)
  /-- TILE_REQUEST_SERVE. A bank serves request `rq` (R126). -/
  | tileRequestServe (rq : Nat)
  /-- LDS_RELEASE. A waiting LDS is served (R125). -/
  | ldsRelease (rq : Nat)
  /-- SUMMARY_OP_SERVE. The summary unit serves request `rq` (R182). -/
  | summaryOpServe (rq : Nat)
  /-- HOME_PORT_SERVE. A home port serves request `rq` (R150). -/
  | homePortServe (rq : Nat)
  /-- ATOMIC_PERFORM. An atomic is performed at its home (R291). -/
  | atomicPerform (rq : Nat)
  /-- PORT_ACCESS. A port tile performs request `rq` (R132). -/
  | portAccess (rq : Nat)
  /-- PAGE_FETCH_COMPLETE. The Nickel core makes fetched page `f` resident (R138). -/
  | pageFetchComplete (f : Nat)
  /-- PAGE_EVICT. The Nickel core makes the page of the entry at `pte` non-resident, its copy at `lba` of drive `bdrive` (R137). -/
  | pageEvict (pte : Nat) (bdrive : Fin 4) (lba : Nat)
  /-- DRAIN_LIMIT_EXPIRY. The drain limit of a region expires (R139). -/
  | drainLimitExpiry (region : Nat)
  /-- REGION_CHECKPOINT. The checkpoint of a halted region is written (R139). -/
  | regionCheckpoint (region : Nat)
  /-- REGION_REPLACE. A checkpointed region is placed again (R139). -/
  | regionReplace (region : Nat)
  /-- FLASH_FETCH_ERROR. A drive reports an error on fetch `f` (R140). -/
  | flashFetchError (f : Nat)
  /-- FLASH_FETCH_TIMEOUT. Fetch `f` had no answer for one second (R140). -/
  | flashFetchTimeout (f : Nat)
  /-- TRANSFER_ACCEPT. A transfer unit accepts request `x` (R406). -/
  | transferAccept (x : Nat)
  /-- TRANSFER_GRANULE. Transfer `x` writes one granule (R406). -/
  | transferGranule (x : Nat)
  /-- CHANNEL_TOKEN. A channel with P > 0 and A >= P sends its token (R143). -/
  | channelToken (region : Nat) (ch : Nat)
  /-- SOLDER_SERVE. The Solder unit of a die serves its next request (R53). -/
  | solderServe (die : Fin 4)
  /-- QUANTUM_REFRESH. A die's quantum replica is refreshed (R172). -/
  | quantumRefresh (die : Fin 4) (pa : Nat)
  /-- REGION_RETIRE. A region retires (R39). -/
  | regionRetire (region : Nat)
  /-- COMPLETION_RECORD. The completion record of packet `p` is written (R213). -/
  | completionRecord (p : Nat)
  /-- TASK_COMMIT. Ordered task `t` commits (R167). -/
  | taskCommit (t : Nat)
  /-- TCOMMIT_ROUND. A commit round completes (R377). -/
  | tcommitRound (region : Nat)
  /-- ENGINE_CHUNK_SERVE. A collective engine serves the next chunk (R236). -/
  | engineChunkServe (die : Fin 4)
  /-- CHUNK_ARRIVE. A chunk arrives at this package (R233, R235). -/
  | chunkArrive (c : Chunk)
  /-- COLLECTIVE_COMPLETE. The operation of a tile-table entry completes (R231). -/
  | collectiveComplete (die : Fin 4) (entry : Nat)
  /-- SWITCH_COMBINE. A Yapiza switch takes a chunk (R234). -/
  | switchCombine (c : Chunk)
  /-- SWITCH_LIMIT_EXPIRY. The wait limit of a switch slot passes (R234). -/
  | switchLimitExpiry (n : Nat)
  /-- CHUNK_REOFFER. A refused chunk is offered again (R285). -/
  | chunkReoffer (n : Nat)
  /-- CSLOT_START. A collective slot swaps in (R232). -/
  | cslotStart (tile : Nat)
  /-- CSLOT_END. A collective slot ends (R232). -/
  | cslotEnd (tile : Nat)
  /-- PAGE_MIGRATE. The Nickel cores move the page of the entry at `pte`, migration record at `mig`, to frame `dest` (R242). -/
  | pageMigrate (pte mig : Nat) (dest : Nat)
  /-- WATCHPOINT_RECORD. A watchpoint match writes its record (R265). -/
  | watchpointRecord (wp : Fin 4) (cls : BitVec 4) (die : Fin 4) (kind : BitVec 2) (sec : Nat)
  /-- MACHINE_CHECK. An uncorrectable error hits a region (R267, R268). -/
  | machineCheck (src : Fin 6) (addr : Nat) (region : Nat)
  /-- AM_FLUSH. Writing FLUSH empties the motif table (R75). -/
  | amFlush
  /-- AM_READ_ENTRY. AMCMD 1 (R75). -/
  | amReadEntry
  /-- AM_REGISTER. AMCMD 2 (R70, R75). -/
  | amRegister
  /-- LIB_INSTALL. AMCMD 3 (R347). -/
  | libInstall
  /-- LIB_REMOVE. AMCMD 4 (R347). -/
  | libRemove
  /-- DEBUG_RESUME. Writing RESUME in DBGSTOP (R263). -/
  | debugResume
  /-- DISPATCH_GRANT. The Brass strip grants a dispatcher slot (R201). -/
  | dispatchGrant
  /-- PEWTER_EPOCH_TICK. The Pewter epoch advances (R149). -/
  | pewterEpochTick
  /-- OBJECT_DESTROY_BEGIN. Pewter marks the next victim dying (R160). -/
  | objectDestroyBegin
  /-- DESTRUCTION_POINT. The dying object is destroyed (R160). -/
  | destructionPoint
  /-- DROOP_TRIP. The droop sensor trips (R266). -/
  | droopTrip
  /-- POWER_CAP_STEP. The clock steps down (R266). -/
  | powerCapStep
  /-- DEVICE_RESET. Start-up (R195, R269). -/
  | deviceReset
  /-- PWRSTAT_READ. The host reads PWRSTAT (R259). -/
  | pwrstatRead
deriving DecidableEq, Repr

end Sys2Proof
end

