-- ==== Sys2Proof/Decode.lean ====
section
/-!
DEFINITION. The decoder of slot words, total on every 32-bit word, and the encoder. A word that is illegal is rejected with the cause
code that the loader reports for it, the lowest where several hold (R96). Fields are those of the four formats of R77.
-/
namespace Sys2Proof

/-- The answer of a field or word decoder: a value, or the lowest cause of R96 that holds. -/
abbrev Dec (α : Type) := Except Nat α

namespace Dec

/-- Adds a condition with its cause: where `bad` holds the word is illegal, and the lowest cause is kept. -/
def need {α : Type} (bad : Bool) (cause : Nat) (x : Dec α) : Dec α :=
  if bad then
    match x with
    | .ok _ => .error cause
    | .error c => .error (min c cause)
  else x

/-- Applies a decoded function to a decoded argument; of two errors the lowest cause remains. -/
def app {α β : Type} (f : Dec (α → β)) (x : Dec α) : Dec β :=
  match f, x with
  | .ok g, .ok a => .ok (g a)
  | .ok _, .error c => .error c
  | .error c, .ok _ => .error c
  | .error c, .error c' => .error (min c c')

/-- One decoded field under a function. -/
def ap1 {α β : Type} (f : α → β) (x : Dec α) : Dec β := app (.ok f) x

/-- Two decoded fields under a function. -/
def ap2 {α β γ : Type} (f : α → β → γ) (x : Dec α) (y : Dec β) : Dec γ := app (ap1 f x) y

/-- Three decoded fields under a function. -/
def ap3 {α β γ δ : Type} (f : α → β → γ → δ) (x : Dec α) (y : Dec β) (z : Dec γ) : Dec δ := app (ap2 f x y) z

/-- Four decoded fields under a function. -/
def ap4 {α β γ δ ε : Type} (f : α → β → γ → δ → ε) (x : Dec α) (y : Dec β) (z : Dec γ) (u : Dec δ) : Dec ε :=
  app (ap3 f x y z) u

end Dec

/-- The number `n` below `k`, the remainder by `k`. -/
def fin (k : Nat) (n : Nat) (h : 0 < k := by decide) : Fin k := ⟨n % k, Nat.mod_lt n h⟩

/-! ## Operand fields (R79, R81, R94) -/

/-- The trigger field (R81); codes 58 to 63 are reserved. -/
def Trig.dec (c : Nat) : Dec Trig :=
  if c < 8 then .ok (.pSet (fin 8 c))
  else if c < 16 then .ok (.pClear (fin 8 c))
  else if c < 32 then .ok (.qTag (fin 4 (c / 4)) (fin 4 c))
  else if c < 48 then .ok (.comp (fin 16 (c - 32)))
  else if c < 52 then .ok (.oFree (fin 4 c))
  else if c < 56 then .ok (.oEmpty (fin 4 c))
  else if c = 56 then .ok .always
  else if c = 57 then .ok .never
  else .error 3

/-- The code of a trigger (R81). -/
def Trig.enc : Trig → Nat
  | .pSet n => n.val
  | .pClear n => 8 + n.val
  | .qTag tag q => 16 + 4 * tag.val + q.val
  | .comp n => 32 + n.val
  | .oFree q => 48 + q.val
  | .oEmpty q => 52 + q.val
  | .always => 56
  | .never => 57

/-- A scalar source (R79). -/
def SSrc.dec (c : Nat) : Dec SSrc :=
  if c < 32 then .error 5
  else if c < 48 then .ok (.s (fin 16 c))
  else if c < 52 then .ok (.i (fin 4 c))
  else if c < 56 then .ok (.ik (fin 4 c))
  else if c < 64 then .ok (.c (fin 8 c))
  else .error 5

/-- The code of a scalar source. -/
def SSrc.enc : SSrc → Nat
  | .s n => 32 + n.val
  | .i q => 48 + q.val
  | .ik q => 52 + q.val
  | .c n => 56 + n.val

/-- A vector source (R79). -/
def VSrc.dec (c : Nat) : Dec VSrc :=
  if c < 32 then .ok (.v (fin 32 c))
  else if c < 48 then .error 5
  else if c < 52 then .ok (.i (fin 4 c))
  else if c < 56 then .ok (.ik (fin 4 c))
  else if c < 64 then .ok (.c (fin 8 c))
  else .error 5

/-- The code of a vector source. -/
def VSrc.enc : VSrc → Nat
  | .v n => n.val
  | .i q => 48 + q.val
  | .ik q => 52 + q.val
  | .c n => 56 + n.val

/-- A source that may be scalar or vector (R79). -/
def ASrc.dec (c : Nat) : Dec ASrc :=
  if c < 32 then .ok (.v (fin 32 c))
  else if c < 48 then .ok (.s (fin 16 c))
  else if c < 52 then .ok (.i (fin 4 c))
  else if c < 56 then .ok (.ik (fin 4 c))
  else if c < 64 then .ok (.c (fin 8 c))
  else .error 5

/-- The code of a source that may be scalar or vector. -/
def ASrc.enc : ASrc → Nat
  | .s n => 32 + n.val
  | .v n => n.val
  | .i q => 48 + q.val
  | .ik q => 52 + q.val
  | .c n => 56 + n.val

/-- The cause of a code that no destination of the position's class has: 57 to 63 are reserved destinations (R79, R96). -/
def badDst (c : Nat) : Nat := if 57 ≤ c then 3 else 5

/-- A scalar destination (R79). -/
def SDst.dec (c : Nat) : Dec SDst :=
  if c < 32 then .error (badDst c)
  else if c < 48 then .ok (.s (fin 16 c))
  else if c < 52 then .ok (.o (fin 4 c))
  else if c < 56 then .ok (.oe (fin 4 c))
  else if c = 56 then .ok .nul
  else .error (badDst c)

/-- The code of a scalar destination. -/
def SDst.enc : SDst → Nat
  | .s n => 32 + n.val
  | .o q => 48 + q.val
  | .oe q => 52 + q.val
  | .nul => 56

/-- A vector destination (R79). -/
def VDst.dec (c : Nat) : Dec VDst :=
  if c < 32 then .ok (.v (fin 32 c))
  else if c < 48 then .error (badDst c)
  else if c < 52 then .ok (.o (fin 4 c))
  else if c < 56 then .ok (.oe (fin 4 c))
  else if c = 56 then .ok .nul
  else .error (badDst c)

/-- The code of a vector destination. -/
def VDst.enc : VDst → Nat
  | .v n => n.val
  | .o q => 48 + q.val
  | .oe q => 52 + q.val
  | .nul => 56

/-- A destination of either class (R395). -/
def ADst.dec (c : Nat) : Dec ADst :=
  if c < 32 then .ok (.v (fin 32 c))
  else if c < 48 then .ok (.s (fin 16 c))
  else if c < 52 then .ok (.o (fin 4 c))
  else if c < 56 then .ok (.oe (fin 4 c))
  else if c = 56 then .ok .nul
  else .error (badDst c)

/-- The code of a destination of either class. -/
def ADst.enc : ADst → Nat
  | .s n => 32 + n.val
  | .v n => n.val
  | .o q => 48 + q.val
  | .oe q => 52 + q.val
  | .nul => 56

/-- A reply queue, or no reply (R152). -/
def RDst.dec (c : Nat) : Dec RDst :=
  if c < 48 then .error (badDst c)
  else if c < 52 then .ok (.i (fin 4 c))
  else if c = 56 then .ok .nul
  else .error (badDst c)

/-- The code of a reply destination. -/
def RDst.enc : RDst → Nat
  | .i q => 48 + q.val
  | .nul => 56

/-- A destination that must be a scalar register (R294, R298, R339). -/
def sregDec (c : Nat) : Dec (Fin 16) :=
  if 32 ≤ c ∧ c < 48 then .ok (fin 16 c) else .error (badDst c)

/-- A destination that must be a vector register (R275, R399). -/
def vregDec (c : Nat) : Dec (Fin 32) :=
  if c < 32 then .ok (fin 32 c) else .error (badDst c)

/-- A destination code from 48 to 51: a reply queue or an output port. -/
def portDec (c : Nat) : Dec (Fin 4) :=
  if 48 ≤ c ∧ c < 52 then .ok (fin 4 c) else .error (badDst c)

/-- A source code from 48 to 51 (R330). -/
def queueDec (c : Nat) : Dec (Fin 4) :=
  if 48 ≤ c ∧ c < 52 then .ok (fin 4 c) else .error 5

/-- An even scalar register s(2n), as a pair or a triple of registers is named. -/
def evenDec (limit : Nat) (c : Nat) : Dec (Fin 8) :=
  if 32 ≤ c ∧ c ≤ 32 + limit ∧ c % 2 = 0 then .ok (fin 8 ((c - 32) / 2)) else .error 5

/-- A lane mask number in a 6-bit field (R319, R320). -/
def maskDec (c : Nat) : Dec (Fin 4) :=
  if c < 4 then .ok (fin 4 c) else .error 5

/-- A predicate number in a 6-bit field (R352). -/
def predDec (c : Nat) : Dec (Fin 8) :=
  if c < 8 then .ok (fin 8 c) else .error 5

/-- A lane mask number in field PD; 4 to 7 are reserved (R94). -/
def pdMaskDec (c : Nat) : Dec (Fin 4) :=
  if c < 4 then .ok (fin 4 c) else .error 3

/-- A condition code; 6 and 7 are reserved (R94). -/
def Cond.dec (c : Nat) : Dec Cond :=
  match c with
  | 0 => .ok .eq
  | 1 => .ok .ne
  | 2 => .ok .lt
  | 3 => .ok .ltu
  | 4 => .ok .le
  | 5 => .ok .leu
  | _ => .error 3

/-- The code of a condition. -/
def Cond.enc : Cond → Nat
  | .eq => 0
  | .ne => 1
  | .lt => 2
  | .ltu => 3
  | .le => 4
  | .leu => 5

/-- A condition of VCMP, which has no unsigned order (R94). -/
def Cond.decF (c : Nat) : Dec Cond := Dec.need (c == 3 || c == 5) 3 (Cond.dec c)

/-- An operation of PLOG or KLOG; 6 and 7 are reserved (R94). -/
def LogOp.dec (c : Nat) : Dec LogOp :=
  match c with
  | 0 => .ok .and
  | 1 => .ok .or
  | 2 => .ok .xor
  | 3 => .ok .andn
  | 4 => .ok .orn
  | 5 => .ok .mov
  | _ => .error 3

/-- The code of a predicate operation. -/
def LogOp.enc : LogOp → Nat
  | .and => 0
  | .or => 1
  | .xor => 2
  | .andn => 3
  | .orn => 4
  | .mov => 5

/-- A rounding mode; 5 to 7 are reserved (R93). -/
def RMode.dec (c : Nat) : Dec RMode :=
  match c with
  | 0 => .ok .rne
  | 1 => .ok .rtz
  | 2 => .ok .rdn
  | 3 => .ok .rup
  | 4 => .ok .rna
  | _ => .error 3

/-- The code of a rounding mode. -/
def RMode.enc : RMode → Nat
  | .rne => 0
  | .rtz => 1
  | .rdn => 2
  | .rup => 3
  | .rna => 4

/-- The function code of VSRND (R400). -/
def Prec.dec (c : Nat) : Dec Prec :=
  match c with
  | 0 => .ok .fp32
  | 1 => .ok .bf16
  | 2 => .ok .fp16
  | 3 => .ok .e4m3
  | 4 => .ok .e5m2
  | 5 => .ok .e2m1
  | _ => .error 2

/-- The code of a target precision. -/
def Prec.enc : Prec → Nat
  | .fp32 => 0
  | .bf16 => 1
  | .fp16 => 2
  | .e4m3 => 3
  | .e5m2 => 4
  | .e2m1 => 5

/-- The operator of VSCAN; 3 is reserved (R398). -/
def ScanOp.dec (c : Nat) : Dec ScanOp :=
  match c with
  | 0 => .ok .add
  | 1 => .ok .max
  | 2 => .ok .min
  | _ => .error 3

/-- The code of a scan operator. -/
def ScanOp.enc : ScanOp → Nat
  | .add => 0
  | .max => 1
  | .min => 2

/-- The system register that RDSR names (R361). -/
def SysReg.dec (c : Nat) : Dec SysReg :=
  match c with
  | 0 => .ok .region
  | 1 => .ok .cycle
  | 2 => .ok .self
  | 3 => .ok .seed
  | 4 => .ok .flags
  | 5 => .ok .tstamp
  | 6 => .ok .task
  | n => if 16 ≤ n ∧ n < 32 then .ok (.frec (fin 16 n)) else .error 2

/-- The number of a system register. -/
def SysReg.enc : SysReg → Nat
  | .region => 0
  | .cycle => 1
  | .self => 2
  | .seed => 3
  | .flags => 4
  | .tstamp => 5
  | .task => 6
  | .frec e => 16 + e.val

/-- The field that WFLD names (R401). -/
def WField.dec (c : Nat) : Dec WField :=
  if c < 6 then .ok (.field (fin 6 c)) else if c = 7 then .ok .whole else .error 2

/-- The number of a work identifier field. -/
def WField.enc : WField → Nat
  | .field f => f.val
  | .whole => 7

/-- A scope code (R95). -/
def Scope.dec (c : Nat) : Dec Scope :=
  match c with
  | 0 => .ok .context
  | 1 => .ok .element
  | 2 => .ok .region
  | 3 => .ok .task
  | 4 => .ok .die
  | 5 => .ok .package
  | 6 => .ok .domain
  | 7 => .ok .system
  | _ => .error 3

/-- The code of a scope. -/
def Scope.enc : Scope → Nat
  | .context => 0
  | .element => 1
  | .region => 2
  | .task => 3
  | .die => 4
  | .package => 5
  | .domain => 6
  | .system => 7

/-- A scope of BAR; the others are reserved (R295). -/
def BarScope.dec (c : Nat) : Dec BarScope :=
  match c with
  | 1 => .ok .element
  | 2 => .ok .region
  | 3 => .ok .task
  | _ => .error 3

/-- The code of a scope of BAR. -/
def BarScope.enc : BarScope → Nat
  | .element => 1
  | .region => 2
  | .task => 3

/-- The use of a relaxed atomic (R95); 5 to 7 are reserved. -/
def AtUse.dec (c : Nat) : Dec AtUse :=
  match c with
  | 0 => .ok .unpaired
  | 1 => .ok .commutative
  | 2 => .ok .nonOrdering
  | 3 => .ok .quantum
  | 4 => .ok .speculative
  | _ => .error 3

/-- The code of a use. -/
def AtUse.enc : AtUse → Nat
  | .unpaired => 0
  | .commutative => 1
  | .nonOrdering => 2
  | .quantum => 3
  | .speculative => 4

/-- FN[5:4] of a synchronising atomic or a fence; 00 is reserved (R95). -/
def SyncOrd.dec (c : Nat) : Dec SyncOrd :=
  match c with
  | 1 => .ok .acq
  | 2 => .ok .rel
  | 3 => .ok .ar
  | _ => .error 3

/-- The code of a synchronising order. -/
def SyncOrd.enc : SyncOrd → Nat
  | .acq => 1
  | .rel => 2
  | .ar => 3

/-- FN of an atomic (R95, R289). -/
def AtOrd.dec (fn : Nat) : Dec AtOrd :=
  if fn < 64 then Dec.need (fn / 8 ≠ 0) 4 (Dec.ap1 .relaxed (AtUse.dec (fn % 8)))
  else Dec.need (fn / 8 % 2 = 1) 4 (Dec.ap2 .sync (SyncOrd.dec (fn / 16 % 4)) (Scope.dec (fn % 8)))

/-- The FN code of an ordering. -/
def AtOrd.enc : AtOrd → Nat
  | .relaxed u => u.enc
  | .sync o sc => 64 + 16 * o.enc + sc.enc

/-! ## Fields of a word (R77); `r` is bits [18:0] of the word -/

/-- Field D, bits [18:13]. -/
def fD (r : Nat) : Nat := r / 8192 % 64
/-- Field A of formats T and U, bits [12:7]. -/
def fA (r : Nat) : Nat := r / 128 % 64
/-- Field B of format T, bits [6:1]. -/
def fB (r : Nat) : Nat := r / 2 % 64
/-- Bit X of format T. -/
def fX (r : Nat) : Nat := r % 2
/-- FN of format U, bits [6:0]. -/
def fFN (r : Nat) : Nat := r % 128
/-- IMM of format I, bits [12:0]. -/
def fImm (r : Nat) : Nat := r % 8192
/-- PD of format P, bits [18:16]. -/
def pPD (r : Nat) : Nat := r / 65536 % 8
/-- POL of format P, bit [15]. -/
def pPOL (r : Nat) : Bool := r / 32768 % 2 == 1
/-- Field A of format P, bits [14:9]. -/
def pA (r : Nat) : Nat := r / 512 % 64
/-- Field B of format P, bits [8:3]. -/
def pB (r : Nat) : Nat := r / 8 % 64
/-- FN of format P, bits [2:0]. -/
def pFN (r : Nat) : Nat := r % 8

/-! ## Shapes of instructions -/

/-- Format T with two scalar sources; X must be zero (R80). -/
def tS (r : Nat) (k : SDst → SSrc → SSrc → Trig → Instr) : Dec (Trig → Instr) :=
  Dec.need (fX r ≠ 0) 4 (Dec.ap3 k (SDst.dec (fD r)) (SSrc.dec (fA r)) (SSrc.dec (fB r)))

/-- Format T with two vector sources. -/
def tV (r : Nat) (k : VDst → VSrc → VSrc → Trig → Instr) : Dec (Trig → Instr) :=
  Dec.need (fX r ≠ 0) 4 (Dec.ap3 k (VDst.dec (fD r)) (VSrc.dec (fA r)) (VSrc.dec (fB r)))

/-- Format T of a multiply-add, whose destination is a vector register (R275). -/
def tF (r : Nat) (k : Fin 32 → VSrc → VSrc → Trig → Instr) : Dec (Trig → Instr) :=
  Dec.need (fX r ≠ 0) 4 (Dec.ap3 k (vregDec (fD r)) (VSrc.dec (fA r)) (VSrc.dec (fB r)))

/-- Format T of a request with two scalar operands and a reply queue. -/
def tQ (r : Nat) (k : Fin 4 → SSrc → SSrc → Trig → Instr) : Dec (Trig → Instr) :=
  Dec.need (fX r ≠ 0) 4 (Dec.ap3 k (portDec (fD r)) (SSrc.dec (fA r)) (SSrc.dec (fB r)))

/-- Format T of a request whose first operand is an even register (R354). -/
def tE (r : Nat) (k : Fin 4 → Fin 8 → SSrc → Trig → Instr) : Dec (Trig → Instr) :=
  Dec.need (fX r ≠ 0) 4 (Dec.ap3 k (portDec (fD r)) (evenDec 14 (fA r)) (SSrc.dec (fB r)))

/-- Format T of a store: a reply, an address, a scalar or vector operand (R371, R373). -/
def tR (r : Nat) (k : RDst → SSrc → ASrc → Trig → Instr) : Dec (Trig → Instr) :=
  Dec.need (fX r ≠ 0) 4 (Dec.ap3 k (RDst.dec (fD r)) (SSrc.dec (fA r)) (ASrc.dec (fB r)))

/-- Format I with a 13-bit immediate (R78). -/
def iS (r : Nat) (k : Fin 16 → BitVec 13 → Trig → Instr) : Dec (Trig → Instr) :=
  Dec.ap1 (fun d => k d (BitVec.ofNat 13 (fImm r))) (sregDec (fD r))

/-- Format I of a shift, whose immediate lies between 0 and 63 (R78). -/
def iC (r : Nat) (k : Fin 16 → Fin 64 → Trig → Instr) : Dec (Trig → Instr) :=
  Dec.need (64 ≤ fImm r) 5 (Dec.ap1 (fun d => k d (fin 64 (fImm r))) (sregDec (fD r)))

/-- Format U with a scalar destination and a scalar source. -/
def uS (r : Nat) (k : SDst → SSrc → Trig → Instr) : Dec (Trig → Instr) :=
  Dec.ap2 k (SDst.dec (fD r)) (SSrc.dec (fA r))

/-- Format U with a vector destination and a vector source. -/
def uV (r : Nat) (k : VDst → VSrc → Trig → Instr) : Dec (Trig → Instr) :=
  Dec.ap2 k (VDst.dec (fD r)) (VSrc.dec (fA r))

/-- Format U with a reply queue and a scalar source. -/
def uQ (r : Nat) (k : Fin 4 → SSrc → Trig → Instr) : Dec (Trig → Instr) :=
  Dec.ap2 k (portDec (fD r)) (SSrc.dec (fA r))

/-- Format U with a port or queue and a vector source. -/
def uO (r : Nat) (k : Fin 4 → VSrc → Trig → Instr) : Dec (Trig → Instr) :=
  Dec.ap2 k (portDec (fD r)) (VSrc.dec (fA r))

/-- Format U with a reply queue and an even register. -/
def uE (r : Nat) (k : Fin 4 → Fin 8 → Trig → Instr) : Dec (Trig → Instr) :=
  Dec.ap2 k (portDec (fD r)) (evenDec 14 (fA r))

/-- Format U with an optional reply queue and an even register. -/
def uR (r : Nat) (k : RDst → Fin 8 → Trig → Instr) : Dec (Trig → Instr) :=
  Dec.ap2 k (RDst.dec (fD r)) (evenDec 14 (fA r))

/-- Format U with an optional reply queue and a scalar source. -/
def uRS (r : Nat) (k : RDst → SSrc → Trig → Instr) : Dec (Trig → Instr) :=
  Dec.ap2 k (RDst.dec (fD r)) (SSrc.dec (fA r))

/-- Format U whose D must be zero and whose A is a scalar source. -/
def uA (r : Nat) (k : SSrc → Trig → Instr) : Dec (Trig → Instr) :=
  Dec.need (fD r ≠ 0) 4 (Dec.ap1 k (SSrc.dec (fA r)))

/-- Format U without operands: D and A must be zero. -/
def u0 (r : Nat) (k : Trig → Instr) : Dec (Trig → Instr) :=
  Dec.need (fD r ≠ 0) 4 (Dec.need (fA r ≠ 0) 4 (.ok k))

/-- A cell whose FN must be 0: any other value is unassigned, with cause 2 (R93). -/
def fn0 (r : Nat) (x : Dec (Trig → Instr)) : Dec (Trig → Instr) := Dec.need (fFN r ≠ 0) 2 x

/-- A cell whose FN has a subfield of `2^n = k` codes: every bit outside it must be zero (R93). -/
def sub (r k : Nat) (x : Dec (Trig → Instr)) : Dec (Trig → Instr) := Dec.need (k ≤ fFN r) 4 x

/-- An atomic (R288, R289): `limit` bounds the register, `bad` are the uses that the cell does not have. -/
def uAt (r limit : Nat) (bad : Nat → Bool) (k : RDst → Fin 8 → AtOrd → Trig → Instr) : Dec (Trig → Instr) :=
  let fn := fFN r
  Dec.need (decide (fn < 64) && bad (fn % 8)) 2
    (Dec.need (decide (fn < 64 ∧ fn % 8 = 1 ∧ fD r ≠ 56)) 5
      (Dec.need (decide (64 ≤ fn ∧ fn / 16 % 2 = 1 ∧ fD r = 56)) 5
        (Dec.ap3 k (RDst.dec (fD r)) (evenDec limit (fA r)) (AtOrd.dec fn))))

/-- A fence (R307). -/
def uFence (r : Nat) : Dec (Trig → Instr) :=
  let fn := fFN r
  Dec.need (fn < 64) 2
    (Dec.need (fn / 8 % 2 = 1) 4
      (Dec.need (decide (fn / 16 % 2 = 1 ∧ fD r = 56)) 5
        (Dec.ap4 (fun d a o sc t => .fence t d a o sc) (RDst.dec (fD r)) (SSrc.dec (fA r))
          (SyncOrd.dec (fn / 16 % 4)) (Scope.dec (fn % 8)))))

/-- SEL: both operands scalar or both vector; any other pairing has cause 5 (R367). -/
def uSel (r : Nat) : Dec (Trig → Instr) :=
  let k (o : SelOp) (t : Trig) : Instr := .sel t o (r / 8 % 2 == 1) (fin 8 r)
  sub r 16
    (if fD r < 32 then Dec.ap2 (fun d a => k (.v d a)) (vregDec (fD r)) (VSrc.dec (fA r))
     else Dec.ap2 (fun d a => k (.s d a)) (sregDec (fD r)) (SSrc.dec (fA r)))

/-- A predicate operation: with .MOV field B must be zero (R352, R80). -/
def pLog (r : Nat) : Dec (Trig → Instr) :=
  Dec.need (decide (pFN r = 5 ∧ pB r ≠ 0)) 4
    (Dec.ap3 (fun a b f t => .plog t (fin 8 (pPD r)) (pPOL r) a b f) (predDec (pA r)) (predDec (pB r)) (LogOp.dec (pFN r)))

/-- A mask operation (R319). -/
def kLog (r : Nat) : Dec (Trig → Instr) :=
  Dec.need (decide (pFN r = 5 ∧ pB r ≠ 0)) 4
    (Dec.ap4 (fun d a b f t => .klog t d (pPOL r) a b f) (pdMaskDec (pPD r)) (maskDec (pA r)) (maskDec (pB r)) (LogOp.dec (pFN r)))

/-! ## The opcode map (R92); one function for each row of the grid -/

/-- Row 0x00 of the opcode map, column `c`. -/
def row0 (c r : Nat) : Dec (Trig → Instr) :=
  match c with
  | 1 => (match fFN r with
    | 0 => u0 r .nop
    | 1 => u0 r .halt
    | 2 => u0 r .trap
    | 3 => u0 r .tmark
    | _ => .error 2)
  | 2 => Dec.need (fA r ≠ 0) 4 (Dec.ap2 (fun d g t => .rdsr t d g) (SDst.dec (fD r)) (SysReg.dec (fFN r)))
  | 3 => Dec.need (fFN r ≠ 4) 2 (uA r (fun a t => .wrsr t a))
  | 4 => iS r (fun d i t => .movi t d i)
  | 5 => iS r (fun d i t => .movhi t d i)
  | 6 => uSel r
  | 7 => Dec.need (fA r ≠ 0) 4 (Dec.ap2 (fun d f t => .wfld t d f) (SDst.dec (fD r)) (WField.dec (fFN r)))
  | _ => .error 1

/-- Row 0x08 of the opcode map, column `c`. -/
def row1 (c r : Nat) : Dec (Trig → Instr) :=
  match c with
  | 0 => tS r (fun d a b t => .add t d a b)
  | 1 => iS r (fun d i t => .addi t d i)
  | 2 => tS r (fun d a b t => .sub t d a b)
  | 3 => tS r (fun d a b t => .mul t d a b)
  | 4 => tS r (fun d a b t => .mulh t d a b)
  | 5 => tS r (fun d a b t => .mulhu t d a b)
  | 6 => tS r (fun d a b t => .div t d a b)
  | 7 => tS r (fun d a b t => .divu t d a b)
  | _ => .error 1

/-- Row 0x10 of the opcode map, column `c`. -/
def row2 (c r : Nat) : Dec (Trig → Instr) :=
  match c with
  | 0 => tS r (fun d a b t => .rem t d a b)
  | 1 => tS r (fun d a b t => .remu t d a b)
  | 2 => tS r (fun d a b t => .and t d a b)
  | 3 => iS r (fun d i t => .andi t d i)
  | 4 => tS r (fun d a b t => .or t d a b)
  | 5 => iS r (fun d i t => .ori t d i)
  | 6 => tS r (fun d a b t => .xor t d a b)
  | 7 => iS r (fun d i t => .xori t d i)
  | _ => .error 1

/-- Row 0x18 of the opcode map, column `c`. -/
def row3 (c r : Nat) : Dec (Trig → Instr) :=
  match c with
  | 0 => tS r (fun d a b t => .shl t d a b)
  | 1 => iC r (fun d i t => .shli t d i)
  | 2 => tS r (fun d a b t => .shr t d a b)
  | 3 => iC r (fun d i t => .shri t d i)
  | 4 => tS r (fun d a b t => .sar t d a b)
  | 5 => iC r (fun d i t => .sari t d i)
  | 6 => tS r (fun d a b t => .min t d a b)
  | 7 => tS r (fun d a b t => .minu t d a b)
  | _ => .error 1

/-- Row 0x20 of the opcode map, column `c`. -/
def row4 (c r : Nat) : Dec (Trig → Instr) :=
  match c with
  | 0 => tS r (fun d a b t => .max t d a b)
  | 1 => tS r (fun d a b t => .maxu t d a b)
  | 2 => (match fFN r with
    | 0 => uS r (fun d a t => .clz t d a)
    | 1 => uS r (fun d a t => .popc t d a)
    | _ => .error 2)
  | 3 => tS r (fun d a b t => .bfx t d a b)
  | 4 => Dec.need (fX r ≠ 0) 4 (Dec.ap3 (fun d a b t => .bfi t d a b) (sregDec (fD r)) (SSrc.dec (fA r)) (SSrc.dec (fB r)))
  | 5 => Dec.ap3 (fun a b c t => .cmp t (fin 8 (pPD r)) (pPOL r) a b c) (SSrc.dec (pA r)) (SSrc.dec (pB r)) (Cond.dec (pFN r))
  | 6 => Dec.ap2 (fun a c t => .cmpi t (fin 8 (pPD r)) (pPOL r) a (BitVec.ofNat 6 (pB r)) c) (SSrc.dec (pA r)) (Cond.dec (pFN r))
  | 7 => pLog r
  | _ => .error 1

/-- Row 0x28 of the opcode map, column `c`. -/
def row5 (c r : Nat) : Dec (Trig → Instr) :=
  match c with
  | 0 => tV r (fun d a b t => .vadd t d a b)
  | 1 => tV r (fun d a b t => .vsub t d a b)
  | 2 => tV r (fun d a b t => .vmul t d a b)
  | 3 => tF r (fun d a b t => .vfma t d a b)
  | 4 => tF r (fun d a b t => .vfms t d a b)
  | 5 => tF r (fun d a b t => .vfnma t d a b)
  | 6 => tV r (fun d a b t => .vmin t d a b)
  | 7 => tV r (fun d a b t => .vmax t d a b)
  | _ => .error 1

/-- Row 0x30 of the opcode map, column `c`. -/
def row6 (c r : Nat) : Dec (Trig → Instr) :=
  match c with
  | 0 => (match fFN r with
    | 0 => uV r (fun d a t => .vabs t d a)
    | 1 => uV r (fun d a t => .vneg t d a)
    | 2 => uV r (fun d a t => .vmov t d a)
    | 3 => Dec.ap2 (fun d a t => .vbcast t d a) (VDst.dec (fD r)) (SSrc.dec (fA r))
    | _ => .error 2)
  | 1 => Dec.ap4 (fun d a b c t => .vcmp t d (pPOL r) a b c) (pdMaskDec (pPD r)) (VSrc.dec (pA r)) (VSrc.dec (pB r)) (Cond.decF (pFN r))
  | 2 => sub r 4 (Dec.ap2 (fun d a t => .vsel t d a (fin 4 r)) (vregDec (fD r)) (VSrc.dec (fA r)))
  | 3 => sub r 16 (Dec.ap2 (fun d a t => .vextr t d a (fin 16 r)) (SDst.dec (fD r)) (VSrc.dec (fA r)))
  | 4 => (match fFN r with
    | 0 => uV r (fun d a t => .vrcps t d a)
    | 1 => uV r (fun d a t => .vrsqs t d a)
    | 2 => uV r (fun d a t => .vexp2s t d a)
    | 3 => uV r (fun d a t => .vlog2s t d a)
    | _ => .error 2)
  | 5 => sub r 8 (Dec.ap3 (fun d a m t => .vrnd t d a m) (VDst.dec (fD r)) (VSrc.dec (fA r)) (RMode.dec (r % 8)))
  | 6 => tV r (fun d a b t => .vscale t d a b)
  | 7 => sub r 16 (Dec.ap3 (fun d a m t => if fFN r / 8 % 2 = 1 then .vcvtf t d a m else .vcvti t d a m) (VDst.dec (fD r)) (VSrc.dec (fA r)) (RMode.dec (r % 8)))
  | _ => .error 1

/-- Row 0x38 of the opcode map, column `c`. -/
def row7 (c r : Nat) : Dec (Trig → Instr) :=
  match c with
  | 0 => Dec.ap3 (fun d a p t => .vsrnd t d a p) (VDst.dec (fD r)) (VSrc.dec (fA r)) (Prec.dec (fFN r))
  | 1 => tV r (fun d a b t => .viadd t d a b)
  | 2 => tV r (fun d a b t => .visub t d a b)
  | 3 => tV r (fun d a b t => .vimul t d a b)
  | 4 => tV r (fun d a b t => .vimin t d a b)
  | 5 => tV r (fun d a b t => .vimax t d a b)
  | 6 => tV r (fun d a b t => .vand t d a b)
  | 7 => tV r (fun d a b t => .vor t d a b)
  | _ => .error 1

/-- Row 0x40 of the opcode map, column `c`. -/
def row8 (c r : Nat) : Dec (Trig → Instr) :=
  match c with
  | 0 => tV r (fun d a b t => .vxor t d a b)
  | 1 => tV r (fun d a b t => .vshl t d a b)
  | 2 => tV r (fun d a b t => .vshr t d a b)
  | 3 => tV r (fun d a b t => .vsar t d a b)
  | 4 => Dec.ap4 (fun d a b c t => .vicmp t d (pPOL r) a b c) (pdMaskDec (pPD r)) (VSrc.dec (pA r)) (VSrc.dec (pB r)) (Cond.dec (pFN r))
  | 5 => tV r (fun d a b t => .vperm t d a b)
  | 6 => sub r 32 (Dec.ap2 (fun d a t => .vrot t d a (r / 16 % 2 == 1) (fin 16 r)) (VDst.dec (fD r)) (VSrc.dec (fA r)))
  | 7 => (match fFN r with
    | 0 => Dec.ap2 (fun d a t => .vreda t d a) (ADst.dec (fD r)) (VSrc.dec (fA r))
    | 1 => Dec.ap2 (fun d a t => .vredmMax t d a) (ADst.dec (fD r)) (VSrc.dec (fA r))
    | 2 => Dec.ap2 (fun d a t => .vredmMin t d a) (ADst.dec (fD r)) (VSrc.dec (fA r))
    | _ => .error 2)
  | _ => .error 1

/-- Row 0x48 of the opcode map, column `c`. -/
def row9 (c r : Nat) : Dec (Trig → Instr) :=
  match c with
  | 0 => sub r 4 (Dec.ap3 (fun d a o t => .vscan t d a o) (VDst.dec (fD r)) (VSrc.dec (fA r)) (ScanOp.dec (r % 4)))
  | 1 => sub r 4 (uV r (fun d a t => .vcprs t d a (fin 4 r)))
  | 2 => sub r 4 (uV r (fun d a t => .vxpnd t d a (fin 4 r)))
  | 3 => kLog r
  | 4 => (match fFN r with
    | 0 => Dec.ap2 (fun k a t => .kmovToMask t k a) (maskDec (fD r)) (SSrc.dec (fA r))
    | 1 => Dec.ap2 (fun d k t => .kmovFromMask t d k) (SDst.dec (fD r)) (maskDec (fA r))
    | _ => .error 2)
  | 5 => fn0 r (Dec.need (fD r ≠ 0) 4 (Dec.ap1 (fun n t => .mcfg t n) (evenDec 14 (fA r))))
  | 6 => fn0 r (Dec.need (fD r ≠ 0) 4 (Dec.ap1 (fun q t => .mldb t q) (queueDec (fA r))))
  | 7 => sub r 2 (if r % 2 = 0 then Dec.ap2 (fun o q t => .mrow t o q) (portDec (fD r)) (queueDec (fA r))
      else Dec.need (fA r ≠ 0) 4 (Dec.ap1 (fun o t => .mrowG t o) (portDec (fD r))))
  | _ => .error 1

/-- Row 0x50 of the opcode map, column `c`. -/
def row10 (c r : Nat) : Dec (Trig → Instr) :=
  match c with
  | 0 => fn0 r (Dec.need (fD r ≠ 0) 4 (Dec.ap1 (fun a t => .mgath t a) (VSrc.dec (fA r))))
  | 1 => sub r 4 (if r % 2 = 0 then Dec.need (fA r ≠ 0) 4 (Dec.ap1 (fun o t => .mdrain t o (r / 2 % 2 == 1)) (portDec (fD r)))
      else Dec.ap2 (fun o (pq : Bool × Fin 4) t => .mdrainR t o pq.1 pq.2 (r / 2 % 2 == 1)) (portDec (fD r))
        (if 48 ≤ fA r ∧ fA r < 56 then .ok (decide (52 ≤ fA r), fin 4 (fA r)) else .error 5))
  | 2 => fn0 r (u0 r .mzero)
  | 3 => (match fFN r with
    | 0 => uQ r (fun d a t => .ldsN t d a)
    | 1 => uQ r (fun d a t => .ldsW t d a)
    | 2 => uQ r (fun d a t => .ldsWc t d a)
    | _ => .error 2)
  | 4 => tR r (fun d a b t => .sts t d a b)
  | 5 => (match fFN r with
    | 0 => uR r (fun d a t => .feopClr t d a)
    | 1 => uR r (fun d a t => .feopSet t d a)
    | _ => .error 2)
  | 6 => fn0 r (uQ r (fun d a t => .ldg t d a))
  | 7 => tR r (fun d a b t => .stg t d a b)
  | _ => .error 1

/-- Row 0x58 of the opcode map, column `c`. -/
def row11 (c r : Nat) : Dec (Trig → Instr) :=
  match c with
  | 0 => sub r 8 (Dec.ap2 (fun q n t => .ldw t q n (fin 8 r)) (portDec (fD r)) (evenDec 14 (fA r)))
  | 1 => uAt r 14 (fun _ => false) (fun d n o t => .aadd t d n o)
  | 2 => uAt r 14 (fun _ => false) (fun d n o t => .afadd t d n o)
  | 3 => uAt r 14 (fun _ => false) (fun d n o t => .amin t d n o)
  | 4 => uAt r 14 (fun _ => false) (fun d n o t => .amax t d n o)
  | 5 => uAt r 14 (fun _ => false) (fun d n o t => .aand t d n o)
  | 6 => uAt r 14 (fun _ => false) (fun d n o t => .aor t d n o)
  | 7 => uAt r 14 (fun _ => false) (fun d n o t => .axor t d n o)
  | _ => .error 1

/-- Row 0x60 of the opcode map, column `c`. -/
def row12 (c r : Nat) : Dec (Trig → Instr) :=
  match c with
  | 0 => uAt r 14 (fun u => u == 1) (fun d n o t => .aswp t d n o)
  | 1 => uAt r 12 (fun u => u == 1 || u == 3) (fun d n o t => .acas t d n o)
  | 2 => uFence r
  | 3 => sub r 8 (Dec.ap3 (fun q a sc t => .bar t q a sc) (portDec (fD r)) (SSrc.dec (fA r)) (BarScope.dec (r % 8)))
  | 4 => fn0 r (uA r (fun a t => .tset t a))
  | 5 => fn0 r (uA r (fun a t => .tcommit t a))
  | 6 => Dec.ap3 (fun q a b t => .hnew t q a b (r % 2 == 1)) (portDec (fD r)) (SSrc.dec (fA r)) (SSrc.dec (fB r))
  | 7 => (match fFN r % 8 with
    | 0 => sub r 8 (uRS r (fun d a t => .hdup t d a))
    | 1 => sub r 8 (uRS r (fun d a t => .hrel t d a))
    | 2 => sub r 8 (uS r (fun d a t => .hweak t d a))
    | 3 => sub r 64 (uQ r (fun q a t => .hupg t q a (fin 8 (r / 8))))
    | 4 => sub r 8 (uQ r (fun q a t => .hinfo t q a))
    | _ => .error 2)
  | _ => .error 1

/-- Row 0x68 of the opcode map, column `c`. -/
def row13 (c r : Nat) : Dec (Trig → Instr) :=
  match c with
  | 0 => sub r 16 (uRS r (fun d a t => .hprio t d a (fin 16 r)))
  | 1 => (match fFN r with
    | 0 => uR r (fun d a t => .sinitQs t d a)
    | 1 => uR r (fun d a t => .sinitHh t d a)
    | 2 => uR r (fun d a t => .sinitDc t d a)
    | _ => .error 2)
  | 2 => (match fFN r with
    | 0 => uO r (fun d a t => .qsins t d a)
    | 1 => uO r (fun d a t => .hhins t d a)
    | 2 => uO r (fun d a t => .dcins t d a)
    | _ => .error 2)
  | 3 => Dec.need (fX r ≠ 0) 4 (Dec.ap3 (fun d a b t => .smerge t d a b) (RDst.dec (fD r)) (SSrc.dec (fA r)) (SSrc.dec (fB r)))
  | 4 => (match fFN r with
    | 0 => uE r (fun d a t => .qread t d a)
    | 1 => uE r (fun d a t => .qrank t d a)
    | 2 => uE r (fun d a t => .hhget t d a)
    | 3 => uE r (fun d a t => .dcest t d a)
    | _ => .error 2)
  | 5 => fn0 r (uR r (fun d a t => .tkinit t d a))
  | 6 => tQ r (fun d a b t => .tkins t d a b)
  | 7 => fn0 r (uE r (fun d a t => .tkout t d a))
  | _ => .error 1

/-- Row 0x70 of the opcode map, column `c`. -/
def row14 (c r : Nat) : Dec (Trig → Instr) :=
  match c with
  | 0 => fn0 r (uQ r (fun d a t => .pfrag t d a))
  | 1 => tQ r (fun d a b t => .pseq t d a b)
  | 2 => tQ r (fun d a b t => .povl t d a b)
  | 3 => tE r (fun d a b t => .ppipe t d a b)
  | 4 => tE r (fun d a b t => .pnest t d a b)
  | 5 => tQ r (fun d a b t => .prep t d a b)
  | 6 => fn0 r (uE r (fun d a t => .piface t d a))
  | 7 => fn0 r (uQ r (fun d a t => .pcost t d a))
  | _ => .error 1

/-- Row 0x78 of the opcode map, column `c`. -/
def row15 (c r : Nat) : Dec (Trig → Instr) :=
  match c with
  | 0 => Dec.ap3 (fun q a b t => if r % 2 = 1 then .plaunchC t q a b else .plaunch t q a b) (portDec (fD r)) (SSrc.dec (fA r)) (SSrc.dec (fB r))
  | 1 => fn0 r (uRS r (fun d a t => .pfree t d a))
  | 2 => fn0 r (uO r (fun o a t => .xreq t o a))
  | 3 => fn0 r (uA r (fun a t => .xexp t a))
  | 4 => fn0 r (uQ r (fun d a t => .crdy t d a))
  | 5 => fn0 r (uQ r (fun d a t => .cslot t d a))
  | 6 => sub r 8 (uO r (fun q a t => .qpush t q a (fin 8 r)))
  | 7 => sub r 8 (Dec.need (fA r ≠ 0) 4 (Dec.ap1 (fun q t => .rnext t q (fin 8 r)) (portDec (fD r))))
  | _ => .error 1

/-- The instruction of major opcode `opc` with operand bits `r` (R92); opcode 0 is unassigned. -/
def decodeOp (opc r : Nat) : Dec (Trig → Instr) :=
  match opc / 8 with
  | 0 => row0 (opc % 8) r
  | 1 => row1 (opc % 8) r
  | 2 => row2 (opc % 8) r
  | 3 => row3 (opc % 8) r
  | 4 => row4 (opc % 8) r
  | 5 => row5 (opc % 8) r
  | 6 => row6 (opc % 8) r
  | 7 => row7 (opc % 8) r
  | 8 => row8 (opc % 8) r
  | 9 => row9 (opc % 8) r
  | 10 => row10 (opc % 8) r
  | 11 => row11 (opc % 8) r
  | 12 => row12 (opc % 8) r
  | 13 => row13 (opc % 8) r
  | 14 => row14 (opc % 8) r
  | 15 => row15 (opc % 8) r
  | _ => .error 1

/-- A slot word (R77): its instruction, or the lowest cause that makes it illegal. -/
def decodeSlot (w : BitVec 32) : Dec Instr :=
  let n := w.toNat
  Dec.app (decodeOp (n / 524288 % 128) (n % 524288)) (Trig.dec (n / 67108864))

/-- The instruction of a slot word, where it is legal. -/
def decodeWord (w : BitVec 32) : Option Instr :=
  match decodeSlot w with
  | .ok i => some i
  | .error _ => none

/-- The instruction of a word numbered as the opcode table numbers its bits; a slot word has 32 bits and stands alone. -/
def decodeTableWord (nbits w : Nat) : Option Instr :=
  if nbits = 32 then decodeWord (BitVec.ofNat 32 w) else none

/-! ## The encoder -/

/-- A word of format T, or of format U with FN = 2 * b + x (R77). -/
def wordT (t : Trig) (opc d a b x : Nat) : BitVec 32 :=
  BitVec.ofNat 32 (t.enc * 67108864 + opc * 524288 + d * 8192 + a * 128 + b * 2 + x)

/-- A word of format U (R77). -/
def wordU (t : Trig) (opc d a fn : Nat) : BitVec 32 :=
  BitVec.ofNat 32 (t.enc * 67108864 + opc * 524288 + d * 8192 + a * 128 + fn)

/-- A word of format I (R77). -/
def wordI (t : Trig) (opc d imm : Nat) : BitVec 32 :=
  BitVec.ofNat 32 (t.enc * 67108864 + opc * 524288 + d * 8192 + imm)

/-- A word of format P (R77). -/
def wordP (t : Trig) (opc pd : Nat) (pol : Bool) (a b fn : Nat) : BitVec 32 :=
  BitVec.ofNat 32 (t.enc * 67108864 + opc * 524288 + pd * 65536 + pol.toNat * 32768 + a * 512 + b * 8 + fn)

/-- The code of an even register s(2n). -/
def evenEnc (n : Fin 8) : Nat := 32 + 2 * n.val

/-- The word of a slot instruction, written from the encoding tables (R77, R92, R93, R95); the events have no word. -/
def encode : Instr → Option (BitVec 32)
  | .nop t => some (wordU t 0x01 0 0 0)
  | .halt t => some (wordU t 0x01 0 0 1)
  | .trap t => some (wordU t 0x01 0 0 2)
  | .tmark t => some (wordU t 0x01 0 0 3)
  | .rdsr t d g => some (wordU t 0x02 d.enc 0 g.enc)
  | .wrsr t a => some (wordU t 0x03 0 a.enc 4)
  | .movi t d i => some (wordI t 0x04 (32 + d.val) i.toNat)
  | .movhi t d i => some (wordI t 0x05 (32 + d.val) i.toNat)
  | .sel t o p n => some (match o with
    | .s d a => wordU t 0x06 (32 + d.val) a.enc (8 * p.toNat + n.val)
    | .v d a => wordU t 0x06 d.val a.enc (8 * p.toNat + n.val))
  | .wfld t d f => some (wordU t 0x07 d.enc 0 f.enc)
  | .add t d a b => some (wordT t 0x08 d.enc a.enc b.enc 0)
  | .addi t d i => some (wordI t 0x09 (32 + d.val) i.toNat)
  | .sub t d a b => some (wordT t 0x0A d.enc a.enc b.enc 0)
  | .mul t d a b => some (wordT t 0x0B d.enc a.enc b.enc 0)
  | .mulh t d a b => some (wordT t 0x0C d.enc a.enc b.enc 0)
  | .mulhu t d a b => some (wordT t 0x0D d.enc a.enc b.enc 0)
  | .div t d a b => some (wordT t 0x0E d.enc a.enc b.enc 0)
  | .divu t d a b => some (wordT t 0x0F d.enc a.enc b.enc 0)
  | .rem t d a b => some (wordT t 0x10 d.enc a.enc b.enc 0)
  | .remu t d a b => some (wordT t 0x11 d.enc a.enc b.enc 0)
  | .and t d a b => some (wordT t 0x12 d.enc a.enc b.enc 0)
  | .andi t d i => some (wordI t 0x13 (32 + d.val) i.toNat)
  | .or t d a b => some (wordT t 0x14 d.enc a.enc b.enc 0)
  | .ori t d i => some (wordI t 0x15 (32 + d.val) i.toNat)
  | .xor t d a b => some (wordT t 0x16 d.enc a.enc b.enc 0)
  | .xori t d i => some (wordI t 0x17 (32 + d.val) i.toNat)
  | .shl t d a b => some (wordT t 0x18 d.enc a.enc b.enc 0)
  | .shli t d i => some (wordI t 0x19 (32 + d.val) i.val)
  | .shr t d a b => some (wordT t 0x1A d.enc a.enc b.enc 0)
  | .shri t d i => some (wordI t 0x1B (32 + d.val) i.val)
  | .sar t d a b => some (wordT t 0x1C d.enc a.enc b.enc 0)
  | .sari t d i => some (wordI t 0x1D (32 + d.val) i.val)
  | .min t d a b => some (wordT t 0x1E d.enc a.enc b.enc 0)
  | .minu t d a b => some (wordT t 0x1F d.enc a.enc b.enc 0)
  | .max t d a b => some (wordT t 0x20 d.enc a.enc b.enc 0)
  | .maxu t d a b => some (wordT t 0x21 d.enc a.enc b.enc 0)
  | .clz t d a => some (wordU t 0x22 d.enc a.enc 0)
  | .popc t d a => some (wordU t 0x22 d.enc a.enc 1)
  | .bfx t d a b => some (wordT t 0x23 d.enc a.enc b.enc 0)
  | .bfi t d a b => some (wordT t 0x24 (32 + d.val) a.enc b.enc 0)
  | .cmp t pd p a b c => some (wordP t 0x25 pd.val p a.enc b.enc c.enc)
  | .cmpi t pd p a i c => some (wordP t 0x26 pd.val p a.enc i.toNat c.enc)
  | .plog t pd p a b f => some (wordP t 0x27 pd.val p a.val b.val f.enc)
  | .vadd t d a b => some (wordT t 0x28 d.enc a.enc b.enc 0)
  | .vsub t d a b => some (wordT t 0x29 d.enc a.enc b.enc 0)
  | .vmul t d a b => some (wordT t 0x2A d.enc a.enc b.enc 0)
  | .vfma t d a b => some (wordT t 0x2B d.val a.enc b.enc 0)
  | .vfms t d a b => some (wordT t 0x2C d.val a.enc b.enc 0)
  | .vfnma t d a b => some (wordT t 0x2D d.val a.enc b.enc 0)
  | .vmin t d a b => some (wordT t 0x2E d.enc a.enc b.enc 0)
  | .vmax t d a b => some (wordT t 0x2F d.enc a.enc b.enc 0)
  | .vabs t d a => some (wordU t 0x30 d.enc a.enc 0)
  | .vneg t d a => some (wordU t 0x30 d.enc a.enc 1)
  | .vmov t d a => some (wordU t 0x30 d.enc a.enc 2)
  | .vbcast t d a => some (wordU t 0x30 d.enc a.enc 3)
  | .vcmp t kd p a b c => some (wordP t 0x31 kd.val p a.enc b.enc c.enc)
  | .vsel t d a m => some (wordU t 0x32 d.val a.enc m.val)
  | .vextr t d a n => some (wordU t 0x33 d.enc a.enc n.val)
  | .vrcps t d a => some (wordU t 0x34 d.enc a.enc 0)
  | .vrsqs t d a => some (wordU t 0x34 d.enc a.enc 1)
  | .vexp2s t d a => some (wordU t 0x34 d.enc a.enc 2)
  | .vlog2s t d a => some (wordU t 0x34 d.enc a.enc 3)
  | .vrnd t d a m => some (wordU t 0x35 d.enc a.enc m.enc)
  | .vscale t d a b => some (wordT t 0x36 d.enc a.enc b.enc 0)
  | .vcvti t d a m => some (wordU t 0x37 d.enc a.enc m.enc)
  | .vcvtf t d a m => some (wordU t 0x37 d.enc a.enc (8 + m.enc))
  | .vsrnd t d a p => some (wordU t 0x38 d.enc a.enc p.enc)
  | .viadd t d a b => some (wordT t 0x39 d.enc a.enc b.enc 0)
  | .visub t d a b => some (wordT t 0x3A d.enc a.enc b.enc 0)
  | .vimul t d a b => some (wordT t 0x3B d.enc a.enc b.enc 0)
  | .vimin t d a b => some (wordT t 0x3C d.enc a.enc b.enc 0)
  | .vimax t d a b => some (wordT t 0x3D d.enc a.enc b.enc 0)
  | .vand t d a b => some (wordT t 0x3E d.enc a.enc b.enc 0)
  | .vor t d a b => some (wordT t 0x3F d.enc a.enc b.enc 0)
  | .vxor t d a b => some (wordT t 0x40 d.enc a.enc b.enc 0)
  | .vshl t d a b => some (wordT t 0x41 d.enc a.enc b.enc 0)
  | .vshr t d a b => some (wordT t 0x42 d.enc a.enc b.enc 0)
  | .vsar t d a b => some (wordT t 0x43 d.enc a.enc b.enc 0)
  | .vicmp t kd p a b c => some (wordP t 0x44 kd.val p a.enc b.enc c.enc)
  | .vperm t d a b => some (wordT t 0x45 d.enc a.enc b.enc 0)
  | .vrot t d a dn n => some (wordU t 0x46 d.enc a.enc (16 * dn.toNat + n.val))
  | .vreda t d a => some (wordU t 0x47 d.enc a.enc 0)
  | .vredmMax t d a => some (wordU t 0x47 d.enc a.enc 1)
  | .vredmMin t d a => some (wordU t 0x47 d.enc a.enc 2)
  | .vscan t d a o => some (wordU t 0x48 d.enc a.enc o.enc)
  | .vcprs t d a m => some (wordU t 0x49 d.enc a.enc m.val)
  | .vxpnd t d a m => some (wordU t 0x4A d.enc a.enc m.val)
  | .klog t kd p a b f => some (wordP t 0x4B kd.val p a.val b.val f.enc)
  | .kmovToMask t k a => some (wordU t 0x4C k.val a.enc 0)
  | .kmovFromMask t d k => some (wordU t 0x4C d.enc k.val 1)
  | .mcfg t n => some (wordU t 0x4D 0 (evenEnc n) 0)
  | .mldb t q => some (wordU t 0x4E 0 (48 + q.val) 0)
  | .mrow t o q => some (wordU t 0x4F (48 + o.val) (48 + q.val) 0)
  | .mrowG t o => some (wordU t 0x4F (48 + o.val) 0 1)
  | .mgath t a => some (wordU t 0x50 0 a.enc 0)
  | .mdrain t o p => some (wordU t 0x51 (48 + o.val) 0 (2 * p.toNat))
  | .mdrainR t o k q p => some (wordU t 0x51 (48 + o.val) (48 + 4 * k.toNat + q.val) (1 + 2 * p.toNat))
  | .mzero t => some (wordU t 0x52 0 0 0)
  | .ldsN t q a => some (wordU t 0x53 (48 + q.val) a.enc 0)
  | .ldsW t q a => some (wordU t 0x53 (48 + q.val) a.enc 1)
  | .ldsWc t q a => some (wordU t 0x53 (48 + q.val) a.enc 2)
  | .sts t d a b => some (wordT t 0x54 d.enc a.enc b.enc 0)
  | .feopClr t d n => some (wordU t 0x55 d.enc (evenEnc n) 0)
  | .feopSet t d n => some (wordU t 0x55 d.enc (evenEnc n) 1)
  | .ldg t q a => some (wordU t 0x56 (48 + q.val) a.enc 0)
  | .stg t d a b => some (wordT t 0x57 d.enc a.enc b.enc 0)
  | .ldw t q n m => some (wordU t 0x58 (48 + q.val) (evenEnc n) m.val)
  | .aadd t d n o => some (wordU t 0x59 d.enc (evenEnc n) o.enc)
  | .afadd t d n o => some (wordU t 0x5A d.enc (evenEnc n) o.enc)
  | .amin t d n o => some (wordU t 0x5B d.enc (evenEnc n) o.enc)
  | .amax t d n o => some (wordU t 0x5C d.enc (evenEnc n) o.enc)
  | .aand t d n o => some (wordU t 0x5D d.enc (evenEnc n) o.enc)
  | .aor t d n o => some (wordU t 0x5E d.enc (evenEnc n) o.enc)
  | .axor t d n o => some (wordU t 0x5F d.enc (evenEnc n) o.enc)
  | .aswp t d n o => some (wordU t 0x60 d.enc (evenEnc n) o.enc)
  | .acas t d n o => some (wordU t 0x61 d.enc (evenEnc n) o.enc)
  | .fence t d a o sc => some (wordU t 0x62 d.enc a.enc (64 + 16 * o.enc + sc.enc))
  | .bar t q a sc => some (wordU t 0x63 (48 + q.val) a.enc sc.enc)
  | .tset t a => some (wordU t 0x64 0 a.enc 0)
  | .tcommit t a => some (wordU t 0x65 0 a.enc 0)
  | .hnew t q a b z => some (wordT t 0x66 (48 + q.val) a.enc b.enc z.toNat)
  | .hdup t d a => some (wordU t 0x67 d.enc a.enc 0)
  | .hrel t d a => some (wordU t 0x67 d.enc a.enc 1)
  | .hweak t d a => some (wordU t 0x67 d.enc a.enc 2)
  | .hupg t q a n => some (wordU t 0x67 (48 + q.val) a.enc (3 + 8 * n.val))
  | .hinfo t q a => some (wordU t 0x67 (48 + q.val) a.enc 4)
  | .hprio t d a p => some (wordU t 0x68 d.enc a.enc p.val)
  | .sinitQs t d n => some (wordU t 0x69 d.enc (evenEnc n) 0)
  | .sinitHh t d n => some (wordU t 0x69 d.enc (evenEnc n) 1)
  | .sinitDc t d n => some (wordU t 0x69 d.enc (evenEnc n) 2)
  | .qsins t o a => some (wordU t 0x6A (48 + o.val) a.enc 0)
  | .hhins t o a => some (wordU t 0x6A (48 + o.val) a.enc 1)
  | .dcins t o a => some (wordU t 0x6A (48 + o.val) a.enc 2)
  | .smerge t d a b => some (wordT t 0x6B d.enc a.enc b.enc 0)
  | .qread t q n => some (wordU t 0x6C (48 + q.val) (evenEnc n) 0)
  | .qrank t q n => some (wordU t 0x6C (48 + q.val) (evenEnc n) 1)
  | .hhget t q n => some (wordU t 0x6C (48 + q.val) (evenEnc n) 2)
  | .dcest t q n => some (wordU t 0x6C (48 + q.val) (evenEnc n) 3)
  | .tkinit t d n => some (wordU t 0x6D d.enc (evenEnc n) 0)
  | .tkins t o a b => some (wordT t 0x6E (48 + o.val) a.enc b.enc 0)
  | .tkout t q n => some (wordU t 0x6F (48 + q.val) (evenEnc n) 0)
  | .pfrag t q a => some (wordU t 0x70 (48 + q.val) a.enc 0)
  | .pseq t q a b => some (wordT t 0x71 (48 + q.val) a.enc b.enc 0)
  | .povl t q a b => some (wordT t 0x72 (48 + q.val) a.enc b.enc 0)
  | .ppipe t q n b => some (wordT t 0x73 (48 + q.val) (evenEnc n) b.enc 0)
  | .pnest t q n b => some (wordT t 0x74 (48 + q.val) (evenEnc n) b.enc 0)
  | .prep t q a b => some (wordT t 0x75 (48 + q.val) a.enc b.enc 0)
  | .piface t q n => some (wordU t 0x76 (48 + q.val) (evenEnc n) 0)
  | .pcost t q a => some (wordU t 0x77 (48 + q.val) a.enc 0)
  | .plaunch t q a b => some (wordT t 0x78 (48 + q.val) a.enc b.enc 0)
  | .plaunchC t q a b => some (wordT t 0x78 (48 + q.val) a.enc b.enc 1)
  | .pfree t d a => some (wordU t 0x79 d.enc a.enc 0)
  | .xreq t o a => some (wordU t 0x7A (48 + o.val) a.enc 0)
  | .xexp t a => some (wordU t 0x7B 0 a.enc 0)
  | .crdy t q a => some (wordU t 0x7C (48 + q.val) a.enc 0)
  | .cslot t q a => some (wordU t 0x7D (48 + q.val) a.enc 0)
  | .qpush t q a m => some (wordU t 0x7E (48 + q.val) a.enc m.val)
  | .rnext t q m => some (wordU t 0x7F (48 + q.val) 0 m.val)
  | .rangeUnitServe _ => none
  | .kickWrite _ _ => none
  | .qstatWrite _ _ => none
  | .registerWrite _ _ => none
  | .amFlush => none
  | .amPin _ => none
  | .amReadEntry => none
  | .amRegister => none
  | .libInstall => none
  | .libRemove => none
  | .debugArm _ => none
  | .debugResume => none
  | .debugStop _ => none
  | .spdmGetMeasurements _ => none
  | .hostMemWrite _ _ => none
  | .hostMemRead _ _ => none
  | .dispatchGrant => none
  | .launch _ => none
  | .graph _ => none
  | .wait _ => none
  | .waitRetest _ => none
  | .queueUnpark _ => none
  | .signal _ => none
  | .copy _ => none
  | .preempt _ => none
  | .preemptKill _ => none
  | .barrier _ => none
  | .launchReserveTurn _ => none
  | .regionPlace _ => none
  | .slotTableApply _ => none
  | .registerFillComplete _ => none
  | .registerEvictComplete _ => none
  | .followerFire _ _ => none
  | .tokenDeliver _ => none
  | .scatterForward _ _ => none
  | .gatherForward _ _ => none
  | .stagingSend _ => none
  | .replyTokenEnter _ => none
  | .faultTokenDeliver _ => none
  | .streamReadToken _ _ => none
  | .streamWriteToken _ _ => none
  | .streamComplete _ _ => none
  | .reduceContribution _ _ => none
  | .summaryInsert _ _ => none
  | .topkInsert _ _ => none
  | .walkRequest _ _ => none
  | .accTokenAdd _ _ => none
  | .accAck _ => none
  | .mrowResult _ _ => none
  | .mrowReplayResult _ _ _ => none
  | .mdrainResult _ _ => none
  | .mzeroComplete _ => none
  | .mgathRowArrive _ => none
  | .tileRequestServe _ => none
  | .ldsRelease _ => none
  | .summaryOpServe _ => none
  | .homePortServe _ => none
  | .atomicPerform _ => none
  | .portAccess _ => none
  | .pageFetchComplete _ => none
  | .pageEvict _ _ _ => none
  | .drainLimitExpiry _ => none
  | .regionCheckpoint _ => none
  | .regionReplace _ => none
  | .flashFetchError _ => none
  | .flashFetchTimeout _ => none
  | .transferAccept _ => none
  | .transferGranule _ => none
  | .channelToken _ _ => none
  | .solderServe _ => none
  | .quantumRefresh _ _ => none
  | .regionRetire _ => none
  | .completionRecord _ => none
  | .taskCommit _ => none
  | .tcommitRound _ => none
  | .pewterEpochTick => none
  | .objectDestroyBegin => none
  | .destructionPoint => none
  | .engineChunkServe _ => none
  | .chunkArrive _ => none
  | .collectiveComplete _ _ => none
  | .switchCombine _ => none
  | .switchLimitExpiry _ => none
  | .chunkReoffer _ => none
  | .cslotStart _ => none
  | .cslotEnd _ => none
  | .pageMigrate _ _ _ => none
  | .watchpointRecord _ _ _ _ _ => none
  | .droopTrip => none
  | .powerCapStep => none
  | .machineCheck _ _ _ => none
  | .deviceReset => none
  | .pwrstatRead => none

end Sys2Proof
end

