-- ==== Sys2Proof/Config.lean ====
section
/-!
DEFINITION. What the spec leaves open: constants without a body, applied to a counter of State that every use advances, so that no
statement can rest on a value (log entries 4, 7, 10, 11).
-/
namespace Sys2Proof.Config

/-- A time that the spec does not fix, in cycles beyond the least that it gives (log 4). -/
opaque latency : Nat → Nat

/-- The set of a port cache into which a line falls: R132 names the sets and not the index (log 7). -/
opaque cacheSet : Nat → Nat

/-- How many packets of one sending port a router holds beyond the first: R24 to R27 give no depth (log 34). -/
opaque routerRoom : Nat

/-- How many object-table entries a port's handle cache holds beyond the first: R132 gives no size (log 7). -/
opaque handleRoom : Nat

/-- How many requests wait on the request path before a transfer unit beyond the first: R406 has a full unit back-pressure the path and gives its
length nowhere (log 34). -/
opaque pathRoom : Nat

/-- Which of the lines that may be evicted a port evicts: R132 names no policy (log 7). -/
opaque victim : Nat → Nat

/-- The code of a NaN element of an MXFP4 group (R105 and R106 give the group's scale alone). -/
opaque mxNanCode : Nat → BitVec 4

/-- The lane that a vector port gets of an INT64 element: R104 lets it reach none and names no result (log 97). -/
opaque int64Lane : Nat → BitVec 40

/-- A byte that the spec leaves undefined, such as a read of the staging area of a running OP 2 (R229). -/
opaque freeByte : Nat → Byte

/-- A word that the spec leaves undefined. -/
opaque freeWord : Nat → Word

/-- The number of this package in its domain (log 80): below 640, since a package number lies below NRANK and NRANK is at most 640 (R226, R239). -/
opaque ownNumber : Fin 640

/-- That number as a number. -/
@[irreducible] def ownPackage : Nat := ownNumber.val

theorem ownPackage_lt : ownPackage < 640 := by
  unfold ownPackage
  exact ownNumber.isLt

/-- Whether another package refuses a chunk that reaches it, since it has loaded no communicator of the chunk's TAG (R285; log 46). -/
opaque refusesChunk : Nat → Bool

/-- The number of packages of the domain (NRANK of R239). -/
opaque domainPackages : Nat

/-- The die whose HBM holds a line of the package's own memory, and the port tile of it that owns the line's channel: R9 and R132 name the
owner of a channel and not the channel of an address (log 12). -/
opaque homeDie : Nat → Nat

/-- The port tile that owns the channel of a line of its die's own HBM (log 12). -/
opaque channelPort : Nat → Nat

/-- Whether the host has marked a line uncacheable to the device (R240). -/
opaque uncacheable : Nat → Bool

/-- Where in its pool Pewter places an object of that many bytes: R315 says in the pool and on a multiple of 256 (log 11). -/
opaque place : Nat → Nat

/-- The port of a plan that its instances have declared as completion port, by the plan's result class: R39 speaks of it and no record
declares it (log 13). -/
opaque completionPort : Nat → Option Nat

/-- The bytes of a region's checkpoint area, by its number of tiles (R146 gives no size). -/
opaque checkpointBytes : Nat → Nat

/-- The frame to which the Nickel core brings a fetched page (R138 names no policy). -/
opaque frame : Nat → Nat

/-- A measurement byte of a firmware image (R269). -/
opaque measurement : Nat → Byte

/-- The operators of a GRAPH packet's graph, as the matcher reads them from memory: R68 gives no layout. The list of nodes (kind, the
words of its output format records, predecessors), in the packet's order (log 10). -/
opaque graphNodes : List Byte → List (Nat × List Nat × List Nat)

/-- The fallback fragment of a node of a graph (R74, log 10). -/
opaque fallback : Nat → Nat

/-- The motif that a set of nodes stands for: how the matcher cuts a graph into subgraphs (R68 does not say, log 10). -/
opaque subgraphs : List Byte → List (List Nat)

/-- The entries (base, size, mode) of a privileged packet's buffer list, from the 128 bytes at its address: R176 names what an entry gives and
not how it lies in memory (log 14). -/
opaque bufferEntries : List Byte → List (Nat × Nat × Nat)

/-- An object of a launch section (R280): where its bytes lie and how many, which of them directives have placed (from, to), its kind and priority,
whether it is weak, and its handle words in the image, as addresses with their form: 0 a strong handle, 1 a handle with STRONG cleared, 2 and 3 the low and the high 40 bits of a strong one. -/
structure ObjectDir where
  src : Nat
  size : Nat
  placed : List (Nat × Nat)
  kind : Nat
  prio : Nat
  weak : Bool
  words : List (Nat × Nat)
deriving DecidableEq, Repr

/-- The objects of the launch section whose header lies at an address, in the order of the directives. R280 has the front end handle them and
gives them no layout in memory (log 17). -/
opaque objectList : Nat → List ObjectDir

/-- The numbers of the bits that the defect map fixed at a start-up sets (R195). -/
opaque defectMap : Nat → List Nat

end Sys2Proof.Config
end

