-- ==== Sys2Proof/Machine/Map.lean ====
section
/-!
DEFINITION. The operations of sorted sparse maps, by structural recursion so that the kernel evaluates them. Two kinds of use: maps of
records (`find?`, `put`, `erase`) and memories (`read`, `write`), whose canonical form lists no entry equal to the default.
-/
namespace Sys2Proof.Machine

/-- The value at a key. -/
def SMap.find? {β : Type} (m : SMap β) (k : Nat) : Option β :=
  match m with
  | [] => none
  | (k', v) :: rest => if k' = k then some v else if k < k' then none else SMap.find? rest k

/-- The map with a value at a key. -/
def SMap.put {β : Type} (m : SMap β) (k : Nat) (v : β) : SMap β :=
  match m with
  | [] => [(k, v)]
  | (k', v') :: rest =>
    if k' = k then (k, v) :: rest
    else if k < k' then (k, v) :: (k', v') :: rest
    else (k', v') :: SMap.put rest k v

/-- The map without a key. -/
def SMap.erase {β : Type} (m : SMap β) (k : Nat) : SMap β :=
  match m with
  | [] => []
  | (k', v') :: rest => if k' = k then rest else if k < k' then (k', v') :: rest else (k', v') :: SMap.erase rest k

/-- What a key of a memory reads as; an unlisted key reads as `d`. -/
def SMap.read {β : Type} (d : β) (m : SMap β) (k : Nat) : β := (SMap.find? m k).getD d

/-- A write to a memory: the default value removes the entry, so that equal memories are equal lists. -/
def SMap.write {β : Type} [DecidableEq β] (d : β) (m : SMap β) (k : Nat) (v : β) : SMap β :=
  if v = d then SMap.erase m k else SMap.put m k v

/-- The keys rise strictly, from above `lo`. -/
def SMap.rising {β : Type} (lo : Option Nat) (m : SMap β) : Bool :=
  match m with
  | [] => true
  | (k, _) :: rest => (match lo with | none => true | some l => decide (l < k)) && SMap.rising (some k) rest

/-- The canonical form of a memory: rising keys, no entry equal to the default. -/
def SMap.wf {β : Type} [DecidableEq β] (d : β) (m : SMap β) : Bool :=
  SMap.rising none m && m.all (fun e => decide (e.2 ≠ d))

/-- The entries of a map whose keys lie in [lo, hi). -/
def SMap.range {β : Type} (m : SMap β) (lo hi : Nat) : SMap β := m.filter (fun e => decide (lo ≤ e.1 ∧ e.1 < hi))

/-- A memory without its entries in [lo, hi). -/
def SMap.clear {β : Type} (m : SMap β) (lo hi : Nat) : SMap β := m.filter (fun e => !decide (lo ≤ e.1 ∧ e.1 < hi))

/-- `n` successive bytes of a memory whose unlisted bytes read 0. -/
def readBytes (m : SMap Byte) (a n : Nat) : List Byte := (List.range n).map (fun i => SMap.read 0 m (a + i))

/-- A memory with successive bytes written. -/
def writeBytes (m : SMap Byte) (a : Nat) (bs : List Byte) : SMap Byte :=
  match bs with
  | [] => m
  | b :: rest => writeBytes (SMap.write 0 m a b) (a + 1) rest

/-- The number of a list of bytes, the first the least significant (R2). -/
def leNat (bs : List Byte) : Nat :=
  match bs with
  | [] => 0
  | b :: rest => b.toNat + 256 * leNat rest

/-- `n` bytes of a number, the least significant first (R2). -/
def leBytes : Nat → Nat → List Byte
  | 0, _ => []
  | n + 1, x => BitVec.ofNat 8 (x % 256) :: leBytes n (x / 256)

/-- Bits [hi:lo] of a number. -/
def bits (x hi lo : Nat) : Nat := x / 2 ^ lo % 2 ^ (hi + 1 - lo)

/-- Bit n of a number. -/
def bit (x n : Nat) : Bool := x / 2 ^ n % 2 == 1

/-- A field of `w` bits as a signed number. -/
def sfield (x hi lo : Nat) : Int := (BitVec.ofNat (hi + 1 - lo) (bits x hi lo)).toInt

/-- An entry of a fixed array, by a number taken modulo its size. -/
def Vector.at {α : Type} {n : Nat} (v : Vector α (n + 1)) (i : Nat) : α := v[i % (n + 1)]'(Nat.mod_lt _ (Nat.succ_pos n))

/-- A fixed array with one entry changed, by a number taken modulo its size. -/
def Vector.upd {α : Type} {n : Nat} (v : Vector α (n + 1)) (i : Nat) (x : α) : Vector α (n + 1) :=
  v.set (i % (n + 1)) x (Nat.mod_lt _ (Nat.succ_pos n))

/-- The first entry of a list with its place taken out of the list. -/
def takeFirst {α : Type} (p : α → Bool) : List α → Option (α × List α)
  | [] => none
  | x :: xs => if p x then some (x, xs) else match takeFirst p xs with | none => none | some (y, ys) => some (y, x :: ys)

/-- A list with every entry that satisfies `p` changed by `f`. -/
def mapIf {α : Type} (p : α → Bool) (f : α → α) (xs : List α) : List α := xs.map (fun x => if p x then f x else x)

/-- A list with the entry at place `i` changed. -/
def modifyAt {α : Type} (xs : List α) (i : Nat) (f : α → α) : List α :=
  match xs, i with
  | [], _ => []
  | x :: rest, 0 => f x :: rest
  | x :: rest, i + 1 => x :: modifyAt rest i f

end Sys2Proof.Machine
end

