-- ==== Sys2Proof/Machine/Flags.lean ====
section
/-!
DEFINITION. The sticky flags of R101 as a word, and the other results that every arithmetic instruction gives beside its value.
-/
namespace Sys2Proof.Machine

/-- The status bits NV, OV, UF, NX in bits 0 to 3 (R101). -/
abbrev Flags := BitVec 4

/-- Invalid operation, or a non-canonical input. -/
def NV : Flags := 1
/-- Overflow to infinity, or saturation on a store. -/
def OV : Flags := 2
/-- A non-zero result that becomes zero. -/
def UF : Flags := 4
/-- An inexact result. -/
def NX : Flags := 8

/-- `f` when the condition holds, no flag otherwise. -/
def Flags.when (c : Bool) (f : Flags) : Flags := if c then f else 0

/-- TRAPF acts on a firing that would set NV or OV (R86). -/
def Flags.traps (f : Flags) : Bool := f &&& 3 != 0

/-- FLAGS as RDSR reads it: bits 63 to 4 are zero (R101). -/
def Flags.read (f : Flags) : Word := f.zeroExtend 64

/-- WRSR clears each flag whose bit in `a` is 1 (R402). -/
def Flags.clear (f : Flags) (a : Word) : Flags := f &&& ~~~ (a.truncate 4)

/-- The condition of a signed or unsigned comparison of two integers of `w` bits (R94, R300). -/
def Cond.holds {w : Nat} (c : Cond) (a b : BitVec w) : Bool :=
  match c with
  | .eq => a == b
  | .ne => a != b
  | .lt => a.slt b
  | .ltu => a.ult b
  | .le => a.sle b
  | .leu => a.ule b

/-- The operations of PLOG on two predicates (R94). -/
def LogOp.bool (f : LogOp) (a b : Bool) : Bool :=
  match f with
  | .and => a && b
  | .or => a || b
  | .xor => a != b
  | .andn => a && !b
  | .orn => a || !b
  | .mov => a

/-- The operations of KLOG on two lane masks (R94). -/
def LogOp.mask (f : LogOp) (a b : BitVec 16) : BitVec 16 :=
  match f with
  | .and => a &&& b
  | .or => a ||| b
  | .xor => a ^^^ b
  | .andn => a &&& ~~~ b
  | .orn => a ||| ~~~ b
  | .mov => a

end Sys2Proof.Machine
end

