-- ==== Sys2Proof/Machine/W40.lean ====
section
/-!
DEFINITION. W40 arithmetic and the storage formats (spec/05). Every finite value is a sign, a natural number and a power of two, so
that sums and products are exact and each result is rounded once (R100, R105, R107).
-/
namespace Sys2Proof.Machine

/-- A value as the arithmetic sees it: NaN, a signed infinity, or (-1)^neg * m * 2^e; `m = 0` is a signed zero. -/
inductive Num where
  | nan
  | inf (neg : Bool)
  | num (neg : Bool) (m : Nat) (e : Int)
deriving DecidableEq, Repr

/-- The canonical NaN, the only NaN that the arithmetic produces (R99). -/
def nanW : Lane := 0x7FFC000000
/-- Plus infinity (R99). -/
def infW : Lane := 0x7FF8000000
/-- The sign bit of a W40 word. -/
def signW : Lane := 0x8000000000

/-- A W40 word with sign and magnitude bits. -/
def signed (neg : Bool) (mag : Lane) : Lane := if neg then mag ||| signW else mag

/-- A word whose E is neither 0 nor 4,095 and whose leading bit is clear is taken as NaN and sets NV (R99). -/
def nonCanonical (x : Lane) : Bool :=
  let e := (x.extractLsb' 27 12).toNat
  e != 0 && e != 4095 && !x.getLsbD 26

/-- The value of a W40 word (R99). -/
def unpack (x : Lane) : Num :=
  let neg := x.getLsbD 39
  let e := (x.extractLsb' 27 12).toNat
  let m := (x.extractLsb' 0 27).toNat
  if e = 0 then .num neg 0 0
  else if e = 4095 then (if m = 0 then .inf neg else .nan)
  else if nonCanonical x then .nan
  else .num neg m ((e : Int) - 2073)

/-- The flag of a non-canonical operand. -/
def ncFlag (x : Lane) : Flags := Flags.when (nonCanonical x) NV

/-- How a value between two neighbours is rounded: by a mode of R93, or stochastically with 24 drawn bits (R107). -/
inductive Rnd where
  | mode (m : RMode)
  | stoch (u : Nat)
deriving DecidableEq, Repr

/-- Whether the magnitude goes up from the lower neighbour `q`, the remainder being `r` of `d` (R100, R107). -/
def Rnd.up (k : Rnd) (neg : Bool) (q r d : Nat) : Bool :=
  match k with
  | .mode .rne => decide (d < 2 * r) || (decide (2 * r = d) && decide (q % 2 = 1))
  | .mode .rtz => false
  | .mode .rdn => neg && decide (0 < r)
  | .mode .rup => !neg && decide (0 < r)
  | .mode .rna => decide (0 < r) && decide (d ≤ 2 * r)
  | .stoch u => decide (u < 2 ^ 24 * r / d)

/-- The multiple of 2^qe to which m * 2^e is rounded, and whether the rounding was inexact. -/
def roundAt (k : Rnd) (neg : Bool) (m : Nat) (e qe : Int) : Nat × Bool :=
  if qe ≤ e then (m <<< (e - qe).toNat, false)
  else
    let d := (qe - e).toNat
    let q := m >>> d
    let r := m - (q <<< d)
    (if k.up neg q r (1 <<< d) then q + 1 else q, decide (r ≠ 0))

/-- The exponent of the last of `p` significant bits of m * 2^e. -/
def lastExp (p m : Nat) (e : Int) : Int := (Nat.log2 m : Int) + e - (p - 1 : Nat)

/-- Rounding to W40 (R100): to 27 bits with an unbounded exponent, then overflow and flush on the rounded value. -/
def toW40 (k : Rnd) : Num → Lane × Flags
  | .nan => (nanW, 0)
  | .inf neg => (signed neg infW, 0)
  | .num neg m e =>
    if m = 0 then (signed neg 0, 0)
    else
      let qe := lastExp 27 m e
      let (q, ix) := roundAt k neg m e qe
      let (q, qe) := if q = 2 ^ 27 then (2 ^ 26, qe + 1) else (q, qe)
      let ex := qe + 2073
      if 4094 < ex then (signed neg infW, OV ||| NX)
      else if ex < 1 then (signed neg 0, UF ||| NX)
      else (signed neg (BitVec.ofNat 40 (ex.toNat * 2 ^ 27 + q)), Flags.when ix NX)

/-- Rounding to nearest even, the rounding of every W40 result (R100). -/
def w40 (x : Num) : Lane × Flags := toW40 (.mode .rne) x

/-- The sign inverted. -/
def Num.neg : Num → Num
  | .nan => .nan
  | .inf s => .inf (!s)
  | .num s m e => .num (!s) m e

/-- The value as an integer multiple of 2^e, for an `e` not above its own exponent. -/
def Num.scaled (e : Int) : Num → Int
  | .num s m e' => let v : Int := ((m <<< (e' - e).toNat : Nat) : Int); if s then -v else v
  | _ => 0

/-- The exact sum of two finite values; an exact zero is +0 unless both are -0 (R100). -/
def addFin (s1 : Bool) (m1 : Nat) (e1 : Int) (s2 : Bool) (m2 : Nat) (e2 : Int) : Num :=
  if m1 = 0 ∧ m2 = 0 then .num (s1 && s2) 0 0
  else if m1 = 0 then .num s2 m2 e2
  else if m2 = 0 then .num s1 m1 e1
  else
    let e := min e1 e2
    let v := Num.scaled e (.num s1 m1 e1) + Num.scaled e (.num s2 m2 e2)
    .num (decide (v < 0)) v.natAbs e

/-- The exact sum of two values, and whether the invalid case of R100 arose. -/
def Num.add (x y : Num) : Num × Bool :=
  match x, y with
  | .nan, _ => (.nan, false)
  | _, .nan => (.nan, false)
  | .inf a, .inf b => if a = b then (.inf a, false) else (.nan, true)
  | .inf a, .num _ _ _ => (.inf a, false)
  | .num _ _ _, .inf b => (.inf b, false)
  | .num s1 m1 e1, .num s2 m2 e2 => (addFin s1 m1 e1 s2 m2 e2, false)

/-- The exact product, and whether a zero met an infinity (R100). -/
def Num.mul (x y : Num) : Num × Bool :=
  match x, y with
  | .nan, _ => (.nan, false)
  | _, .nan => (.nan, false)
  | .inf a, .inf b => (.inf (a != b), false)
  | .inf a, .num s m _ => if m = 0 then (.nan, true) else (.inf (a != s), false)
  | .num s m _, .inf a => if m = 0 then (.nan, true) else (.inf (a != s), false)
  | .num s1 m1 e1, .num s2 m2 e2 => (.num (s1 != s2) (m1 * m2) (e1 + e2), false)

/-- A NaN. -/
def Num.isNan : Num → Bool
  | .nan => true
  | _ => false

/-- An infinity of the given sign. -/
def Num.isInf (neg : Bool) : Num → Bool
  | .inf s => s == neg
  | _ => false

/-- The exact sum of a list of values (R110, R395): a NaN gives NaN, infinities of both signs are invalid. An exact zero is +0
unless every addend is -0. -/
def numSum (xs : List Num) : Num × Bool :=
  if xs.any Num.isNan then (.nan, false)
  else if xs.any (Num.isInf true) && xs.any (Num.isInf false) then (.nan, true)
  else
    match xs with
    | [] => (.num false 0 0, false)
    | y :: ys => (ys.foldl (fun acc z => (Num.add acc z).1) y, false)

/-- `x < y` as numbers; false when either is a NaN. -/
def Num.lt (x y : Num) : Bool :=
  match x, y with
  | .nan, _ => false
  | _, .nan => false
  | .inf a, .inf b => a && !b
  | .inf a, .num _ _ _ => a
  | .num _ _ _, .inf b => !b
  | .num s1 m1 e1, .num s2 m2 e2 =>
    let e := min e1 e2
    decide (Num.scaled e (.num s1 m1 e1) < Num.scaled e (.num s2 m2 e2))

/-- Equality as numbers; -0 equals +0, and no NaN equals anything (R387). -/
def Num.eqv (x y : Num) : Bool := !x.isNan && !y.isNan && !x.lt y && !y.lt x

/-- The sign bit. -/
def Num.negative : Num → Bool
  | .nan => false
  | .inf s => s
  | .num s _ _ => s

/-- The order of VMIN and VMAX: as numbers, with -0 below +0 (R276). -/
def Num.below (x y : Num) : Bool := x.lt y || (x.eqv y && x.negative && !y.negative)

/-! ## The lane operations -/

/-- The exact result of an operation on values, rounded once, with the flag of an invalid case (R100). -/
def finish (r : Num × Bool) (nc : Flags) : Lane × Flags :=
  let (v, fl) := w40 r.1
  (v, fl ||| Flags.when r.2 NV ||| nc)

/-- a + b (R384). -/
def fAdd (a b : Lane) : Lane × Flags := finish (Num.add (unpack a) (unpack b)) (ncFlag a ||| ncFlag b)

/-- a - b (R384). -/
def fSub (a b : Lane) : Lane × Flags := finish (Num.add (unpack a) (unpack b).neg) (ncFlag a ||| ncFlag b)

/-- a * b (R384). -/
def fMul (a b : Lane) : Lane × Flags := finish (Num.mul (unpack a) (unpack b)) (ncFlag a ||| ncFlag b)

/-- The fused product and sum of R275: `x * y + z`, rounded once. A NaN operand gives NaN without NV (R100). -/
def fused (x y z : Num) : Num × Bool :=
  if x.isNan || y.isNan || z.isNan then (.nan, false)
  else
    match Num.mul x y with
    | (_, true) => (.nan, true)
    | (p, false) => Num.add p z

/-- VFMA: a * b + d (R275). -/
def fFma (a b d : Lane) : Lane × Flags :=
  finish (fused (unpack a) (unpack b) (unpack d)) (ncFlag a ||| ncFlag b ||| ncFlag d)

/-- VFMS: a * b - d (R275). -/
def fFms (a b d : Lane) : Lane × Flags :=
  finish (fused (unpack a) (unpack b) (unpack d).neg) (ncFlag a ||| ncFlag b ||| ncFlag d)

/-- VFNMA: d - a * b (R275). -/
def fFnma (a b d : Lane) : Lane × Flags :=
  finish (fused (unpack a).neg (unpack b) (unpack d)) (ncFlag a ||| ncFlag b ||| ncFlag d)

/-- The smaller of two values; a NaN gives way to the other (R276). -/
def Num.pickMin (x y : Num) : Num := if x.isNan then y else if y.isNan then x else if y.below x then y else x

/-- The larger of two values; a NaN gives way to the other (R276). -/
def Num.pickMax (x y : Num) : Num := if x.isNan then y else if y.isNan then x else if x.below y then y else x

/-- VMIN (R276). -/
def fMin (a b : Lane) : Lane × Flags := ((w40 (Num.pickMin (unpack a) (unpack b))).1, ncFlag a ||| ncFlag b)

/-- VMAX (R276). -/
def fMax (a b : Lane) : Lane × Flags := ((w40 (Num.pickMax (unpack a) (unpack b))).1, ncFlag a ||| ncFlag b)

/-- VCMP of one lane (R387). -/
def fCmp (c : Cond) (a b : Lane) : Bool × Flags :=
  let x := unpack a
  let y := unpack b
  let r := match c with
    | .eq => x.eqv y
    | .ne => !x.eqv y
    | .lt => x.lt y
    | .le => x.lt y || x.eqv y
    | .ltu => x.lt y
    | .leu => x.lt y || x.eqv y
  (r, ncFlag a ||| ncFlag b)

/-- VSCALE: a * 2^n, n the lane of b as a signed integer (R385). -/
def fScale (a b : Lane) : Lane × Flags :=
  match unpack a with
  | .num s m e => let r := w40 (.num s m (e + b.toInt)); (r.1, r.2 ||| ncFlag a)
  | x => ((w40 x).1, ncFlag a)

/-- The integral value that a rounding mode selects, as a magnitude, and whether the input was not integral (R100). -/
def integral (k : Rnd) (neg : Bool) (m : Nat) (e : Int) : Nat × Bool := roundAt k neg m e 0

/-- VRND: NaN, infinities and zeros keep their value, in canonical form (R99); the sign is kept (R396). -/
def fRnd (mode : RMode) (a : Lane) : Lane × Flags :=
  match unpack a with
  | .num s m e =>
    if m = 0 then (signed s 0, 0)
    else if 0 ≤ e then (a, 0)
    else ((w40 (.num s (integral (.mode mode) s m e).1 0)).1, 0)
  | x => ((w40 x).1, ncFlag a)

/-- A signed integer saturated to `bits` bits, and whether it was. -/
def saturate (bits : Nat) (v : Int) : Int × Bool :=
  let hi : Int := 2 ^ (bits - 1) - 1
  if hi < v then (hi, true) else if v < -hi - 1 then (-hi - 1, true) else (v, false)

/-- A value rounded to a signed integer of `bits` bits and saturated (R105, R389): NaN gives 0 and NV, an infinity saturates
with OV alone, a saturation sets OV, a value that was not integral sets NX. A value above every integer of the format is not
shifted out: its exponent alone decides. -/
def numToInt (k : Rnd) (bits : Nat) (x : Num) : Int × Flags :=
  match x with
  | .nan => (0, NV)
  | .inf s => (if s then -2 ^ (bits - 1) else 2 ^ (bits - 1) - 1, OV)
  | .num s m e =>
    let r := integral k s m e
    let v : Int := if s then -(r.1 : Int) else (r.1 : Int)
    let t := saturate bits v
    (t.1, Flags.when t.2 OV ||| Flags.when r.2 NX)

/-- VCVTI (R389). -/
def fCvti (mode : RMode) (a : Lane) : Lane × Flags :=
  let r := numToInt (.mode mode) 40 (unpack a)
  (BitVec.ofInt 40 r.1, r.2 ||| ncFlag a)

/-- A signed integer as a value. -/
def intNum (v : Int) : Num := .num (decide (v < 0)) v.natAbs 0

/-- VCVTF (R389). -/
def fCvtf (mode : RMode) (a : Lane) : Lane × Flags := toW40 (.mode mode) (intNum a.toInt)

/-! ## The seeds (R111, R274) -/

/-- The integer square root, `fuel` bits of the root from the highest on. -/
def isqrtGo (n : Nat) : Nat → Nat → Nat
  | 0, acc => acc
  | fuel + 1, acc =>
    let t := acc + (1 <<< fuel)
    isqrtGo n fuel (if t * t ≤ n then t else acc)

/-- The integer square root of a number below 2^64. -/
def isqrt (n : Nat) : Nat := isqrtGo n 32 0

/-- A positive value given by `q` units of 2^e with something below the last unit, rounded to nearest even at 16 significant
bits. -/
def round16 (q : Nat) (e : Int) : Nat × Int :=
  let m := 2 * q + 1
  let qe := lastExp 16 m (e - 1)
  ((roundAt (.mode .rne) false m (e - 1) qe).1, qe)

/-- floor(2^12 v) of a value in [1, 4) given as m * 2^e. -/
def seedIndex (m : Nat) (e : Int) : Nat := if -12 ≤ e then m <<< (e + 12).toNat else m >>> (-(e + 12)).toNat

/-- The seed result with NX: a seed of a finite non-zero input never equals the function it approximates (R274). -/
def seedResult (neg : Bool) (q : Nat) (e : Int) : Lane × Flags :=
  let r := w40 (.num neg q e)
  (r.1, r.2 ||| NX)

/-- VRCPS (R111). 1 / q(m) = 2^13 / (2j + 1), j = floor(2^12 m). -/
def fRcps (a : Lane) : Lane × Flags :=
  match unpack a with
  | .nan => (nanW, ncFlag a)
  | .inf s => (signed s 0, 0)
  | .num s m e =>
    if m = 0 then (signed s infW, 0)
    else
      let l : Int := Nat.log2 m
      let j := seedIndex m (-l)
      let q := 2 ^ 45 / (2 * j + 1)
      let r := round16 q (-32)
      seedResult s r.1 (r.2 - (l + e))

/-- VRSQS (R111). The square of 1 / sqrt(q(m')) is 2^13 / (2j + 1), which is no square. -/
def fRsqs (a : Lane) : Lane × Flags :=
  match unpack a with
  | .nan => (nanW, ncFlag a)
  | .inf s => if s then (nanW, NV) else (0, 0)
  | .num s m e =>
    if m = 0 then (signed s infW, 0)
    else if s then (nanW, NV)
    else
      let l : Int := Nat.log2 m
      let ex := l + e
      let ev := ex - ex % 2
      let j := seedIndex m (e - ev)
      let root := isqrt (2 ^ 61 / (2 * j + 1))
      let r := round16 root (-24)
      seedResult false r.1 (r.2 - ev / 2)

/-- The largest N below 2^17 with (2N - 1)^8192 <= 2^(131072 + k): 2^15 * 2^(k / 8192) rounded to nearest. -/
def exp2Go (k : Nat) : Nat → Nat → Nat
  | 0, acc => acc
  | fuel + 1, acc =>
    let t := acc + (1 <<< fuel)
    exp2Go k fuel (if (2 * t - 1) ^ 8192 ≤ 2 ^ (131072 + k) then t else acc)

/-- floor of m * 2^e with a sign. -/
def floorInt (neg : Bool) (m : Nat) (e : Int) : Int :=
  if 0 ≤ e then (let v : Int := ((m <<< e.toNat : Nat) : Int); if neg then -v else v)
  else
    let d := (-e).toNat
    let q : Nat := m >>> d
    if neg then (if m = q <<< d then -(q : Int) else -(q : Int) - 1) else (q : Int)

/-- VEXP2S (R111): n = floor(x), 2^q(f) to 16 bits, times 2^n. -/
def fExp2s (a : Lane) : Lane × Flags :=
  match unpack a with
  | .nan => (nanW, ncFlag a)
  | .inf s => if s then (0, 0) else (infW, 0)
  | .num s m e =>
    let t := floorInt s m (e + 12)
    let j := (t % 4096).toNat
    seedResult false (exp2Go (2 * j + 1) 17 0) (t / 4096 - 15)

/-- VLOG2S (R111): e + log2 q(m) to a multiple of 2^-16; log2 of (2j + 1) is found from its power 2^17. -/
def fLog2s (a : Lane) : Lane × Flags :=
  match unpack a with
  | .nan => (nanW, ncFlag a)
  | .inf s => if s then (nanW, NV) else (infW, 0)
  | .num s m e =>
    if m = 0 then (signed true infW, 0)
    else if s then (nanW, NV)
    else
      let l : Int := Nat.log2 m
      let j := seedIndex m (-l)
      let k : Int := (((Nat.log2 ((2 * j + 1) ^ 131072) + 1) / 2 : Nat) : Int)
      let v : Int := (l + e) * 65536 + (k - 13 * 65536)
      seedResult (decide (v < 0)) v.natAbs (-16)

/-! ## Storage formats (R103 to R107) -/

/-- A float storage format: exponent bits, significant bits, the largest finite value, whether subnormals are flushed, whether a
too large magnitude saturates, and its canonical NaN (R103, R105). -/
structure FFmt where
  eb : Nat
  p : Nat
  maxM : Nat
  maxE : Int
  flush : Bool
  sat : Bool
  nan : Nat
deriving DecidableEq, Repr

/-- FP32. -/
def fp32 : FFmt := ⟨8, 24, 2 ^ 24 - 1, 104, true, false, 0x7FC00000⟩
/-- BF16. -/
def bf16 : FFmt := ⟨8, 8, 255, 120, true, false, 0x7FC0⟩
/-- FP16. -/
def fp16 : FFmt := ⟨5, 11, 2047, 5, false, false, 0x7E00⟩
/-- E4M3: 448 is the largest; S.1111.111 is the NaN. -/
def e4m3 : FFmt := ⟨4, 4, 14, 5, false, true, 0x7F⟩
/-- E5M2. -/
def e5m2 : FFmt := ⟨5, 3, 7, 13, false, false, 0x7E⟩
/-- E2M1: 6 is the largest; no special values. -/
def e2m1 : FFmt := ⟨2, 2, 3, 1, false, true, 0⟩

/-- The float format of a code of R103; the other codes are integers, W40 or VQ2. -/
def floatFmt (code : Nat) : Option FFmt :=
  match code with
  | 1 => some fp32
  | 2 => some bf16
  | 3 => some fp16
  | 4 => some e4m3
  | 5 => some e5m2
  | 6 => some e2m1
  | _ => none

/-- The width of an integer format (R103). -/
def intFmt (code : Nat) : Option Nat :=
  match code with
  | 7 => some 8
  | 8 => some 4
  | 10 => some 32
  | 11 => some 64
  | _ => none

/-- The exponent of the smallest normal. -/
def FFmt.emin (f : FFmt) : Int := 2 - (2 ^ (f.eb - 1) : Nat)

/-- A finite value as a format holds it: R105, with the rounding of the stream or of VSRND. -/
def FFmt.roundFin (f : FFmt) (k : Rnd) (neg : Bool) (m : Nat) (e : Int) : Num × Flags :=
  if m = 0 then (.num neg 0 0, 0)
  else
    let sub := f.emin - (f.p - 1 : Nat)
    let qe := if f.flush then lastExp f.p m e else max (lastExp f.p m e) sub
    let (q, ix) := roundAt k neg m e qe
    let big := Num.lt (.num false f.maxM f.maxE) (.num false q qe)
    if q = 0 then (.num neg 0 0, UF ||| NX)
    else if big then (if f.sat then .num neg f.maxM f.maxE else .inf neg, OV ||| NX)
    else if f.flush && Num.lt (.num false q qe) (.num false 1 f.emin) then (.num neg 0 0, UF ||| NX)
    else (.num neg q qe, Flags.when ix NX)

/-- A value as a format holds it; an infinite input to a saturating format sets OV alone (R105). -/
def FFmt.round (f : FFmt) (k : Rnd) (x : Num) : Num × Flags :=
  match x with
  | .nan => (.nan, 0)
  | .inf s => if f.sat then (.num s f.maxM f.maxE, OV) else (.inf s, 0)
  | .num s m e => f.roundFin k s m e

/-- The bits of a value that the format holds. -/
def FFmt.pack (f : FFmt) (x : Num) : Nat :=
  match x with
  | .nan => f.nan
  | .inf s => s.toNat * 2 ^ (f.eb + f.p - 1) + (2 ^ f.eb - 1) * 2 ^ (f.p - 1)
  | .num s m e =>
    let sg := s.toNat * 2 ^ (f.eb + f.p - 1)
    if m = 0 then sg
    else
      let top : Int := (Nat.log2 m : Int) + e
      if top < f.emin then
        let sub := f.emin - (f.p - 1 : Nat)
        sg + (if sub ≤ e then m <<< (e - sub).toNat else m >>> (sub - e).toNat)
      else
        let q := if Nat.log2 m ≤ f.p - 1 then m <<< (f.p - 1 - Nat.log2 m) else m >>> (Nat.log2 m - (f.p - 1))
        sg + (top - f.emin + 1).toNat * 2 ^ (f.p - 1) + (q - 2 ^ (f.p - 1))

/-- The value of the bits of a format (R103, R104). -/
def FFmt.unpack (f : FFmt) (bits : Nat) : Num :=
  let s := decide (bits / 2 ^ (f.eb + f.p - 1) % 2 = 1)
  let ex := bits / 2 ^ (f.p - 1) % 2 ^ f.eb
  let mt := bits % 2 ^ (f.p - 1)
  let top := 2 ^ f.eb - 1
  if f.sat && decide (f.eb = 4) && decide (ex = top) && decide (mt = 2 ^ (f.p - 1) - 1) then .nan
  else if !f.sat && decide (ex = top) then (if mt = 0 then .inf s else .nan)
  else if ex = 0 then .num s mt (f.emin - (f.p - 1 : Nat))
  else .num s (mt + 2 ^ (f.p - 1)) (f.emin - (f.p - 1 : Nat) + ((ex : Int) - 1))

/-- Conversion of a storage element to a lane (R104), with the flag of a rounded INT32. W40 in memory is not converted. The MXFP4
scale is applied by the caller. -/
def loadElem (code : Nat) (bits : Nat) : Lane × Flags :=
  if code = 0 then (BitVec.ofNat 40 bits, 0)
  else
    match floatFmt code, intFmt code with
    | some f, _ => ((w40 (f.unpack bits)).1, 0)
    | none, some n => w40 (intNum (BitVec.ofNat n bits).toInt)
    | none, none => (0, 0)

/-- An MXFP4 element under its group scale (R104). -/
def loadMx (bits scale : Nat) : Lane :=
  if scale = 255 then nanW
  else
    match e2m1.unpack bits with
    | .num s m e => (w40 (.num s m (e + ((scale : Int) - 127)))).1
    | x => (w40 x).1

/-- Conversion of a lane to a storage format (R105), with its flags; INT64 and the other integers saturate. -/
def storeElem (code : Nat) (k : Rnd) (x : Lane) : Nat × Flags :=
  if code = 0 then (x.toNat, 0)
  else
    match floatFmt code, intFmt code with
    | some f, _ => let r := f.round k (unpack x); (f.pack r.1, r.2 ||| ncFlag x)
    | none, some n => let r := numToInt k n (unpack x); ((BitVec.ofInt n r.1).toNat, r.2 ||| ncFlag x)
    | none, none => (0, 0)

/-- A 64-bit scalar stored into an integer format (R279): INT64 unchanged, the others saturated. -/
def storeInt (code : Nat) (x : Word) : Nat × Flags :=
  match intFmt code with
  | some 64 => (x.toNat, 0)
  | some n => let r := saturate n x.toInt; ((BitVec.ofInt n r.1).toNat, Flags.when r.2 OV)
  | none => (x.toNat, 0)

/-- VSRND: rounded stochastically to the target and kept in W40; the target's overflow and subnormals as R105, NaN the canonical
NaN (R107, R400). -/
def fSrnd (p : Prec) (u : Nat) (a : Lane) : Lane × Flags :=
  let f := match p with
    | .fp32 => fp32
    | .bf16 => bf16
    | .fp16 => fp16
    | .e4m3 => e4m3
    | .e5m2 => e5m2
    | .e2m1 => e2m1
  let r := f.round (.stoch u) (unpack a)
  ((w40 r.1).1, r.2 ||| ncFlag a)

/-- RNE to FP32 as a value, with R105's flush (R110). -/
def rneFp32 (x : Num) : Num × Flags := fp32.round (.mode .rne) x

/-! ## MXFP4 groups (R106) -/

/-- floor(log2) of a non-zero finite value. -/
def floorLog2 (m : Nat) (e : Int) : Int := (Nat.log2 m : Int) + e

/-- The larger of two finite magnitudes. -/
def magMax (x y : Nat × Int) : Nat × Int :=
  if Num.lt (.num false x.1 x.2) (.num false y.1 y.2) then y else x

/-- The scale of a group of 32 (R106). -/
def mxScale (xs : List Num) : Nat :=
  if xs.any Num.isNan then 255
  else if xs.any (Num.isInf true) || xs.any (Num.isInf false) then 254
  else
    let a := xs.foldl (fun acc x => match x with | .num _ m e => magMax acc (m, e) | _ => acc) ((0, 0) : Nat × Int)
    if a.1 = 0 then 0
    else (max 0 (min 254 (floorLog2 a.1 a.2 - 2 + 127))).toNat

/-- One element under the group's scale; the code of a NaN element is `free`, which the spec does not state (R105, R106). -/
def mxElem (k : Rnd) (scale : Nat) (free : BitVec 4) (x : Num) : Nat × Flags :=
  match x with
  | .nan => (free.toNat, NV)
  | .inf s => (e2m1.pack (.num s e2m1.maxM e2m1.maxE), OV)
  | .num s m e => let r := e2m1.roundFin k s m (e - ((scale : Int) - 127)); (e2m1.pack r.1, r.2)

/-! ## KCG-64 (R113, R114) -/

/-- One round of KCG-64. -/
def kcgRound (s : BitVec 32 × BitVec 32 × BitVec 32 × BitVec 32) : BitVec 32 × BitVec 32 × BitVec 32 × BitVec 32 :=
  let (a, b, c, d) := s
  let c := c + 0x9E3779B9
  let a := a + b
  let d := (d ^^^ a).rotateLeft 16
  let c := c + d
  let b := (b ^^^ c).rotateLeft 12
  let a := a + b
  let d := (d ^^^ a).rotateLeft 8
  let c := c + d
  let b := (b ^^^ c).rotateLeft 7
  (a, b, c, d)

/-- KCG-64 (R113). -/
def kcg64 (key ctr : Word) : Word :=
  let s := (ctr.extractLsb' 0 32, ctr.extractLsb' 32 32, key.extractLsb' 0 32, key.extractLsb' 32 32)
  let (a, b, c, d) := kcgRound (kcgRound (kcgRound (kcgRound (kcgRound (kcgRound s)))))
  (b ^^^ d) ++ (a ^^^ c)

/-- The 24 bits of a VSRND lane (R114). -/
def drawVsrnd (seed : Word) (firing : BitVec 40) (fx : BitVec 6) (fy : BitVec 5) (ctx : BitVec 2) (slot : BitVec 5) (lane : BitVec 4) : Nat :=
  let ctr : Word := ((0 : BitVec 2) ++ firing ++ fx ++ fy ++ ctx ++ slot ++ lane).setWidth 64
  (kcg64 seed ctr).toNat % 2 ^ 24

/-- The 24 bits of a stochastic store (R114). -/
def drawStore (seed : Word) (elem : BitVec 46) (fx : BitVec 6) (fy : BitVec 5) (gen : BitVec 2) : Nat :=
  let ctr : Word := ((1 : BitVec 2) ++ elem ++ fx ++ fy ++ gen ++ (0 : BitVec 3)).setWidth 64
  (kcg64 seed ctr).toNat % 2 ^ 24

/-- The 16 bits of a dropout element (R114). -/
def drawDropout (seed : Word) (row col : BitVec 31) : Nat :=
  let ctr : Word := ((2 : BitVec 2) ++ row ++ col).setWidth 64
  (kcg64 seed ctr).toNat % 2 ^ 16

/-- The coin of a summary compaction (R114). -/
def drawCoin (seed : Word) (level : BitVec 4) (count : BitVec 32) : Bool :=
  let ctr : Word := ((3 : BitVec 2) ++ (0 : BitVec 26) ++ level ++ count).setWidth 64
  (kcg64 seed ctr).getLsbD 0

/-! ## VQ2 (R108) -/

/-- Weight i of a VQ2 index, as a multiple of 1/4. -/
def vq2Weight (idx i : Nat) : Int :=
  let mbit (k : Nat) : Nat := idx / 2 ^ (8 + k) % 2
  let m7 := (mbit 0 + mbit 1 + mbit 2 + mbit 3 + mbit 4 + mbit 5 + mbit 6) % 2
  let m := if i = 7 then m7 else mbit i
  let mag : Int := 2 + 4 * (m : Int)
  (if idx / 2 ^ i % 2 = 1 then -mag else mag) + (idx / 2 ^ 15 % 2 : Nat)

/-- Weight i of an index under its BF16 block scale. -/
def vq2Num (idx scale i : Nat) : Num × Bool :=
  let v := vq2Weight idx i
  Num.mul (.num (decide (v < 0)) v.natAbs (-2)) (bf16.unpack scale)

/-! ## The exact accumulator (R116) -/

/-- A contribution converted to FP32, as a multiple of 2^-149, or a sticky bit: NaN, +infinity, -infinity. -/
def exactTerm (x : Num) : Int × (Bool × Bool × Bool) :=
  match (rneFp32 x).1 with
  | .nan => (0, true, false, false)
  | .inf false => (0, false, true, false)
  | .inf true => (0, false, false, true)
  | .num s m e => (Num.scaled (-149) (.num s m e), false, false, false)

end Sys2Proof.Machine
end

