-- ==== Sys2Proof/Machine/State.lean ====
section
/-!
DEFINITION. The state of one LR-SF4 package as plain data, and the state after reset. One number names a tile of the package:
(die * 32 + y) * 48 + x (R7). Every sparse map lists its keys in rising order.
-/
namespace Sys2Proof.Machine

/-! ## Tokens -/

/-- A closed interval of addresses: a pair of a range log (R131). -/
structure Rng where
  lo : Nat
  hi : Nat
deriving DecidableEq, Repr

/-- A pair of a release record, with the dies whose writes it covers, one bit each (R175). -/
structure RelPair where
  dies : BitVec 4
  rng : Rng
deriving DecidableEq, Repr

/-- What the ordering arcs into a point carry (R170, R309): the dirty-range pairs of the writes seen, the pairs that atomics have
brought back, and the release FENCEs whose reply was seen. -/
structure Arcs where
  writes : List Rng := []
  back : List RelPair := []
  fences : List Nat := []
deriving DecidableEq, Repr

/-- The payload of a token: 64 bits, or 16 lanes (R21). -/
inductive Payload where
  | s (w : Word)
  | v (x : Vec)
deriving DecidableEq, Repr

/-- What travels beside a token's payload: the row of an accumulate token (R334), the format and HALF of a matrix row token (R329),
the kind of a summary insert (R304), the mark of a transfer request with the context and slot of its firing (R405, R209). -/
inductive SideBand where
  | none
  | acc (row : Nat) (sender : Nat)
  | row (half : Bool) (fmt : Nat)
  | ins (kind : Nat)
  | xreq (ctx : Fin 4) (slot : Fin 32)
deriving DecidableEq, Repr

/-- One hop of a sampled token's log: the tile, the cycles of arrival and departure (R261). -/
structure HopLog where
  tile : Nat
  arr : Nat
  dep : Nat
deriving DecidableEq, Repr

/-- The log of a sampled token (R260, R261). -/
structure TraceLog where
  birth : Nat
  hops : List HopLog
  trunc : Bool
deriving DecidableEq, Repr

/-- A token (R21) with its side-band, the arcs it carries and its log if it is sampled. -/
structure Token where
  tag : BitVec 2
  pay : Payload
  side : SideBand := .none
  arcs : Arcs := {}
  log : Option TraceLog := .none
deriving DecidableEq, Repr

/-! ## Ports, packets and routers (R24 to R27) -/

/-- One branch of a packet at a router: a step in one of four directions (0 north, 1 east, 2 south, 3 west), delivery to a queue of
the tile, delivery over the direct link to a queue of the home memory tile, delivery to a gather register of the tile (R65). -/
inductive Branch where
  | dir (d : Fin 4)
  | loc (q : Fin 4)
  | home (q : Fin 4)
  | gat (i : Nat)
deriving DecidableEq, Repr

/-- The destination of a packet that is routed by coordinates (R25): a queue of a tile, or a gather register there (R65). -/
structure Dest where
  tile : Nat
  q : Fin 4
  reg : Option Nat := none
deriving DecidableEq, Repr

/-- To what the front end has resolved a class with EXT = 1 (R64, R66): it is unconnected and its tokens are dropped, or its link has no
partner yet, or a destination. -/
inductive ExtTo where
  | drop
  | wait
  | to (d : Dest)
deriving DecidableEq, Repr

/-- How a packet is routed: by tables with a class, or by destination (R24, R25). -/
inductive Route where
  | table (cls : Fin 16)
  | dest (d : Dest)
deriving DecidableEq, Repr

/-- A slot of an output port: reserved for a result of the matrix unit (R334, R336), or a token with its packet's name and the branches that
have not accepted it yet (`none` before the sending router has read its entry), with the cycle in which it was placed. -/
inductive OutSlot where
  | reserved (id : Nat)
  | full (t : Token) (left : Option (Nat × Route × List Branch)) (since : Nat)
deriving DecidableEq, Repr

/-- A packet in a router, or on its way over a link into the queue `into` of tile `tile`: its name, the name of the packet or of the port's packet that
it was copied from, the sending port 4 * tile + q, its direction of arrival (4: from the tile itself). `hold` names the tile and the branch there
of the packet that it was copied from, which still holds it because it has not been accepted yet (R26). -/
structure Flight where
  id : Nat
  pkt : Nat
  src : Nat
  tile : Nat
  dir : Nat
  tok : Token
  route : Route
  left : Option (List Branch) := .none
  into : Option (Fin 4) := .none
  hold : Option (Nat × Branch) := .none
  ready : Nat
deriving DecidableEq, Repr

/-! ## Compute elements (R17 to R38) -/

/-- The state of a context (R38); `absent` where no slot names it. Checkpointed is a state of its region. `delivered` of a frozen
context says that its fault token has been delivered, so that it counts as halted (R211). -/
inductive CtxSt where
  | absent
  | armed
  | frozen (delivered : Bool)
  | halted
deriving DecidableEq, Repr

/-- The per-context resources of an element (R17), with its TMARK mark (R381), whether TCOMMIT holds it (R377), its arcs (R170) and
its release set (R309). -/
structure Ctx where
  st : CtxSt
  region : Nat
  leaf : Nat
  v : Vector Vec 32
  s : Vector Word 16
  p : BitVec 8
  k : Vector (BitVec 16) 4
  mark : Bool
  held : Bool
  arcs : Arcs
  relSet : Option (Nat × List Rng)
deriving DecidableEq, Repr

/-- A fill or an eviction of a vector register in progress (R19): the register wanted (context, number), the register evicted, and the
cycle in which it completes, the slot whose firing started it. `isFill` is false for an eviction alone. -/
structure RegMove where
  isFill : Bool
  want : Nat × Nat
  out : Option (Nat × Nat)
  due : Nat
  slot : Fin 32
deriving DecidableEq, Repr

/-- A barrier counter (R296). -/
structure Bar where
  count : Nat
  p : Nat
  g : BitVec 32
  waiting : List Nat
deriving DecidableEq, Repr

/-- A result of the matrix unit on its way to port `q`: the token, the cycle in which it enters, the request for replay state (R334,
R336). -/
structure MatOut where
  id : Nat
  q : Fin 4
  tok : Token
  due : Nat
  isRow : Bool
  replayed : Bool
deriving DecidableEq, Repr

/-- The matrix unit (R327). A column or a row is its 160 bytes as a number and its format. -/
structure Matrix where
  panel : Option (BitVec 128)
  latch : Vector (BitVec 1280) 16
  bc : Nat
  bfmt : Option Nat
  gather : Vector (BitVec 1280) 16
  gfmt : Nat
  garrived : Nat
  gr : Nat
  gaddr : List Nat
  gheld : Option (BitVec 1280)
  gdue : Nat
  gfired : Nat
  gctx : Fin 4
  gid : Nat
  rp : Nat
  dp : Nat
  out : Nat
  zb : Bool
  zdue : Nat
  zdone : Nat
  outs : List MatOut
  acks : List Nat
deriving DecidableEq, Repr

/-- A collective slot (R232): asked for by request `rq`, with its length, and running from cycle `start`; the two operand buffers and the result buffer
hold the elements of the last 80-byte piece that the engine handed over. -/
structure CSlot where
  rq : Nat
  len : Nat
  running : Bool
  start : Nat
  opA : List Word
  opB : List Word
  res : List Word
deriving DecidableEq, Repr

/-- A compute element of an armed region: configuration (R88), the picker (R29), its contexts, its vector entries (R19), its matrix
unit, its barriers and its collective slot. `due` lists the slots that a follower must fire, with their cycles (R34); `haltAt` the cycle
from which a halt keeps it from picking (R207), `freeEnts` the slot-table entries that name no context of an instance (R205). -/
structure Elem where
  slots : Vector (BitVec 32) 32
  sides : Vector (BitVec 16) 32
  comps : Vector (BitVec 16) 16
  consts : Vector Word 8
  ctrl : BitVec 64
  table : BitVec 48
  pendTable : Option (BitVec 48)
  idx : BitVec 4
  rp : BitVec 2
  ctx : Vector Ctx 4
  counts : Vector (BitVec 40) 32
  resident : List (Nat × Nat)
  spilled : List (Nat × Nat)
  moves : List RegMove
  due : List (Nat × Fin 32)
  mat : Matrix
  bars : Vector Bar 16
  cslot : Option CSlot
  haltAt : Option Nat
  freeEnts : BitVec 16
deriving DecidableEq, Repr

/-! ## Memory tiles (R118 to R131) -/

/-- One entry of a FIFO (R410): a data token's, of `len` bytes that lie in the mode area, or a mark with its tag and payload. -/
inductive FifoEnt where
  | data (len : Nat) (arcs : Arcs)
  | mark (tag : BitVec 2) (pay : Word) (arcs : Arcs)
deriving DecidableEq, Repr

/-- The phase of an address generator (R122, R131, R209). -/
inductive GenSt where
  | closed
  | running
  | endPass
  | finishing (done : Nat)
  | complete
  | stopped
deriving DecidableEq, Repr

/-- The position of a sequence walk in its request (R218 to R220). -/
structure WalkPos where
  lanes : Vec
  slot : Nat
  made : Nat
  gone : Nat
  arcs : Arcs
  pend : List Token
deriving DecidableEq, Repr

/-- An address generator's position (R122, R129): the index tuple, the element index since it was opened (R114), the elements and
tokens of the run, the range of physical addresses it wrote and read (R131), the page it waits for, as a time of the reference timer and an address (R138), the
lines it has run for in line-buffer mode (R122), the tokens of a global load on their way from the port tile, with the earliest cycle in which each leaves
the tile (R122), the elements of MXFP4 groups held back, with their draws (R412). -/
structure Gen where
  st : GenSt
  tuple : List Nat
  elem : BitVec 46
  moved : Nat
  runTokens : Nat
  wr : Option Rng
  rd : Option Rng
  busy : Nat
  withheld : Option (Nat × Nat)
  line : Nat
  pendTok : List Token
  flying : List (Token × Nat)
  group : List (Int × Lane × Nat)
  arcs : Arcs
  walk : Option WalkPos
deriving DecidableEq, Repr

/-- The sticky bits and the contribution count of an element of the reduce unit (R116). -/
structure RedElem where
  nan : Bool
  pinf : Bool
  ninf : Bool
  count : Nat
deriving DecidableEq, Repr

/-- A PSEQ staging tile: its route, active once B has been loaded, and the tokens that it holds in the order of their arrival (R64). -/
structure Staging where
  active : Bool
  dest : ExtTo
  toks : List Token
deriving DecidableEq, Repr

/-- The record that the last TKINIT bound (R221): its offset, with the query and NORM taken at TKINIT (R222). -/
structure TopK where
  off : Nat
  norm : Lane
  q : BitVec 4096
deriving DecidableEq, Repr

/-- A memory tile: its configuration, the mode state of R120 and R121, its generators, the units that serve its requests. -/
structure MTile where
  ctrl : BitVec 64
  bind : BitVec 64
  recs : Vector (BitVec 512) 4
  gens : Vector Gen 4
  full : Nat
  wbuf : Nat
  rbuf : Nat
  fifo : List FifoEnt
  filling : Bool
  lines : Nat
  red : SMap RedElem
  topk : Option TopK
  banks : SMap Nat
  unitBusy : Nat
  unitOn : Option Nat
  tkBusy : Nat
  staging : Option Staging
  qStop : BitVec 4
deriving DecidableEq, Repr

/-! ## Scatter and gather registers (R65) -/

/-- A scatter register: the queue it stands before, its run counter, the copies and the stride, whether data tokens are runs, the
copies that still wait for an end-of-pass, the token it holds. -/
structure Scatter where
  q : Fin 4
  n : Nat
  stride : Nat
  k : Nat
  perToken : Bool
  held : Option (Token × List Nat)
deriving DecidableEq, Repr

/-- A gather register: its name, which is its region's number times 4 plus its number among those of the region in this router; the leaf and port,
the copies, the stride, its run counter, its buffers of two tokens for each copy, the destination of the result's port. -/
structure Gather where
  key : Nat
  leaf : Nat
  port : Nat
  n : Nat
  stride : Nat
  k : Nat
  perToken : Bool
  bufs : List (List Token)
  dest : ExtTo
deriving DecidableEq, Repr

/-- What one of several instances that share an element has of it (R205): queues, ports, route classes and slots. -/
structure Share where
  region : Nat
  leaf : Nat
  iq : BitVec 4
  op : BitVec 4
  cls : BitVec 16
  slots : BitVec 32
deriving DecidableEq, Repr

/-- A tile of a region: its router, with what the front end resolved its classes with EXT = 1 to, its queues, and what it is. -/
structure Tile where
  region : Nat
  leaf : Nat
  routes : Vector (BitVec 32) 16
  ext : SMap ExtTo
  opClass : BitVec 16
  iqKind : BitVec 4
  opKind : BitVec 4
  iq : Vector (List Token) 4
  op : Vector (List OutSlot) 4
  elem : Option Elem
  mem : Option MTile
  scatter : List Scatter
  gather : List Gather
  shared : List Share
deriving DecidableEq, Repr

/-! ## Requests (R156) -/

/-- The answer of a request: the token that enters the reply queue, and the value of the predicate written with it. -/
structure Reply where
  pay : Payload
  fault : Bool
  pred : Option Bool
  arcs : Arcs
deriving DecidableEq, Repr

/-- Where a request stands: on its way to its unit, waiting there for a condition, or answered. -/
inductive ReqSt where
  | sent
  | waiting
  | done (r : Reply)
deriving DecidableEq, Repr

/-- A request of a firing (R156): the firing's site, the reply queue, the predicate, the instruction and its operand values; `snap` is the
snapshot of an SMERGE's source (R370); `pa` is the physical address once a port has translated it. `due` is
the cycle from which its next step may come; `withheld` the time from which a page that is not resident keeps it, and the address (R138). -/
structure Req where
  id : Nat
  tile : Nat
  ctx : Fin 4
  slot : Fin 32
  region : Nat
  leaf : Nat
  task : Nat
  q : Option (Fin 4)
  pred : Option (Fin 8)
  op : Instr
  x : Word
  y : Word
  z : Word
  pay : Payload
  arcs : Arcs
  rel : Option (List Rng)
  snap : List Byte := []
  pa : Option Nat := none
  withheld : Option (Nat × Nat) := none
  banked : List Nat := []
  due : Nat
  st : ReqSt
deriving DecidableEq, Repr

/-! ## Fragments and plans (R45 to R67) -/

/-- The header of an interface record (R45), fields by name. -/
structure Header where
  fragId : Nat
  w : Nat
  h : Nat
  xphase : Nat
  dlf : Bool
  rep : Bool
  faultp : Bool
  faultPort : Nat
  adapter : Bool
  adaptField : Nat
  resClass : BitVec 32
  ii : Nat
  lat : Nat
  altFrag : Nat
  memuse : BitVec 16
deriving DecidableEq, Repr

/-- A port of a plan: its entry (R47) as the plan shows it, and the leaf and port it comes from (R64). -/
structure PlanPort where
  entry : BitVec 256
  leaf : Nat
  port : Nat
deriving DecidableEq, Repr

/-- A hole of a plan (R49, R56) and the leaf and hole it comes from. -/
structure PlanHole where
  x : Nat
  y : Nat
  w : Nat
  h : Nat
  leaf : Nat
  hole : Nat
deriving DecidableEq, Repr

/-- A leaf of a plan: where its fragment's record lies, its offset, the copies of PREP that it is under as (field, copy) pairs (R58),
the turn of a PSEQ in which it runs (R64). -/
structure PlanLeaf where
  addr : Nat
  ox : Nat
  oy : Nat
  copies : List (Nat × Nat)
  turn : List (Nat × Nat)
  hdr : Header
  ports : List (BitVec 256)
deriving DecidableEq, Repr

/-- What joins the producer's port to the consumer's (R64): directly, or through the staging tile of a PSEQ in that memory column. -/
structure PlanJoint where
  pl : Nat
  pp : Nat
  cl : Nat
  cp : Nat
  staging : Option Nat
deriving DecidableEq, Repr

/-- The scatter and gather of a PREP (R65): the copies' leaves of one port, in order of copy. -/
structure PlanPrep where
  n : Nat
  field : Nat
  stride : Nat
  first : Nat
  count : Nat
deriving DecidableEq, Repr

/-- The completion port of the first operand of a PSEQ (R39, R64): the PSEQ, the leaf and port that the operand's port comes from, and how many
PREPs of the operand hold that leaf. -/
structure PlanEnd where
  pseq : Nat
  leaf : Nat
  port : Nat
  depth : Nat
deriving DecidableEq, Repr

/-- A plan: a fragment or a composition (R52, R64); `ends` are the completion ports of the first operands of its PSEQs. -/
structure Plan where
  hdr : Header
  ports : List PlanPort
  mems : List (BitVec 128)
  holes : List PlanHole
  leaves : List PlanLeaf
  joints : List PlanJoint
  preps : List PlanPrep
  ends : List PlanEnd
  kids : List Nat
deriving DecidableEq, Repr

/-- A plan-table entry (R52): its generation, the references of composites and launches, the table's own reference, the task that made it
(R344), whether it is a library entry and the object that holds its image (R347). `plan` is none for a reclaimed entry. -/
structure PlanEnt where
  gen : BitVec 12
  refs : Nat
  own : Bool
  task : Option Nat
  lib : Option Nat
  plan : Option Plan
deriving DecidableEq, Repr

/-! ## Regions, launches and tasks -/

/-- A range entry (R135), with the symbol of its binding (R200). -/
structure RangeEnt where
  vbase : Nat
  size : Nat
  pbase : Nat
  rd : Bool
  wr : Bool
  atom : Bool
  paged : Bool
  valid : Bool
  dom : Bool
  sym : BitVec 32
  soff : Nat
deriving DecidableEq, Repr

/-- The plan of a launch: a plan-table entry, an image in memory without a record, or the chosen alternate of a fragment. -/
inductive PlanRef where
  | entry (index : Nat)
  | image (addr : Nat)
deriving DecidableEq, Repr

/-- A launch header as read (R200). -/
structure LHeader where
  plan : BitVec 64
  wid : Word
  seed : Word
  ts : Word
  widths : List Nat
  ordered : Bool
  altok : Bool
  quantum : Nat
  shareK : Nat
  rstart : Nat
  rend : Nat
  minChunk : Nat
  consumers : Nat
  f : Nat
  ruen : Bool
  binds : List RangeEnt
  links : List (Nat × BitVec 32)
deriving DecidableEq, Repr

/-- A channel of a region (R143): its queue, as a region-relative tile and a queue, the pending count and the arrivals. -/
structure Chan where
  tile : Nat
  q : Fin 4
  p : Nat
  a : Nat
  arcs : Arcs
deriving DecidableEq, Repr

/-- The range unit bound to a region (R40, R41): the consumers that have received count 0. -/
structure RangeUnit where
  next : Nat
  last : Nat
  minChunk : Nat
  p : Nat
  f : Nat
  zeros : List Nat
deriving DecidableEq, Repr

/-- The phases of a region: armed; draining to a checkpoint; checkpointed; stopped by a fault (R212); retiring (R39). -/
inductive RPhase where
  | armed
  | halting
  | checkpointed
  | stopped
  | retiring
  | writeBack
  | done
deriving DecidableEq, Repr

/-- A running pair at a port tile (R131): the port, whether it is of writes, the range, whether the port served it. -/
structure RunPair where
  die : Nat
  port : Nat
  write : Bool
  rng : Rng
deriving DecidableEq, Repr

/-- What a stream port has recorded for a region since it was armed (R131): the port, whether of its store streams, and the lowest and highest
address. -/
structure StreamPair where
  port : Nat
  write : Bool
  rng : Rng
deriving DecidableEq, Repr

/-- One port's reuse histogram of a region (R262): the accesses counted, those whose line no tag register held, the tag registers (line, access number), the 16 bins. -/
structure Reuse where
  die : Nat
  port : Nat
  n : Nat
  fresh : Nat
  tags : List (Nat × Nat)
  bins : List Nat
deriving DecidableEq, Repr

/-- A communicator's use and the tile-table entries of a region (R226, R228). -/
structure RColl where
  comms : List Nat
  die : Nat
  base : Nat
  count : Nat
deriving DecidableEq, Repr

/-- A transfer in progress, or a request on its way to a transfer unit (R141, R406): the four words, the progress in granules. -/
structure Transfer where
  id : Nat
  tile : Nat
  ctx : Fin 4
  slot : Fin 32
  region : Nat
  leaf : Nat
  task : Nat
  words : List Word
  ok : Bool
  accepted : Bool
  donePos : Nat
  due : Nat
  arcs : Arcs
  die : Nat
  port : Nat
  withheld : Option (Nat × Nat)
  isCopy : Option Nat
deriving DecidableEq, Repr

/-- A fault token on a region's fault network (R211): the tile and queue it goes to, the context it froze. -/
structure FaultTok where
  id : Nat
  region : Nat
  tile : Nat
  q : Fin 4
  pay : Word
  due : Nat
  froze : Option (Nat × Fin 4)
deriving DecidableEq, Repr

/-- What a checkpoint or a launch state holds of a region (R139, R165, R168): tiles by their place relative to the origin, SRAM and
full-empty bits of the memory tiles, packets, requests, and the state of the region itself. -/
structure Snapshot where
  turn : Nat
  seqSeen : Nat
  x0 : Nat
  y0 : Nat
  die : Nat
  tiles : SMap Tile
  sram : SMap Byte
  full : SMap Bool
  flights : List Flight
  reqs : List Req
  faultToks : List FaultTok
  transfers : List Transfer
  flags : Flags
  frec : Vector (Option Word) 16
  ru : Option RangeUnit
  chans : SMap Chan
  bars : Vector Bar 16
deriving DecidableEq, Repr

/-- A region (R204): number, version, origin and rectangle, its launch, its leaves and its state. -/
structure Region where
  num : Nat
  ver : BitVec 16
  launch : Nat
  queue : Nat
  task : Nat
  die : Nat
  x0 : Nat
  y0 : Nat
  w : Nat
  h : Nat
  phase : RPhase
  since : Nat
  hdr : LHeader
  plan : Plan
  planIdx : Option Nat
  image : Nat
  turn : Nat
  flags : Flags
  setNow : Flags
  clrNow : Flags
  frec : Vector (Option Word) 16
  ru : Option RangeUnit
  chans : SMap Chan
  bars : Vector Bar 16
  wlog : List Rng
  rlog : List Rng
  pairs : List RunPair
  spairs : List StreamPair
  reuse : List Reuse
  ports : SMap (List RangeEnt)
  compSeen : Bool
  compTokens : Nat
  seqSeen : Nat
  coll : Option RColl
  backing : Nat
  starts : List (Nat × Snapshot)
  save : Option Snapshot
  links : List (Nat × BitVec 32)
  stopKind : Nat
  stopTok : Word
  stopDet : Word
  faulted : Option (Nat × Word × Word)
  armedAt : Nat
  endedAt : Nat
  replaced : Bool
  commitAt : Option Nat
  kept : List (Option (Nat × Nat) × Nat)
  proposals : List Word
  pageWait : Option Nat
  alt : Bool
  objs : List Nat
deriving DecidableEq, Repr

/-- Where a launch waits: for a rectangle (R204, R205), or to be placed again from its checkpoint (R206); `reserved` when it has
reserved its turn; `parent` is the region that waits for it (R351), `sig` what the matcher samples at its end: signature, alternative, fragment and
the entry's name (R72, R76); `tried` when it has looked for a rectangle and found none, `waited` the cycles that it had waited when it was placed,
`made` the objects of its section that it has allocated while it waits for the rest (R280). -/
structure Launch where
  id : Nat
  queue : Nat
  pkt : Option Nat
  req : Option Nat
  task : Nat
  plan : PlanRef
  hdr : LHeader
  parent : Option Nat
  since : Nat
  due : Nat
  reserved : Bool
  region : Option Nat
  sig : List (Word × Nat × Nat × Nat)
  tried : Bool := false
  waited : Nat := 0
  made : List Nat := []
deriving DecidableEq, Repr

/-- A task (R163, R164): its commit key if it is ordered, its region, its state, its buffered commutative atomics in the order of
issue, the ranges of its atomics, the release sets of its speculative atomics (R309), the plan entries to free at its commit (R344). -/
structure Task where
  id : Nat
  ordered : Bool
  ts : Word
  key : Option (Nat × Nat)
  irrev : Bool
  complete : Bool
  aborts : Nat
  mchecks : Nat
  region : Option Nat
  parent : Option Nat
  pkt : Option Nat
  launch : Option Nat
  atomics : List (Nat × Instr × Word × Nat)
  wr : List Rng
  rd : List Rng
  rels : List (Nat × List RelPair)
  frees : List Nat
  bars : Vector Bar 16
deriving DecidableEq, Repr

/-! ## Queues and packets (R196 to R203) -/

/-- The registers of a work queue (R196), its wait count and its credit (R201). -/
structure Queue where
  base : Word
  cfg : BitVec 25
  kick : Word
  read : Word
  done : Word
  faulted : Bool
  ovr : Bool
  held : Bool
  parked : Bool
  wait : Nat
  credit : Nat
deriving DecidableEq, Repr

/-- What a completion record says, apart from the packet's TAG (R213). -/
structure Record where
  status : Nat
  kind : Nat := 0
  alt : Bool := false
  region : Nat := 0
  ver : BitVec 16 := 0
  aborts : Nat := 0
  ts : Word := 0
  d0 : Word := 0
  d1 : Word := 0
  armed : Nat := 0
  ended : Nat := 0
  die : Nat := 0
  x0 : Nat := 0
  y0 : Nat := 0
deriving DecidableEq, Repr

/-- Where a packet in progress stands (R199): fetched and to be dispatched, waiting with its slot held, started, completed with a record
to be written. -/
inductive PktSt where
  | fetched
  | waiting
  | started
  | ended (r : Record)
deriving DecidableEq, Repr

/-- A packet in progress: `waits` are the packets that a BARRIER waits for, or the regions that a PREEMPT halts; `met` that a write to its
signal's line has met a WAIT's condition (R201). -/
structure Packet where
  id : Nat
  queue : Nat
  index : Nat
  words : List Word
  st : PktSt
  due : Nat
  waits : List Nat
  met : Bool := false
deriving DecidableEq, Repr

/-! ## Memory system -/

/-- A 64-byte sector of a port cache (R132): whether it has been filled, which bytes it holds written, its bytes, and which of the bytes written are
committed contents, which every party of the package sees (R134, R167). -/
structure Sector where
  valid : Bool
  dirty : BitVec 64
  data : BitVec 512
  com : BitVec 64 := 0
deriving DecidableEq, Repr

/-- A line of a port cache: its 4 sectors and the order of its last use. -/
structure Line where
  secs : Vector Sector 4
  use : Nat
deriving DecidableEq, Repr

/-- A pending version of a sector (R166): the task, the die whose port cache holds it, the sector's number, the bytes written. -/
structure Pending where
  task : Nat
  die : Nat
  sec : Nat
  mask : BitVec 64
  data : BitVec 512
deriving DecidableEq, Repr

/-- A port tile (R132, R145): its slot table; the requester that the last passed cycle served; the cycle of its last access; the generator whose
token it served last; the page-table entries in its page-translation cache, each under its address; the page walks that wait; the object-table
entries in its handle cache. -/
structure PortTile where
  table : BitVec 192
  last : Nat
  served : Option Nat
  turn : Nat
  tlb : List (Nat × Nat)
  walks : List Nat
  handles : List Nat
deriving DecidableEq, Repr

/-- A quantum replica of an 8-byte word on a die (R172), with the cycle of its refresh. -/
structure Replica where
  value : Word
  atom : Nat
deriving DecidableEq, Repr

/-- A page fetch of the Nickel core (R138): the page's entry, the region that asked, the faulting address, the time of the reference timer. -/
structure Fetch where
  id : Nat
  pte : Nat
  tableBase : Nat
  page : Nat
  pages : Nat
  region : Nat
  va : Nat
  since : Nat
deriving DecidableEq, Repr

/-! ## Collectives (R226 to R237) -/

/-- A communicator (R226) with the regions that loaded it and its early-arrival pool (R235). -/
structure Comm where
  tag : BitVec 32
  prio : Nat
  det : Bool
  nrank : Nat
  rank : Nat
  swlimit : Nat
  users : List Nat
  pool : List Chunk
deriving DecidableEq, Repr

/-- A tile-table entry (R228) and its operation (R231): the request that waits for it, the CRDYs parked behind it, the chunks accepted, the
contributors of each chunk, the chunks that OP 0 has written, the accumulators of OP 2 with their sticky bits, those of OP 1, 3 and 4, the
chunks of each rank that OP 5 waits to merge and what it has merged; `hold` gives for each chunk of OP 2 what its part of the staging area
reads as, and `spoilt` says that a program wrote there (R229). -/
structure TEntry where
  word : BitVec 512
  region : Nat
  rq : Option Nat
  parked : List Nat
  accepted : Nat
  ranks : SMap (BitVec 640)
  written : List Nat
  exact : SMap (BitVec 320)
  sticky : SMap RedElem
  acc : SMap Word
  parts : SMap (List Byte)
  merged : Option (List Byte)
  hold : SMap Nat
  spoilt : Bool
deriving DecidableEq, Repr

/-- What stands before an engine (R236): a chunk to send from an entry, or a chunk for an entry. -/
inductive EngWork where
  | send (entry k d : Nat)
  | take (entry : Nat) (c : Chunk)
deriving DecidableEq, Repr

/-- A die's collective engine (R236): the work waiting with its communicator, what it serves now, from which cycle it is free and how many bytes of
the chunk it has combined, the communicator it served last, the chunks refused and offered again (R285). -/
structure Engine where
  queue : List (Nat × EngWork)
  now : Option (Nat × EngWork)
  busy : Nat
  pos : Nat
  last : Nat
  refused : List (Nat × Chunk × Nat)
deriving DecidableEq, Repr

/-- A reduction slot of a Yapiza switch (R234). -/
structure SwSlot where
  chunk : Chunk
  since : Nat
  limit : Nat
deriving DecidableEq, Repr

/-! ## The matcher (R68 to R76) -/

/-- A motif-table entry is its 512 bits (R69). -/
abbrev Motif := BitVec 512

/-! ## Power, trace and debug registers (R259 to R267) -/

/-- The trace, debug, power and machine-check registers (R259). -/
structure DebugRegs where
  trbase : Word
  trsize : BitVec 5
  trhead : Word
  trtail : Word
  trdrop : Word
  dbgRegion : BitVec 12
  dbgArm : Bool
  dbgHeld : List Nat
  mhz : BitVec 11
  cap : Bool
  droop : Bool
  mclog : BitVec 54
  watch : Vector (BitVec 64) 4
deriving DecidableEq, Repr

/-- The matcher's registers (R75). -/
structure MatchRegs where
  exploreOff : Bool
  freeze : Bool
  sig : Word
  pin : BitVec 3
  notFound : Bool
  hits : Word
  miss : Word
  adapt : Word
  repl : Word
  ent : BitVec 512
deriving DecidableEq, Repr

/-- The package registers of R193; `defects` holds the numbers of the defect map's set bits (R195). -/
structure PkgRegs where
  drainLimit : BitVec 7
  objtab : Word
  objcnt : Nat
  pwlow : Word
  pwhigh : Word
  portmap : BitVec 16
  ageStep : Nat
  pwbase : Word
  pwsize : Word
  romver : BitVec 16
  defects : List Nat
deriving DecidableEq, Repr

/-! ## The step's own data -/

/-- Where a firing takes place: element, context, slot; `lead` is false in a follower (R34). -/
structure Site where
  tile : Nat
  ctx : Fin 4
  slot : Fin 32
  lead : Bool
deriving DecidableEq, Repr

/-- What is still to be done in this cycle: an element's pick (R29), the firing of a slot, a HALT that passes along a chain (R35), an
event, a page walk of a port tile (R145), the search for the events that the units can perform now. -/
inductive Work where
  | pick (tile : Nat)
  | run (site : Site)
  | halt (tile : Nat) (ctx : Fin 4)
  | walk (port : Nat)
  | ev (i : Instr)
  | poll (phase : Nat)
deriving DecidableEq, Repr

/-- Why the machine would stop with a fault. No meaning does: every fault that the spec describes is a next state. -/
inductive Fault where
  /-- Raised by nothing; the type must not be empty of names. Safe: a machine that never raises it says nothing through it. -/
  | impossible
deriving DecidableEq, Repr

/-- Why a step would be refused. -/
inductive Refusal where
  /-- Raised by an arm of `exec` whose instruction has no meaning yet, with its mnemonic. Safe: the machine stops where the hardware
  goes on. -/
  | notModelled (mnemonic : String)
deriving DecidableEq, Repr

/-- The state of one package. -/
structure State where
  cycle : Nat
  time : Nat
  epoch : BitVec 32
  agenda : List (Nat × Instr)
  scan : List Work
  cur : Option Site
  freeCtr : Nat
  nextId : Nat
  hostOut : List Byte
  regs : PkgRegs
  dbg : DebugRegs
  am : MatchRegs
  queues : SMap Queue
  lastQueue : Vector (Option Nat) 4
  lastGrant : Option Nat
  refilled : Bool
  packets : List Packet
  launches : List Launch
  hbm : SMap Byte
  sram : SMap Byte
  full : SMap Bool
  flash : SMap Byte
  lines : SMap Line
  pend : List Pending
  ports : SMap PortTile
  watched : List (Nat × Instr)
  relRecs : SMap (List RelPair)
  replicas : SMap Replica
  fetches : List Fetch
  tiles : SMap Tile
  flights : List Flight
  served : SMap Nat
  reqs : List Req
  faultToks : List FaultTok
  transfers : List Transfer
  regions : SMap Region
  versions : SMap (BitVec 16)
  tasks : List Task
  seq : Nat
  maxTs : Nat
  plans : SMap PlanEnt
  library : SMap Nat
  solderBusy : Vector Nat 4
  motifs : SMap Motif
  motifIds : SMap Nat
  launchCtr : BitVec 32
  retiredIdx : List Nat
  reclaiming : Bool
  short : Bool
  dying : Option Nat
  hnewWait : Nat
  comms : SMap Comm
  tables : SMap TEntry
  engines : Vector Engine 4
  switches : List SwSlot
deriving DecidableEq, Repr

/-- A sector that holds nothing. -/
def Sector.empty : Sector := ⟨false, 0, 0, 0⟩

/-- A port tile that has served nothing, with a table of zeros (R145). -/
def PortTile.idle : PortTile := ⟨0, 0, none, 0, [], [], []⟩

/-- An idle barrier counter (R296). -/
def Bar.zero : Bar := ⟨0, 0, 0, []⟩

/-- The registers of a queue after reset (R196). -/
def Queue.reset : Queue := ⟨0, 0x20066, 0, 0, 0, false, false, false, false, 0, 0⟩

/-- The machine right after reset. -/
def State.reset : State where
  cycle := 0
  time := 0
  epoch := 0
  agenda := []
  scan := []
  cur := none
  freeCtr := 0
  nextId := 1
  hostOut := []
  regs := ⟨6, 0, 0, 0x100000000, 0x200000000, 0, 65536, 0, 0, 0x0200, []⟩
  dbg := ⟨0, 4, 0, 0, 0, 0, false, [], 1050, false, false, 0, Vector.mk #[0, 0, 0, 0] rfl⟩
  am := ⟨false, false, 0, 0, false, 0, 0, 0, 0, 0⟩
  queues := []
  lastQueue := Vector.mk #[none, none, none, none] rfl
  lastGrant := none
  refilled := false
  packets := []
  launches := []
  hbm := []
  sram := []
  full := []
  flash := []
  lines := []
  pend := []
  ports := []
  watched := []
  relRecs := []
  replicas := []
  fetches := []
  tiles := []
  flights := []
  served := []
  reqs := []
  faultToks := []
  transfers := []
  regions := []
  versions := []
  tasks := []
  seq := 0
  maxTs := 0
  plans := []
  library := []
  solderBusy := Vector.mk #[0, 0, 0, 0] rfl
  motifs := []
  motifIds := []
  launchCtr := 0
  retiredIdx := []
  reclaiming := false
  short := false
  dying := none
  hnewWait := 0
  comms := []
  tables := []
  engines := Vector.mk #[⟨[], none, 0, 0, 0, []⟩, ⟨[], none, 0, 0, 0, []⟩, ⟨[], none, 0, 0, 0, []⟩, ⟨[], none, 0, 0, 0, []⟩] rfl
  switches := []

end Sys2Proof.Machine
end

