-- ==== Sys2Proof/Machine/Ops.lean ====
section
/-!
DEFINITION. The named operations over the state that every unit shares: tiles and their neighbours, arcs and range logs, queues and
output ports, free values, scheduling, and taking a fault.
-/
namespace Sys2Proof.Machine

/-! ## Time and free values -/

/-- Insertion of an entry before the first that is not below it. -/
def insertBy {α : Type} (lt : α → α → Bool) (x : α) : List α → List α
  | [] => [x]
  | y :: ys => if lt x y then x :: y :: ys else y :: insertBy lt x ys

/-- A list in the order of `lt`, entries that are alike in their old order. -/
def sortBy {α : Type} (lt : α → α → Bool) : List α → List α
  | [] => []
  | x :: xs => insertBy (fun a b => !lt b a) x (sortBy lt xs)

/-- A fresh free value: the counter that opaque constants are applied to, advanced. -/
def State.tick (s : State) : State := { s with freeCtr := s.freeCtr + 1 }

/-- A cycle at least `least` after now, with a free part (log 4). -/
def State.after (s : State) (least : Nat) : Nat := s.cycle + least + Config.latency s.freeCtr

/-- A cycle after now and at most `bound` later. -/
def State.within (s : State) (bound : Nat) : Nat := s.cycle + Config.latency s.freeCtr % (bound + 1)

/-- A fresh name. -/
def State.fresh (s : State) : State := { s with nextId := s.nextId + 1 }

/-- An event to come at a cycle. -/
def State.at (s : State) (c : Nat) (i : Instr) : State := { s with agenda := s.agenda ++ [(c, i)] }

/-- Work to be done next in this cycle. -/
def State.first (s : State) (w : Work) : State := { s with scan := w :: s.scan }

/-! ## Addresses of the domain (R239) -/

/-- The package that a key lies in. -/
def keyPkg (k : Nat) : Nat := if k < 2 ^ 40 then Config.ownPackage else k / 2 ^ 40 - 1

/-- The key of a domain physical address. The own package answers at all of its 2^40 addresses, of which HBM is the first 384 GB (R6; log 100). -/
def domKey (pa : Nat) : Nat := if pa / 2 ^ 40 = Config.ownPackage then pa % 2 ^ 40 else pa + 2 ^ 40

/-- The domain physical address of a key. -/
def keyDom (k : Nat) : Nat := if k < 2 ^ 40 then Config.ownPackage * 2 ^ 40 + k else k - 2 ^ 40

/-! ## Tiles (R7, R8) -/

/-- The number of tile (die, x, y). -/
def tileNo (die x y : Nat) : Nat := (die * 32 + y) * 48 + x
/-- The die of a tile. -/
def tileDie (t : Nat) : Nat := t / 1536
/-- The column of a tile. -/
def tileX (t : Nat) : Nat := t % 48
/-- The row of a tile. -/
def tileY (t : Nat) : Nat := t / 48 % 32
/-- A tile in a memory column (R7). -/
def isMemCol (x : Nat) : Bool := x % 3 == 2

/-- The home memory tile of a compute element (R8); of a memory tile whose own entry has HM, the element at x - 1 (log 99). -/
def homeTile (t : Nat) : Nat :=
  let x := tileX t
  let hx := if x = 0 then 2 else if x % 3 = 1 then x + 1 else x - 1
  tileNo (tileDie t) hx (tileY t)

/-- The cycles of a step over the direct link: one more through the pass-through lane of column 0 (R8, R26). -/
def homeHop (t : Nat) : Nat := if tileX t = 0 then 2 else 1

/-- The neighbour in a direction (0 north, 1 east, 2 south, 3 west) with the extra cycles of a die crossing (R5, R25). -/
def neighbour (t : Nat) (d : Nat) : Option (Nat × Nat) :=
  let die := tileDie t
  let x := tileX t
  let y := tileY t
  match d with
  | 0 => if 0 < y then some (tileNo die x (y - 1), 0) else if 2 ≤ die then some (tileNo (die - 2) x 31, 8) else none
  | 1 => if x < 47 then some (tileNo die (x + 1) y, 0) else if die % 2 = 0 then some (tileNo (die + 1) 0 y, 8) else none
  | 2 => if y < 31 then some (tileNo die x (y + 1), 0) else if die < 2 then some (tileNo (die + 2) x 0, 8) else none
  | _ => if 0 < x then some (tileNo die (x - 1) y, 0) else if die % 2 = 1 then some (tileNo (die - 1) 47 y, 8) else none

/-- The tile of a region-relative place, in a region at an origin. -/
def relTile (base rel : Nat) : Nat := base + rel

/-- The tile at a number. -/
def State.tile? (s : State) (t : Nat) : Option Tile := SMap.find? s.tiles t

/-- The tile changed. -/
def State.setTile (s : State) (t : Nat) (x : Tile) : State := { s with tiles := SMap.put s.tiles t x }

/-- A tile changed by a function, where there is one. -/
def State.modTile (s : State) (t : Nat) (f : Tile → Tile) : State :=
  match s.tile? t with
  | none => s
  | some x => s.setTile t (f x)

/-- The element of a tile. -/
def State.elem? (s : State) (t : Nat) : Option Elem := (s.tile? t).bind Tile.elem

/-- The memory tile at a number. -/
def State.mem? (s : State) (t : Nat) : Option MTile := (s.tile? t).bind Tile.mem

/-- An element changed by a function. -/
def State.modElem (s : State) (t : Nat) (f : Elem → Elem) : State :=
  s.modTile t (fun x => { x with elem := x.elem.map f })

/-- A memory tile changed by a function. -/
def State.modMem (s : State) (t : Nat) (f : MTile → MTile) : State :=
  s.modTile t (fun x => { x with mem := x.mem.map f })

/-- A context changed by a function. -/
def Elem.modCtx (e : Elem) (c : Fin 4) (f : Ctx → Ctx) : Elem := { e with ctx := e.ctx.set c.val (f (e.ctx.get c)) c.isLt }

/-- A context of a tile's element changed by a function. -/
def State.modCtx (s : State) (t : Nat) (c : Fin 4) (f : Ctx → Ctx) : State := s.modElem t (fun e => e.modCtx c f)

/-- The matrix unit of a tile's element changed by a function. -/
def State.modMat (s : State) (t : Nat) (f : Matrix → Matrix) : State := s.modElem t (fun e => { e with mat := f e.mat })

/-- A generator of a memory tile changed by a function. -/
def State.modGen (s : State) (t : Nat) (g : Fin 4) (f : Gen → Gen) : State :=
  s.modMem t (fun m => { m with gens := m.gens.set g.val (f (m.gens.get g)) g.isLt })

/-- The region of a number. -/
def State.region? (s : State) (n : Nat) : Option Region := SMap.find? s.regions n

/-- A region changed by a function. -/
def State.modRegion (s : State) (n : Nat) (f : Region → Region) : State :=
  match s.region? n with
  | none => s
  | some r => { s with regions := SMap.put s.regions n (f r) }

/-- The number of the tile at a region's origin. -/
def Region.base (r : Region) : Nat := tileNo r.die r.x0 r.y0

/-- The flags set in the last cycle reach the records; where a WRSR met a setting the flag stays set (R102). -/
def Region.mergeFlags (r : Region) : Region := { r with flags := (r.flags &&& ~~~ r.clrNow) ||| r.setNow, setNow := 0, clrNow := 0 }

/-- The rectangle of a region holds the tile. -/
def Region.holds (r : Region) (t : Nat) : Bool :=
  tileDie t == r.die && decide (r.x0 ≤ tileX t) && decide (tileX t < r.x0 + r.w) && decide (r.y0 ≤ tileY t) && decide (tileY t < r.y0 + r.h)

/-- The offset of a leaf of the region's plan. -/
def Region.leafAt (r : Region) (l : Nat) : Nat × Nat :=
  match r.plan.leaves[l]? with
  | some p => (p.ox, p.oy)
  | none => (0, 0)

/-- Fragment-relative column and row of a tile (R98, R114). -/
def Region.rel (r : Region) (leaf t : Nat) : Nat × Nat :=
  (tileX t - r.x0 - (r.leafAt leaf).1, tileY t - r.y0 - (r.leafAt leaf).2)

/-- A task of a number. -/
def State.task? (s : State) (n : Nat) : Option Task := s.tasks.find? (fun t => t.id == n)

/-- A task changed by a function. -/
def State.modTask (s : State) (n : Nat) (f : Task → Task) : State :=
  { s with tasks := mapIf (fun t => t.id == n) f s.tasks }

/-- A queue's registers (R196); one that nothing has written has the credit of R201's last refill, its WEIGHT of 1. -/
def State.queue (s : State) (q : Nat) : Queue := (SMap.find? s.queues q).getD { Queue.reset with credit := s.refilled.toNat }

/-- A queue's registers changed. -/
def State.modQueue (s : State) (q : Nat) (f : Queue → Queue) : State := { s with queues := SMap.put s.queues q (f (s.queue q)) }

/-- Word k of a packet as a number. -/
def Packet.word (p : Packet) (k : Nat) : Nat := ((p.words[k]?).getD 0).toNat

/-- KIND of a packet's word 0. -/
def pktKind (w0 : Nat) : Nat := bits w0 7 0

/-- KIND of a packet. -/
def Packet.kind (p : Packet) : Nat := pktKind (p.word 0)

/-- A packet holds its queue's dispatcher slot from its fetch until it starts (R201). -/
def Packet.holdsSlot (p : Packet) : Bool := p.st == .fetched || p.st == .waiting

/-- A queue's READ is below its KICK, it is enabled and nothing stops it (R201). -/
def Queue.served (x : Queue) : Bool := x.cfg.getLsbD 16 && decide (x.read.toNat < x.kick.toNat) && !(x.faulted || x.ovr || x.held || x.parked)

/-- A queue is eligible for a dispatcher slot (R201). -/
def State.eligible (s : State) (q : Nat) : Bool := (s.queue q).served && !s.packets.any (fun p => p.queue == q && p.holdsSlot)

/-- The wait counts of the queues in the next cycle: an eligible queue's grows, a parked queue's is kept (R201, R202). -/
def State.countWaits (s : State) : SMap Queue :=
  s.queues.map (fun (q, x) => (q, { x with wait := if s.eligible q then x.wait + 1 else if x.parked then x.wait else 0 }))

/-- A packet in progress. -/
def State.packet? (s : State) (p : Nat) : Option Packet := s.packets.find? (fun x => x.id == p)

/-- A packet in progress changed. -/
def State.modPacket (s : State) (p : Nat) (f : Packet → Packet) : State :=
  { s with packets := mapIf (fun x => x.id == p) f s.packets }

/-- A request in progress. -/
def State.req? (s : State) (r : Nat) : Option Req := s.reqs.find? (fun x => x.id == r)

/-- A request changed. -/
def State.modReq (s : State) (r : Nat) (f : Req → Req) : State := { s with reqs := mapIf (fun x => x.id == r) f s.reqs }

/-- A request taken out. -/
def State.dropReq (s : State) (r : Nat) : State := { s with reqs := s.reqs.filter (fun x => x.id != r) }

/-! ## The reference timer (R138) -/

/-- A cycle of the fabric clock at `mhz` in units of the reference timer, of which 50 * 232792560 are a microsecond: a clock of 50k MHz with k from 11
to 21 makes it a whole number. -/
def refTick (mhz : Nat) : Nat := 50 * 232792560 / mhz

/-- Microseconds in units of the reference timer. -/
def micros (n : Nat) : Nat := n * (50 * 232792560)

/-- A page keeps an access: the time from which one has kept it, and the address that keeps it now (R138). -/
def keptSince (x : Option (Nat × Nat)) (time va : Nat) : Option (Nat × Nat) := some ((x.map Prod.fst).getD time, va)

/-! ## Port tiles (R132, R145) -/

/-- The number of a port tile of the package. -/
def portNo (die port : Nat) : Nat := die * 32 + port

/-- The number of a tile's bit in the defect map: 2,048 bits a die, 48y + x for a tile of the array, 1,536 + p for port tile p (R195). -/
def tileMark (t : Nat) : Nat := 2048 * tileDie t + t % 1536
/-- The number of a port tile's bit in the defect map (R195). -/
def portMark (die p : Nat) : Nat := 2048 * die + 1536 + p

/-- The port tile that serves in a port tile's place: itself, or where it is marked the next of its die that is not (R195; log 94). -/
def State.goodPort (s : State) (die p : Nat) : Nat :=
  (((List.range 32).map (fun i => (p + i) % 32)).find? (fun q => !s.regs.defects.contains (portMark die q))).getD (p % 32)

/-- The number of the port tile that serves accesses at a port tile of a die. -/
def State.portAt (s : State) (die p : Nat) : Nat := portNo die (s.goodPort die p)

/-- A port tile. -/
def State.portTile (s : State) (pt : Nat) : PortTile := (SMap.find? s.ports pt).getD PortTile.idle

/-- A port tile changed. -/
def State.modPort (s : State) (pt : Nat) (f : PortTile → PortTile) : State := { s with ports := SMap.put s.ports pt (f (s.portTile pt)) }

/-- The cycle index of the port tiles, from 0 to 63 (R145). -/
def State.portIndex (s : State) : Nat := s.cycle % 64

/-- The code of a table's entry for the cycle. -/
def State.portCode (s : State) (pt : Nat) : Nat := bits (s.portTile pt).table.toNat (3 * s.portIndex + 2) (3 * s.portIndex)

/-- The requesters of a port tile in the order in which this cycle serves the first that waits (R145): 1 to 4 the stream ports, 5 the transfer unit, 6
system traffic. -/
def State.portOrder (s : State) (pt : Nat) : List Nat :=
  let c := s.portCode pt
  let turn := (List.range 6).map (fun i => ((s.portTile pt).last + i) % 6 + 1)
  (if s.portIndex = 63 then [6] else []) ++ (if 1 ≤ c ∧ c ≤ 6 then [c] else []) ++ turn

/-- A port tile has given no access in this cycle. -/
def State.portFree (s : State) (pt : Nat) : Bool := (s.portTile pt).served != some s.cycle

/-- A port tile gives this cycle's access to a requester; `who` is the generator whose token it is. -/
def State.usePort (s : State) (pt code : Nat) (who : Option Nat) : State :=
  let passed : Bool := s.portCode pt != code && !(s.portIndex == 63 && code == 6)
  s.modPort pt (fun p => { p with served := some s.cycle, last := if passed then code else p.last, turn := who.getD p.turn })

/-- An access has found a page that is not resident: the port tiles keep only entries of resident pages (R137). -/
def State.dropAbsent (s : State) : State := { s with ports := s.ports.map (fun (n, p) => (n, { p with tlb := p.tlb.filter (fun e => bit e.2 0) })) }

/-! ## Watchpoint matches (R265) -/

/-- The matches of a cycle are reported, those of one port in the order of their watchpoints, up to 256 cycles after the accesses. -/
def State.reportMatches (s : State) : State :=
  if s.watched.isEmpty then s
  else
    let c := s.within 255
    State.tick { s with watched := [], agenda := s.agenda ++ (sortBy (fun (a b : Nat × Instr) => decide (a.1 < b.1)) s.watched).map (fun x => (c, x.2)) }

/-! ## Ranges and arcs (R131, R170, R309) -/

/-- The smallest range that covers both. -/
def Rng.cover (a b : Rng) : Rng := ⟨min a.lo b.lo, max a.hi b.hi⟩

/-- Two closed intervals share an address. -/
def Rng.meets (a b : Rng) : Bool := decide (a.lo ≤ b.hi) && decide (b.lo ≤ a.hi)

/-- A pair entered into a log of `n` pairs; a pair that finds the log full is merged into the last (R131). -/
def addRng (n : Nat) (l : List Rng) (r : Rng) : List Rng :=
  if l.length < n then l ++ [r]
  else modifyAt l (n - 1) (fun x => x.cover r)

/-- Pairs entered in order. -/
def addRngs (n : Nat) (l rs : List Rng) : List Rng := rs.foldl (addRng n) l

/-- The union of two sets of pairs, of at most `n`. -/
def joinRngs (n : Nat) (l rs : List Rng) : List Rng := rs.foldl (fun l r => if l.contains r then l else addRng n l r) l

/-- A pair of a release record entered among at most `n`; it merges into the last where these are all taken (R175). -/
def addRel (n : Nat) (l : List RelPair) (p : RelPair) : List RelPair :=
  if l.any (fun x => x.rng == p.rng) then mapIf (fun x => x.rng == p.rng) (fun x => { x with dies := x.dies ||| p.dies }) l
  else if l.length < n then l ++ [p]
  else modifyAt l (n - 1) (fun x => ⟨x.dies ||| p.dies, x.rng.cover p.rng⟩)

/-- Pairs of release records entered in order. -/
def addRels (n : Nat) (l ps : List RelPair) : List RelPair := ps.foldl (addRel n) l

/-- The union of what two arcs carry: a release collects up to 8 pairs (R175, R309). -/
def Arcs.join (a b : Arcs) : Arcs :=
  { writes := joinRngs 8 a.writes b.writes
    back := addRels 64 a.back b.back
    fences := a.fences ++ b.fences.filter (fun x => !a.fences.contains x) }

/-! ## Payloads (R21, R408) -/

/-- A 64-bit value in a vector token: lane 0 its low 40 bits, lane 1 bits [23:0] the rest (R408). -/
def wordVec (w : Word) : Vec :=
  Vec.build (fun n => if n = 0 then w.setWidth 40 else if n = 1 then (w >>> 40).setWidth 40 else 0)

/-- The 64-bit value that a vector token carries in the layout of R408. -/
def vecWord (x : Vec) : Word := ((x.lane 1).extractLsb' 0 24 ++ x.lane 0 : BitVec 64)

/-- A payload read as a scalar. -/
def Payload.word : Payload → Word
  | .s w => w
  | .v x => vecWord x

/-- A payload read as a vector; a scalar gives every lane its low 40 bits (R79). -/
def Payload.vec : Payload → Vec
  | .s w => Vec.all (w.setWidth 40)
  | .v x => x

/-- A 64-bit value as a payload of the kind of a queue or port (R408). -/
def kindPay (vector : Bool) (w : Word) : Payload := if vector then .v (wordVec w) else .s w

/-- The 80 bytes of a vector, lane L in bytes 5L to 5L + 4 (R124). -/
def vecBytes (x : Vec) : List Byte := (List.range 16).flatMap (fun n => leBytes 5 (x.lane n).toNat)

/-- A vector from 80 bytes. -/
def bytesVec (bs : List Byte) : Vec := Vec.build (fun n => BitVec.ofNat 40 (leNat ((bs.drop (5 * n)).take 5)))

/-- The bytes of a payload as a store writes them: 8 or 80. -/
def Payload.bytes : Payload → List Byte
  | .s w => leBytes 8 w.toNat
  | .v x => vecBytes x

/-- Bit 63 of a program's fault/control token is forced to 0 (R21). -/
def Payload.clear63 : Payload → Payload
  | .s w => .s (w &&& 0x7FFFFFFFFFFFFFFF)
  | .v x => .v (x.set 1 (x.lane 1 &&& 0xFFFF7FFFFF) (by decide))

/-! ## Queues and ports -/

/-- The head token of an input queue. -/
def Tile.head (t : Tile) (q : Fin 4) : Option Token := (t.iq.get q).head?

/-- The state with the tokens of an input queue changed. -/
def Tile.setIq (t : Tile) (q : Fin 4) (xs : List Token) : Tile := { t with iq := t.iq.set q.val xs q.isLt }

/-- The state with the slots of an output port changed. -/
def Tile.setOp (t : Tile) (q : Fin 4) (xs : List OutSlot) : Tile := { t with op := t.op.set q.val xs q.isLt }

/-- The free slots of an output port of two (R17); reserved slots count as taken (R334). -/
def Tile.room (t : Tile) (q : Fin 4) : Nat := 2 - (t.op.get q).length

/-- The replies still owed to a queue of a tile. -/
def State.owed (s : State) (t : Nat) (q : Fin 4) : Nat :=
  (s.reqs.filter (fun r => r.tile == t && r.q == some q)).length

/-- A token appended to an input queue of 4 (R17). -/
def State.enqueue (s : State) (t : Nat) (q : Fin 4) (k : Token) : State :=
  s.modTile t (fun x => x.setIq q (x.iq.get q ++ [k]))

/-- The head token of an input queue removed. -/
def State.dequeue (s : State) (t : Nat) (q : Fin 4) : State :=
  s.modTile t (fun x => x.setIq q (x.iq.get q).tail)

/-- A token placed in an output port. -/
def State.putPort (s : State) (t : Nat) (q : Fin 4) (k : Token) : State :=
  s.modTile t (fun x => x.setOp q (x.op.get q ++ [.full k none s.cycle]))

/-! ## Faults (R208 to R212) -/

/-- Fault kinds (R208). -/
def kConfig : Nat := 1
/-- FormatMismatch. -/
def kFormat : Nat := 2
/-- JointMismatch. -/
def kJoint : Nat := 3
/-- TranslationFault. -/
def kTrans : Nat := 4
/-- ProtectionFault. -/
def kProt : Nat := 5
/-- RegisterBacking. -/
def kBacking : Nat := 6
/-- AtomicPath. -/
def kAtomic : Nat := 7
/-- ChannelOverflow. -/
def kChannel : Nat := 8
/-- HandleInvalid. -/
def kHandle : Nat := 9
/-- PlanTableFull. -/
def kTableFull : Nat := 10
/-- DrainTimeout. -/
def kDrain : Nat := 11
/-- TrapInstruction. -/
def kTrap : Nat := 12
/-- MachineCheck. -/
def kMachine : Nat := 13

/-- What a fault is: its kind, its cause, the 64-bit detail of its record (R209, R210). -/
structure FaultInfo where
  kind : Nat
  cause : Nat
  detail : Word
deriving DecidableEq, Repr

/-- The detail of a ConfigIllegal raised at run time: CAUSE, WHAT 10, tile fields zero (R210). -/
def cfgDetail (cause : Nat) : Word := BitVec.ofNat 64 (cause + 10 * 256)

/-- A ConfigIllegal of an instruction operand or a request token (R210). -/
def cfgFault (cause : Nat) : FaultInfo := ⟨kConfig, cause, cfgDetail cause⟩

/-- The payload of a fault token (R209). -/
def faultWord (f : FaultInfo) (fx fy ctx slot : Nat) (src : Bool) (frec : Nat) : Word :=
  BitVec.ofNat 64 (2 ^ 63 + f.kind % 128 * 2 ^ 56 + fx % 64 * 2 ^ 50 + fy % 32 * 2 ^ 45 + ctx % 4 * 2 ^ 43 + slot % 32 * 2 ^ 38
    + src.toNat * 2 ^ 37 + f.cause % 16 * 2 ^ 33 + frec % 16 * 2 ^ 29)

/-- The lowest free fault record entry of a region (R210). -/
def Region.freeRec (r : Region) : Option Nat := (List.range 16).find? (fun n => (Vector.at r.frec n).isNone)

/-- A packet ends: this completion record is to be written (R213). A fault stops the queue at once where STOPF is set (R199). -/
def State.endPacket (s : State) (p : Nat) (r : Record) : State :=
  let s := match s.packet? p with
    | some k => if r.status != 0 && bit (k.word 0) 9 then s.modQueue k.queue (fun x => { x with faulted := true }) else s
    | none => s
  (s.modPacket p (fun x => { x with st := .ended r, due := s.after 0 })).tick

/-- The low 64 bits of the completion word of a launched task: STATUS, KIND, ALT, REGION, VERSION, ABORTS (R213). -/
def recordWord (status kind : Nat) (alt : Bool) (region : Nat) (ver : BitVec 16) (aborts : Nat) : Word :=
  BitVec.ofNat 64 (status % 256 + kind % 128 * 256 + alt.toNat * 2 ^ 15 + region % 4096 * 2 ^ 16 + ver.toNat * 2 ^ 28
    + min aborts 255 * 2 ^ 44)

/-- The disabled slot word (R87). -/
def disabledWord : BitVec 32 := 0xE4080000

/-- The entries of a slot table that name one of some contexts (R90). -/
def entriesOf (table : BitVec 48) (cs : List Nat) : BitVec 16 :=
  (List.range 16).foldl (fun m n => if cs.any (fun c => bits table.toNat (3 * n + 2) (3 * n) == 4 + c) then m ||| (1 <<< n) else m) 0

/-- A slot table with some entries naming a context. -/
def fillEntries (table : BitVec 48) (ents : BitVec 16) (c : Nat) : BitVec 48 :=
  (List.range 16).foldl (fun (t : BitVec 48) n =>
    if ents.getLsbD n then (t &&& ~~~ ((7 : BitVec 48) <<< (3 * n))) ||| ((BitVec.ofNat 48 (4 + c)) <<< (3 * n)) else t) table

/-- What an instance leaves behind of an element that others share: its slots are disabled, its contexts gone, its slot-table entries
free; free entries name the lowest context of the instance placed first (R205). -/
def Elem.leave (e : Elem) (x : Share) (first : Option Nat) : Elem :=
  let gone := (List.range 4).filter (fun c => (Vector.at (n := 3) e.ctx c).region == x.region)
  let mine (r : Nat × Nat) : Bool := gone.contains r.1
  let free := e.freeEnts ||| entriesOf e.table gone
  let low := match first with
    | none => none
    | some r => (List.range 4).find? (fun c => (Vector.at (n := 3) e.ctx c).region == r && (Vector.at (n := 3) e.ctx c).st != .absent)
  { e with
    slots := Vector.ofFn (fun n => if x.slots.getLsbD n.val then disabledWord else e.slots.get n)
    sides := Vector.ofFn (fun n => if x.slots.getLsbD n.val then 0 else e.sides.get n)
    counts := Vector.ofFn (fun n => if x.slots.getLsbD n.val then 0 else e.counts.get n)
    ctx := Vector.ofFn (fun c => if gone.contains c.val then { e.ctx.get c with st := .absent } else e.ctx.get c)
    resident := e.resident.filter (fun r => !mine r)
    spilled := e.spilled.filter (fun r => !mine r)
    moves := e.moves.filter (fun m => !mine m.want)
    freeEnts := free
    pendTable := match low with | none => e.pendTable | some c => some (fillEntries (e.pendTable.getD e.table) free c) }

/-- An instance leaves a tile that others share. -/
def Tile.leave (t : Tile) (region : Nat) : Tile :=
  match t.shared.find? (fun x => x.region == region) with
  | none => t
  | some x =>
    let rest := t.shared.filter (fun y => y.region != region)
    { t with
      region := (rest.head?.map Share.region).getD t.region
      leaf := (rest.head?.map Share.leaf).getD t.leaf
      iq := Vector.ofFn (fun q => if x.iq.getLsbD q.val then [] else t.iq.get q)
      op := Vector.ofFn (fun q => if x.op.getLsbD q.val then [] else t.op.get q)
      routes := Vector.ofFn (fun c => if x.cls.getLsbD c.val then 0 else t.routes.get c)
      ext := t.ext.filter (fun e => !x.cls.getLsbD e.1)
      elem := t.elem.map (fun e => e.leave x (rest.head?.map Share.region))
      shared := rest }

/-- A region has a part of a tile. -/
def Tile.has (t : Tile) (region : Nat) : Bool := t.region == region || t.shared.any (fun x => x.region == region)

/-- A tile without a region's part: nothing if no other has a part. -/
def Tile.without (t : Tile) (region : Nat) : Option Tile :=
  if t.shared.any (fun x => x.region != region) then some (t.leave region) else if t.region = region then none else some t

/-- The instance and the leaf that a class of a tile belongs to. -/
def Tile.classOwner (t : Tile) (c : Nat) : Nat × Nat :=
  match t.shared.find? (fun x => x.cls.getLsbD c) with
  | some x => (x.region, x.leaf)
  | none => (t.region, t.leaf)

/-- The region that sends through port `q` of a tile. -/
def Tile.sender (t : Tile) (q : Nat) : Nat :=
  match t.shared.find? (fun x => x.op.getLsbD q) with
  | some x => x.region
  | none => t.region

/-- The tiles of a region's rectangle. -/
def Region.tilesOf (r : Region) (s : State) : SMap Tile := s.tiles.filter (fun e => r.holds e.1 && e.2.has r.num)

/-- A request to a port tile, which completes although its region has retired or stopped (R39, R212). -/
def toPort (i : Instr) : Bool :=
  match i with
  | .ldg _ _ _ | .ldw _ _ _ _ | .hinfo _ _ _ | .stg _ _ _ _ | .aadd _ _ _ _ | .afadd _ _ _ _ | .amin _ _ _ _ | .amax _ _ _ _ | .aand _ _ _ _ | .aor _ _ _ _ | .axor _ _ _ _
  | .aswp _ _ _ _ | .acas _ _ _ _ | .hnew _ _ _ _ _ | .hdup _ _ _ | .hrel _ _ _ | .hupg _ _ _ _ | .hprio _ _ _ _ => true
  | _ => false

/-- What becomes of a request of a region that is gone: one that has been sent to a port tile completes, and its reply is discarded. -/
def Req.orphan (q : Req) (r : Region) : Option Req :=
  if q.region != r.num then some q
  else if toPort q.op && q.st == .sent then some { q with q := none, pred := none }
  else none

/-- The region occupies its rectangle; one that is stopped there does until its elements have halted and its requests are complete. -/
def Region.placed (r : Region) : Bool :=
  r.phase == .armed || r.phase == .halting || r.phase == .retiring || (r.phase == .stopped && r.save.isNone)

/-- The region takes no more faults: it has stopped or ended. -/
def Region.ended (r : Region) : Bool := r.phase == .stopped || r.phase == .writeBack || r.phase == .done

/-- A packet that a region has sent and that is not bound for a tile outside it. -/
def State.ownFlight (s : State) (r : Region) (f : Flight) : Bool :=
  r.holds (f.src / 4)
    && (match s.tile? (f.src / 4) with | none => true | some t => t.sender (f.src % 4) == r.num)
    && (match f.route with | .table _ => true | .dest d => r.holds d.tile)

/-- The region that a queue of a tile belongs to. -/
def Tile.receiver (t : Tile) (q : Nat) : Nat :=
  match t.shared.find? (fun x => x.iq.getLsbD q) with
  | some x => x.region
  | none => t.region

/-- A packet from outside that is bound for a tile of a region. -/
def State.inbound (s : State) (r : Region) (f : Flight) : Bool :=
  match f.route with
  | .table _ => false
  | .dest d => r.holds d.tile && !r.holds (f.src / 4)
      && (match s.tile? d.tile with | none => true | some t => t.receiver d.q.val == r.num)

/-- A region's tiles and packets are taken out of the die. -/
def State.dropRect (s : State) (r : Region) : State :=
  { s with
    tiles := s.tiles.filterMap (fun (n, t) => if r.holds n then (t.without r.num).map (fun x => (n, x)) else some (n, t))
    flights := s.flights.filter (fun f => !(s.ownFlight r f || s.inbound r f))
    sram := s.sram.filter (fun e => !r.holds (e.1 / 2 ^ 19))
    full := s.full.filter (fun e => !r.holds (e.1 / 2 ^ 15)) }

/-- A region's tiles, packets and requests are discarded and its rectangle is free (R39, R212). The replies of requests that have been
sent are discarded; requests that a queue still waits for are dropped. -/
def State.freeRect (s : State) (r : Region) : State :=
  let s := if r.placed then s.dropRect r else s
  { s with
    faultToks := s.faultToks.filter (fun f => f.region != r.num)
    reqs := s.reqs.filterMap (fun q => q.orphan r) }

/-- The pending versions and buffered atomics of a task are discarded and its logs emptied (R168, R212). -/
def State.discardTask (s : State) (t : Nat) : State :=
  State.modTask { s with pend := s.pend.filter (fun p => p.task != t) } t (fun x => { x with atomics := [], wr := [], rd := [], rels := [], frees := [] })

/-- What the end of a region leaves to be done for the launch that placed it: the packet's record and the reply of a PLAUNCH
(R213, R350). -/
def State.launchEnded (s : State) (r : Region) (status kind : Nat) (d0 d1 : Word) : State :=
  match s.launches.find? (fun l => l.id == r.launch) with
  | none => s
  | some l =>
    let ab := ((s.task? r.task).map Task.aborts).getD 0
    let ts : Word := match (s.task? r.task).bind Task.key with
      | some k => BitVec.ofNat 64 k.1
      | none => r.hdr.ts
    let s1 : State := match l.pkt with
      | some p => s.endPacket p ⟨status, kind, r.alt, r.num, r.ver, ab, ts, d0, d1, r.armedAt, r.endedAt, r.die, r.x0, r.y0⟩
      | none => s
    let w := recordWord status kind r.alt r.num r.ver ab
    let s2 : State := match l.req with
      | some q => (s1.modReq q (fun x => { x with st := .done (Reply.mk (.s w) false none {}), due := s1.after 1 })).tick
      | none => s1
    { s2 with launches := s2.launches.filter (fun x => x.id != l.id) }

/-- The halt reaches the elements of a region so that all are at a boundary within 472 cycles (R207). -/
def State.haltElems (s : State) (r : Region) : State :=
  let c := s.within 376
  let halt (t : Tile) : Tile := if t.has r.num then { t with elem := t.elem.map (fun e => { e with haltAt := some (e.haltAt.getD c) }) } else t
  State.tick { s with tiles := s.tiles.map (fun (k, t) => (k, if r.holds k then halt t else t)) }

/-- A region whose elements are to halt: for a checkpoint, or because it has stopped. -/
def Region.halts (r : Region) : Bool := r.phase == .halting || r.phase == .stopped

/-- The elements that a region leaves behind in its rectangle run on, but for those that another region's halt has reached. -/
def State.unhalt (s : State) (r : Region) : State :=
  let stays (t : Tile) : Bool := t.shared.any (fun x => x.region != r.num && ((s.region? x.region).map Region.halts).getD false)
  let un (t : Tile) : Tile := if stays t then t else { t with elem := t.elem.map (fun e => { e with haltAt := none }) }
  { s with tiles := s.tiles.map (fun (k, t) => (k, if r.holds k then un t else t)) }

/-- A region without a fault port, or without a free record entry, stops (R212): its elements halt as in R207, an ordered task's pending versions are
discarded, its logs emptied, and it counts as committed with no writes. The rest, the record among it, is done once the elements stand at a
boundary and what the region has sent to port tiles is complete (`execRegionRetire`). A checkpointed region has no rectangle to give up. -/
def State.stopRegion (s : State) (n : Nat) (f : FaultInfo) (tok : Word) : State :=
  match s.region? n with
  | none => s
  | some r =>
    if r.ended then s else
    let r' := { r with
      phase := .stopped, stopKind := f.kind, stopTok := tok, stopDet := f.detail, endedAt := s.cycle
      wlog := if r.hdr.ordered then [] else r.wlog
      rlog := if r.hdr.ordered then [] else r.rlog
      pairs := if r.hdr.ordered then [] else r.pairs }
    let s := State.haltElems { s with regions := SMap.put s.regions n r' } r
    (s.discardTask r.task).modTask r.task (fun t => { t with complete := true })

/-- The fault port of a leaf: the tile and the queue that the image binds to it (R45, R47, R211). -/
def Region.faultPort (r : Region) (leaf : Nat) : Option (Nat × Fin 4) :=
  match r.plan.leaves[leaf]? with
  | none => none
  | some l =>
    if l.hdr.faultp then
      match l.ports[l.hdr.faultPort]? with
      | none => none
      | some e =>
        let n := e.toNat
        some (tileNo r.die (r.x0 + l.ox + bits n 225 220) (r.y0 + l.oy + bits n 230 226), ⟨bits n 232 231 % 4, Nat.mod_lt _ (by decide)⟩)
    else none

/-- TAKING A FAULT (R209 to R212): the lowest free record entry takes the detail, the fault token goes to the fault port of the leaf that
holds the tile; without a port or an entry the region stops. `froze` names the context that the fault froze. -/
def State.raiseFault (s : State) (n leaf tile : Nat) (ctx slot : Nat) (src : Bool) (f : FaultInfo) (froze : Option (Nat × Fin 4)) : State :=
  match s.region? n with
  | none => s
  | some r =>
    if r.ended then s else
    let (fx, fy) := r.rel leaf tile
    match r.freeRec, r.faultPort leaf with
    | some e, some (pt, pq) =>
      let w := faultWord f fx fy ctx slot src e
      let s := s.modRegion n (fun x => { x with frec := Vector.upd x.frec e (some f.detail), faulted := x.faulted.or (some (f.kind, w, f.detail)) })
      let due := max (s.within 63) ((s.faultToks.filter (fun x => x.region == n && x.tile == pt && x.q == pq)).foldl (fun m x => max m x.due) 0)
      let ft : FaultTok := ⟨s.nextId, n, pt, pq, w, due, froze⟩
      (State.fresh { s with faultToks := s.faultToks ++ [ft] }).tick
    | some e, none => s.stopRegion n f (faultWord f fx fy ctx slot src e)
    | none, _ => s.stopRegion n f (faultWord f fx fy ctx slot src 0)

/-- A fault of a firing (R209): its context freezes; nothing is written, sent or dequeued (R85). -/
def State.faultFiring (s : State) (c : Ctx) (site : Site) (f : FaultInfo) : State :=
  (s.modCtx site.tile site.ctx (fun x => { x with st := .frozen false })).raiseFault c.region c.leaf site.tile site.ctx.val site.slot.val
    false f (some (site.tile, site.ctx))

/-- A fault of an address generator or of a memory tile's queue (R209): the stream stops. -/
def State.faultStream (s : State) (tile : Nat) (g : Fin 4) (f : FaultInfo) : State :=
  match s.tile? tile with
  | none => s
  | some t => (s.dropAbsent.modGen tile g (fun x => { x with st := .stopped })).raiseFault t.region t.leaf tile g.val 0 true f none

/-- A fault that a request returns in its reply queue (R156, R209): the record entry is taken, the context is not frozen. Without a free
entry the region stops (R210). -/
def State.replyFault (s : State) (q : Req) (f : FaultInfo) : State :=
  match q.q with
  | none =>
    if ((s.region? q.region).map Region.ended).getD true then s.dropReq q.id
    else ((s.dropReq q.id).modCtx q.tile q.ctx (fun x => { x with st := .frozen false })).raiseFault q.region q.leaf q.tile q.ctx.val q.slot.val
      false f (some (q.tile, q.ctx))
  | some _ =>
    match s.region? q.region with
    | none => s.dropReq q.id
    | some r =>
      let (fx, fy) := r.rel q.leaf q.tile
      match r.freeRec with
      | none => (s.dropReq q.id).stopRegion q.region f (faultWord f fx fy q.ctx.val q.slot.val false 0)
      | some e =>
        let w := faultWord f fx fy q.ctx.val q.slot.val false e
        let s := s.modRegion q.region (fun x => { x with frec := Vector.upd x.frec e (some f.detail) })
        s.modReq q.id (fun x => { x with st := .done ⟨.s w, true, none, {}⟩ })

/-- A request is answered with data: the payload, the predicate's value, what the arcs bring back, and the cycle of its return. -/
def State.answer (s : State) (q : Nat) (p : Payload) (pred : Option Bool) (back : Arcs) (due : Nat) : State :=
  match s.req? q with
  | none => s
  | some r =>
    if r.q.isNone then s.dropReq q
    else s.modReq q (fun x => { x with st := .done ⟨p, false, pred, back.join x.arcs⟩, due := due })

/-! ## Where a packet goes from a router (R24, R25, R409) -/

/-- The class bound to an output port. -/
def Tile.classOf (t : Tile) (q : Fin 4) : Fin 16 := ⟨bits t.opClass.toNat (4 * q.val + 3) (4 * q.val) % 16, Nat.mod_lt _ (by decide)⟩

/-- A route entry of a tile as a number. -/
def Tile.routeWord (t : Tile) (c : Fin 16) : Nat := (t.routes.get c).toNat

/-- A tile is one of a leaf of a region. -/
def Tile.ofLeaf (t : Tile) (o : Nat × Nat) : Bool := (t.region == o.1 && t.leaf == o.2) || t.shared.any (fun x => x.region == o.1 && x.leaf == o.2)

/-- The direction of the next hop towards a tile (R25): to the boundary of each die, then along the row, then along the column. -/
def hopTo (x d : Nat) : Fin 4 :=
  let a := tileDie x
  let b := tileDie d
  if a % 2 < b % 2 then 1 else if b % 2 < a % 2 then 3
  else if a / 2 < b / 2 then 2 else if b / 2 < a / 2 then 0
  else if tileX x < tileX d then 1 else if tileX d < tileX x then 3
  else if tileY x < tileY d then 2 else 0

/-- The branch of a packet routed by destination at a router. -/
def destBranch (x : Nat) (d : Dest) : Branch :=
  if x = d.tile then (match d.reg with | some i => .gat i | none => .loc d.q) else .dir (hopTo x d.tile)

/-- The branches that an entry with EXT = 0 names. -/
def tableBranches (w : Nat) : List Branch :=
  (([0, 1, 2, 3] : List (Fin 4)).filter (fun d => bit w d.val)).map Branch.dir
    ++ (if bit w 4 then [.loc ⟨bits w 7 6 % 4, Nat.mod_lt _ (by decide)⟩] else [])
    ++ (if bit w 5 then [.home ⟨bits w 9 8 % 4, Nat.mod_lt _ (by decide)⟩] else [])

/-- What a router makes of a packet: how it is routed from here and its branches; nothing while a link has no partner. -/
def State.turn (s : State) (x : Nat) (r : Route) : Option (Route × List Branch) :=
  match r with
  | .dest d => some (r, [destBranch x d])
  | .table c =>
    match s.tile? x with
    | none => some (r, [])
    | some t =>
      if bit (t.routeWord c) 10 then
        match SMap.find? t.ext c.val with
        | some (.to d) => some (.dest d, [destBranch x d])
        | some .wait => none
        | some .drop | none => some (r, [])
      else some (r, tableBranches (t.routeWord c))

end Sys2Proof.Machine
end

