-- ==== Sys2Proof/Machine/Trace.lean ====
section
/-!
DEFINITION. Home ports and watchpoints (R9, R132, R239, R264, R265); the trace ring and its records (R259 to R262): hop logs of sampled tokens, and
the ring that every record enters.
-/
namespace Sys2Proof.Machine

/-! ## Home ports and watchpoints (R9, R132, R239, R264, R265) -/

/-- Host memory through CXL.cache and through CXL.io (R239). -/
def hostPkg : Nat := 0x3FF
/-- Host space reached uncached. -/
def ioPkg : Nat := 0x3FE

/-- The key under which a byte is held: the host's memory is one, whichever of its two package numbers names it (R239). -/
def memKey (k : Nat) : Nat := if k / 2 ^ 40 = ioPkg + 1 then k + 2 ^ 40 else k

/-- Uncached host space (R239). -/
def isIo (k : Nat) : Bool := k / 2 ^ 40 == ioPkg + 1

/-- The host's memory, by either of its two numbers (R239). -/
def isHost (k : Nat) : Bool := k / 2 ^ 40 == hostPkg + 1 || isIo k

/-- The home port of a line on a die (R132). -/
def State.homePort (s : State) (die k : Nat) : Nat :=
  let g := 8 + bits s.regs.portmap.toNat (4 * die + 3) (4 * die)
  s.goodPort die
    (if k < 2 ^ 40 && Config.homeDie (k / 256) % 4 == die then Config.channelPort (k / 256) % 32
    else ((bits k 19 14 ^^^ bits k 13 8) + bits k (g + 4) g) % 32)

/-- The die that is home to a byte of the package's own memory. -/
def homeDie (k : Nat) : Option Nat := if k < 2 ^ 40 then some (Config.homeDie (k / 256) % 4) else none

/-- The sectors that `n` bytes at `a` touch. -/
def sectorsOf (a n : Nat) : List Nat := if n = 0 then [] else (List.range ((a + n - 1) / 64 + 1 - a / 64)).map (fun i => a / 64 + i)

/-- The lines that `n` bytes at `a` touch. -/
def linesOf (a n : Nat) : List Nat := if n = 0 then [] else (List.range ((a + n - 1) / 256 + 1 - a / 256)).map (fun i => a / 256 + i)

/-- A watchpoint matches an access to a sector: kind 0 read, 1 write, 2 atomic (R264). -/
def watchHits (x : BitVec 64) (kind sec : Nat) : Bool := let n := x.toNat; bit n 53 && bit n (50 + kind) && domKey (bits n 49 6 * 64) / 64 == sec

/-- An access is compared with the watchpoints of the port caches; the matches of the cycle are noted (R264, R265). -/
def State.watch (s : State) (die k n kind cls : Nat) : State :=
  if (List.finRange 4).any (fun w => (s.dbg.watch.get w).getLsbD 53) then
    (sectorsOf k n).foldl (fun s sec =>
      (List.finRange 4).foldl (fun (s : State) (w : Fin 4) =>
        if watchHits (s.dbg.watch.get w) kind sec then
          let i : Instr := .watchpointRecord w (BitVec.ofNat 4 cls) ⟨die % 4, Nat.mod_lt _ (by decide)⟩ (BitVec.ofNat 2 kind) sec
          { s with watched := s.watched ++ [(portNo die (s.homePort die (sec * 64)) * 4 + w.val, i)] }
        else s) s) s
  else s

/-- An access of the front end, the Nickel core, Pewter or a page walk, at the home port of its home die: system traffic (R265). -/
def State.watchSys (s : State) (k n kind : Nat) : State := s.watch ((homeDie k).getD 0) k n kind 4

/-! ## The ring -/

/-- A record of 128 bytes enters the ring, or is dropped when the ring is full; TRBASE 0 disables tracing (R259). -/
def State.traceRecord (s : State) (rec : Nat) : State :=
  if s.dbg.trbase = 0 then s
  else
    let size := 2 ^ s.dbg.trsize.toNat
    if s.dbg.trhead.toNat + 1 - s.dbg.trtail.toNat > size then
      { s with dbg := { s.dbg with trdrop := if s.dbg.trdrop = BitVec.allOnes 64 then s.dbg.trdrop else s.dbg.trdrop + 1 } }
    else
      let k := domKey (s.dbg.trbase.toNat + 128 * (s.dbg.trhead.toNat % size))
      State.watchSys { s with hbm := writeBytes s.hbm (memKey k) (leBytes 128 rec), dbg := { s.dbg with trhead := s.dbg.trhead + 1 } } k 128 1

/-- A log takes the arrival at a tile; of more than 14 hops the later are not logged (R261). -/
def TraceLog.arrive (l : TraceLog) (tile now : Nat) : TraceLog :=
  let h : HopLog := ⟨tile, now - l.birth, now - l.birth⟩
  if l.hops.length < 14 then { l with hops := l.hops ++ [h] } else { l with trunc := true }

/-- The log of a token that leaves the tile of its last hop (R261). -/
def TraceLog.depart (l : TraceLog) (now : Nat) : TraceLog :=
  if l.trunc then l else { l with hops := modifyAt l.hops (l.hops.length - 1) (fun h => { h with dep := now - l.birth }) }

/-- A token arrives at a tile. -/
def Token.arrive (k : Token) (tile now : Nat) : Token := { k with log := k.log.map (fun l => l.arrive tile now) }

/-- A token leaves a tile. -/
def Token.depart (k : Token) (now : Nat) : Token := { k with log := k.log.map (fun l => l.depart now) }

/-- The log of a token that a firing writes when it is sampled: hop 0 is the birth element (R260, R261). -/
def birthLog (tile now : Nat) : TraceLog := { birth := now, hops := [⟨tile, 0, 0⟩], trunc := false }

/-- One hop of a record. -/
def HopLog.word (h : HopLog) (base : Nat) : Nat :=
  (tileX h.tile - tileX base) % 64 + (tileY h.tile - tileY base) % 32 * 2 ^ 6 + (isMemCol (tileX h.tile)).toNat * 2 ^ 11
    + min h.arr 0x1FFFFFF * 2 ^ 12 + min h.dep 0x1FFFFFF * 2 ^ 37

/-- A token's log is written at its sink, or with DISC at retirement (R261). -/
def State.sinkLog (s : State) (region : Nat) (k : Token) (disc : Bool) : State :=
  match k.log, s.region? region with
  | some l, some r =>
    let l := l.depart s.cycle
    let head := 1 + r.num % 4096 * 2 ^ 4 + r.ver.toNat * 2 ^ 16 + l.hops.length * 2 ^ 32 + disc.toNat * 2 ^ 36 + l.trunc.toNat * 2 ^ 37
      + k.tag.toNat * 2 ^ 38 + l.birth % 2 ^ 64 * 2 ^ 64
    s.traceRecord (head + 2 ^ 128 * (l.hops.foldr (fun h acc => h.word r.base + 2 ^ 64 * acc) 0))
  | _, _ => s

end Sys2Proof.Machine
end

