-- ==== Sys2Proof/Machine/Operands.lean ====
section
/-!
DEFINITION. The operand forms of slot instructions (R79, R84): what a slot names, how sources are read and destinations written, the
triggers (R81 to R83). `Env` is what a firing has before it acts.
-/
namespace Sys2Proof.Machine

/-- What a slot names: its trigger, the queues that it dequeues (with the number of tokens), the queues that it peeks at, its vector
registers, the port it writes, the queue of its reply and the predicate written with the reply. -/
structure Shape where
  trig : Trig := .never
  takes : List (Fin 4 × Nat) := []
  peeks : List (Fin 4) := []
  vregs : List (Fin 32) := []
  port : Option (Fin 4) := none
  reply : Option (Fin 4) := none
  pred : Option (Fin 8) := none
deriving DecidableEq, Repr

end Sys2Proof.Machine

namespace Sys2Proof
open Sys2Proof.Machine

/-- A scalar source as any source. -/
def SSrc.any : SSrc → ASrc
  | .s n => .s n
  | .i q => .i q
  | .ik q => .ik q
  | .c n => .c n

/-- A vector source as any source. -/
def VSrc.any : VSrc → ASrc
  | .v n => .v n
  | .i q => .i q
  | .ik q => .ik q
  | .c n => .c n

/-- A scalar destination as any destination. -/
def SDst.any : SDst → ADst
  | .s n => .s n
  | .o q => .o q
  | .oe q => .oe q
  | .nul => .nul

/-- A vector destination as any destination. -/
def VDst.any : VDst → ADst
  | .v n => .v n
  | .o q => .o q
  | .oe q => .oe q
  | .nul => .nul

/-- The reply queue of a request. -/
def RDst.queue : RDst → Option (Fin 4)
  | .i q => some q
  | .nul => none

/-- The queue that a source dequeues. -/
def ASrc.takes : ASrc → List (Fin 4)
  | .i q => [q]
  | .s _ | .v _ | .ik _ | .c _ => []

/-- The queue that a source peeks at. -/
def ASrc.peeks : ASrc → List (Fin 4)
  | .ik q => [q]
  | .s _ | .v _ | .i _ | .c _ => []

/-- The vector register of a source. -/
def ASrc.vregs : ASrc → List (Fin 32)
  | .v n => [n]
  | .s _ | .i _ | .ik _ | .c _ => []

/-- The port that a destination writes. -/
def ADst.port : ADst → Option (Fin 4)
  | .o q => some q
  | .oe q => some q
  | .s _ | .v _ | .nul => none

/-- The vector register of a destination. -/
def ADst.vregs : ADst → List (Fin 32)
  | .v n => [n]
  | .s _ | .o _ | .oe _ | .nul => []

/-- The shape of operands; one queue named more than once is dequeued once (R23). -/
def shapeOf (t : Trig) (srcs : List ASrc) (d : ADst) (reply : Option (Fin 4)) (pred : Option (Fin 8)) : Shape where
  trig := t
  takes := (srcs.flatMap ASrc.takes).eraseDups.map (fun q => (q, 1))
  peeks := srcs.flatMap ASrc.peeks
  vregs := (srcs.flatMap ASrc.vregs ++ d.vregs).eraseDups
  port := d.port
  reply := reply
  pred := pred

/-- The shape of SEL (R367). -/
def selShape (t : Trig) (o : SelOp) : Shape :=
  match o with
  | .s _ a => shapeOf t [a.any] .nul none none
  | .v d a => shapeOf t [a.any] (.v d) none none

/-- What each instruction names; the events name nothing. -/
def Instr.shape (i : Instr) : Shape :=
  match i with
  | .nop t => shapeOf t [] .nul none none
  | .halt t => shapeOf t [] .nul none none
  | .trap t => shapeOf t [] .nul none none
  | .tmark t => shapeOf t [] .nul none none
  | .rdsr t d _ => shapeOf t [] d.any none none
  | .wrsr t a => shapeOf t [a.any] .nul none none
  | .movi t _ _ => shapeOf t [] .nul none none
  | .movhi t _ _ => shapeOf t [] .nul none none
  | .sel t o _ _ => selShape t o
  | .wfld t d _ => shapeOf t [] d.any none none
  | .add t d a b => shapeOf t [a.any, b.any] d.any none none
  | .addi t _ _ => shapeOf t [] .nul none none
  | .sub t d a b => shapeOf t [a.any, b.any] d.any none none
  | .mul t d a b => shapeOf t [a.any, b.any] d.any none none
  | .mulh t d a b => shapeOf t [a.any, b.any] d.any none none
  | .mulhu t d a b => shapeOf t [a.any, b.any] d.any none none
  | .div t d a b => shapeOf t [a.any, b.any] d.any none none
  | .divu t d a b => shapeOf t [a.any, b.any] d.any none none
  | .rem t d a b => shapeOf t [a.any, b.any] d.any none none
  | .remu t d a b => shapeOf t [a.any, b.any] d.any none none
  | .and t d a b => shapeOf t [a.any, b.any] d.any none none
  | .andi t _ _ => shapeOf t [] .nul none none
  | .or t d a b => shapeOf t [a.any, b.any] d.any none none
  | .ori t _ _ => shapeOf t [] .nul none none
  | .xor t d a b => shapeOf t [a.any, b.any] d.any none none
  | .xori t _ _ => shapeOf t [] .nul none none
  | .shl t d a b => shapeOf t [a.any, b.any] d.any none none
  | .shli t _ _ => shapeOf t [] .nul none none
  | .shr t d a b => shapeOf t [a.any, b.any] d.any none none
  | .shri t _ _ => shapeOf t [] .nul none none
  | .sar t d a b => shapeOf t [a.any, b.any] d.any none none
  | .sari t _ _ => shapeOf t [] .nul none none
  | .min t d a b => shapeOf t [a.any, b.any] d.any none none
  | .minu t d a b => shapeOf t [a.any, b.any] d.any none none
  | .max t d a b => shapeOf t [a.any, b.any] d.any none none
  | .maxu t d a b => shapeOf t [a.any, b.any] d.any none none
  | .clz t d a => shapeOf t [a.any] d.any none none
  | .popc t d a => shapeOf t [a.any] d.any none none
  | .bfx t d a b => shapeOf t [a.any, b.any] d.any none none
  | .bfi t _ a b => shapeOf t [a.any, b.any] .nul none none
  | .cmp t _ _ a b _ => shapeOf t [a.any, b.any] .nul none none
  | .cmpi t _ _ a _ _ => shapeOf t [a.any] .nul none none
  | .plog t _ _ _ _ _ => shapeOf t [] .nul none none
  | .vadd t d a b => shapeOf t [a.any, b.any] d.any none none
  | .vsub t d a b => shapeOf t [a.any, b.any] d.any none none
  | .vmul t d a b => shapeOf t [a.any, b.any] d.any none none
  | .vfma t d a b => shapeOf t [a.any, b.any] (.v d) none none
  | .vfms t d a b => shapeOf t [a.any, b.any] (.v d) none none
  | .vfnma t d a b => shapeOf t [a.any, b.any] (.v d) none none
  | .vmin t d a b => shapeOf t [a.any, b.any] d.any none none
  | .vmax t d a b => shapeOf t [a.any, b.any] d.any none none
  | .vabs t d a => shapeOf t [a.any] d.any none none
  | .vneg t d a => shapeOf t [a.any] d.any none none
  | .vmov t d a => shapeOf t [a.any] d.any none none
  | .vbcast t d a => shapeOf t [a.any] d.any none none
  | .vcmp t _ _ a b _ => shapeOf t [a.any, b.any] .nul none none
  | .vsel t d a _ => shapeOf t [a.any] (.v d) none none
  | .vextr t d a _ => shapeOf t [a.any] d.any none none
  | .vrcps t d a => shapeOf t [a.any] d.any none none
  | .vrsqs t d a => shapeOf t [a.any] d.any none none
  | .vexp2s t d a => shapeOf t [a.any] d.any none none
  | .vlog2s t d a => shapeOf t [a.any] d.any none none
  | .vrnd t d a _ => shapeOf t [a.any] d.any none none
  | .vscale t d a b => shapeOf t [a.any, b.any] d.any none none
  | .vcvti t d a _ => shapeOf t [a.any] d.any none none
  | .vcvtf t d a _ => shapeOf t [a.any] d.any none none
  | .vsrnd t d a _ => shapeOf t [a.any] d.any none none
  | .viadd t d a b => shapeOf t [a.any, b.any] d.any none none
  | .visub t d a b => shapeOf t [a.any, b.any] d.any none none
  | .vimul t d a b => shapeOf t [a.any, b.any] d.any none none
  | .vimin t d a b => shapeOf t [a.any, b.any] d.any none none
  | .vimax t d a b => shapeOf t [a.any, b.any] d.any none none
  | .vand t d a b => shapeOf t [a.any, b.any] d.any none none
  | .vor t d a b => shapeOf t [a.any, b.any] d.any none none
  | .vxor t d a b => shapeOf t [a.any, b.any] d.any none none
  | .vshl t d a b => shapeOf t [a.any, b.any] d.any none none
  | .vshr t d a b => shapeOf t [a.any, b.any] d.any none none
  | .vsar t d a b => shapeOf t [a.any, b.any] d.any none none
  | .vicmp t _ _ a b _ => shapeOf t [a.any, b.any] .nul none none
  | .vperm t d a b => shapeOf t [a.any, b.any] d.any none none
  | .vrot t d a _ _ => shapeOf t [a.any] d.any none none
  | .vreda t d a => shapeOf t [a.any] d none none
  | .vredmMax t d a => shapeOf t [a.any] d none none
  | .vredmMin t d a => shapeOf t [a.any] d none none
  | .vscan t d a _ => shapeOf t [a.any] d.any none none
  | .vcprs t d a _ => shapeOf t [a.any] d.any none none
  | .vxpnd t d a _ => shapeOf t [a.any] d.any none none
  | .klog t _ _ _ _ _ => shapeOf t [] .nul none none
  | .kmovToMask t _ a => shapeOf t [a.any] .nul none none
  | .kmovFromMask t d _ => shapeOf t [] d.any none none
  | .mcfg t _ => shapeOf t [] .nul none none
  | .mldb t q => { trig := t, takes := [(q, 2)] }
  | .mrow t o q => { trig := t, takes := [(q, 2)], port := some o }
  | .mrowG t o => { trig := t, port := some o }
  | .mgath t a => shapeOf t [a.any] .nul none none
  | .mdrain t o _ => { trig := t, port := some o }
  | .mdrainR t o peek q _ => { trig := t, takes := if peek then [] else [(q, 1)], peeks := if peek then [q] else [], port := some o }
  | .mzero t => shapeOf t [] .nul none none
  | .ldsN t q a => shapeOf t [a.any] .nul (some q) none
  | .ldsW t q a => shapeOf t [a.any] .nul (some q) none
  | .ldsWc t q a => shapeOf t [a.any] .nul (some q) none
  | .sts t r a b => shapeOf t [a.any, b] .nul r.queue none
  | .feopClr t r _ => shapeOf t [] .nul r.queue none
  | .feopSet t r _ => shapeOf t [] .nul r.queue none
  | .ldg t q a => shapeOf t [a.any] .nul (some q) none
  | .stg t r a b => shapeOf t [a.any, b] .nul r.queue none
  | .ldw t q _ m => shapeOf t [] .nul (some q) (some m)
  | .aadd t r _ _ => shapeOf t [] .nul r.queue none
  | .afadd t r _ _ => shapeOf t [] .nul r.queue none
  | .amin t r _ _ => shapeOf t [] .nul r.queue none
  | .amax t r _ _ => shapeOf t [] .nul r.queue none
  | .aand t r _ _ => shapeOf t [] .nul r.queue none
  | .aor t r _ _ => shapeOf t [] .nul r.queue none
  | .axor t r _ _ => shapeOf t [] .nul r.queue none
  | .aswp t r _ _ => shapeOf t [] .nul r.queue none
  | .acas t r _ _ => shapeOf t [] .nul r.queue none
  | .fence t r a _ _ => shapeOf t [a.any] .nul r.queue none
  | .bar t q a _ => shapeOf t [a.any] .nul (some q) none
  | .tset t a => shapeOf t [a.any] .nul none none
  | .tcommit t a => shapeOf t [a.any] .nul none none
  | .hnew t q a b _ => shapeOf t [a.any, b.any] .nul (some q) none
  | .hdup t r a => shapeOf t [a.any] .nul r.queue none
  | .hrel t r a => shapeOf t [a.any] .nul r.queue none
  | .hweak t d a => shapeOf t [a.any] d.any none none
  | .hupg t q a n => shapeOf t [a.any] .nul (some q) (some n)
  | .hinfo t q a => shapeOf t [a.any] .nul (some q) none
  | .hprio t r a _ => shapeOf t [a.any] .nul r.queue none
  | .sinitQs t r _ => shapeOf t [] .nul r.queue none
  | .sinitHh t r _ => shapeOf t [] .nul r.queue none
  | .sinitDc t r _ => shapeOf t [] .nul r.queue none
  | .qsins t o a => shapeOf t [a.any] (.o o) none none
  | .hhins t o a => shapeOf t [a.any] (.o o) none none
  | .dcins t o a => shapeOf t [a.any] (.o o) none none
  | .smerge t r a b => shapeOf t [a.any, b.any] .nul r.queue none
  | .qread t q _ => shapeOf t [] .nul (some q) none
  | .qrank t q _ => shapeOf t [] .nul (some q) none
  | .hhget t q _ => shapeOf t [] .nul (some q) none
  | .dcest t q _ => shapeOf t [] .nul (some q) none
  | .tkinit t r _ => shapeOf t [] .nul r.queue none
  | .tkins t o a b => shapeOf t [a.any, b.any] (.o o) none none
  | .tkout t q _ => shapeOf t [] .nul (some q) none
  | .pfrag t q a => shapeOf t [a.any] .nul (some q) none
  | .pseq t q a b => shapeOf t [a.any, b.any] .nul (some q) none
  | .povl t q a b => shapeOf t [a.any, b.any] .nul (some q) none
  | .ppipe t q _ b => shapeOf t [b.any] .nul (some q) none
  | .pnest t q _ b => shapeOf t [b.any] .nul (some q) none
  | .prep t q a b => shapeOf t [a.any, b.any] .nul (some q) none
  | .piface t q _ => shapeOf t [] .nul (some q) none
  | .pcost t q a => shapeOf t [a.any] .nul (some q) none
  | .plaunch t q a b => shapeOf t [a.any, b.any] .nul (some q) none
  | .plaunchC t q a b => shapeOf t [a.any, b.any] .nul (some q) none
  | .pfree t r a => shapeOf t [a.any] .nul r.queue none
  | .xreq t o a => shapeOf t [a.any] (.o o) none none
  | .xexp t a => shapeOf t [a.any] .nul none none
  | .crdy t q a => shapeOf t [a.any] .nul (some q) none
  | .cslot t q a => shapeOf t [a.any] .nul (some q) none
  | .qpush t q a m => shapeOf t [a.any] .nul (some q) (some m)
  | .rnext t q m => shapeOf t [] .nul (some q) (some m)
  | .rangeUnitServe _ => {}
  | .kickWrite _ _ => {}
  | .qstatWrite _ _ => {}
  | .registerWrite _ _ => {}
  | .amFlush => {}
  | .amPin _ => {}
  | .amReadEntry => {}
  | .amRegister => {}
  | .libInstall => {}
  | .libRemove => {}
  | .debugArm _ => {}
  | .debugResume => {}
  | .debugStop _ => {}
  | .spdmGetMeasurements _ => {}
  | .hostMemWrite _ _ => {}
  | .hostMemRead _ _ => {}
  | .dispatchGrant => {}
  | .launch _ => {}
  | .graph _ => {}
  | .wait _ => {}
  | .waitRetest _ => {}
  | .queueUnpark _ => {}
  | .signal _ => {}
  | .copy _ => {}
  | .preempt _ => {}
  | .preemptKill _ => {}
  | .barrier _ => {}
  | .launchReserveTurn _ => {}
  | .regionPlace _ => {}
  | .slotTableApply _ => {}
  | .registerFillComplete _ => {}
  | .registerEvictComplete _ => {}
  | .followerFire _ _ => {}
  | .tokenDeliver _ => {}
  | .scatterForward _ _ => {}
  | .gatherForward _ _ => {}
  | .stagingSend _ => {}
  | .replyTokenEnter _ => {}
  | .faultTokenDeliver _ => {}
  | .streamReadToken _ _ => {}
  | .streamWriteToken _ _ => {}
  | .streamComplete _ _ => {}
  | .reduceContribution _ _ => {}
  | .summaryInsert _ _ => {}
  | .topkInsert _ _ => {}
  | .walkRequest _ _ => {}
  | .accTokenAdd _ _ => {}
  | .accAck _ => {}
  | .mrowResult _ _ => {}
  | .mrowReplayResult _ _ _ => {}
  | .mdrainResult _ _ => {}
  | .mzeroComplete _ => {}
  | .mgathRowArrive _ => {}
  | .tileRequestServe _ => {}
  | .ldsRelease _ => {}
  | .summaryOpServe _ => {}
  | .homePortServe _ => {}
  | .atomicPerform _ => {}
  | .portAccess _ => {}
  | .pageFetchComplete _ => {}
  | .pageEvict _ _ _ => {}
  | .drainLimitExpiry _ => {}
  | .regionCheckpoint _ => {}
  | .regionReplace _ => {}
  | .flashFetchError _ => {}
  | .flashFetchTimeout _ => {}
  | .transferAccept _ => {}
  | .transferGranule _ => {}
  | .channelToken _ _ => {}
  | .solderServe _ => {}
  | .quantumRefresh _ _ => {}
  | .regionRetire _ => {}
  | .completionRecord _ => {}
  | .taskCommit _ => {}
  | .tcommitRound _ => {}
  | .pewterEpochTick => {}
  | .objectDestroyBegin => {}
  | .destructionPoint => {}
  | .engineChunkServe _ => {}
  | .chunkArrive _ => {}
  | .collectiveComplete _ _ => {}
  | .switchCombine _ => {}
  | .switchLimitExpiry _ => {}
  | .chunkReoffer _ => {}
  | .cslotStart _ => {}
  | .cslotEnd _ => {}
  | .pageMigrate _ _ _ => {}
  | .watchpointRecord _ _ _ _ _ => {}
  | .droopTrip => {}
  | .powerCapStep => {}
  | .machineCheck _ _ _ => {}
  | .deviceReset => {}
  | .pwrstatRead => {}
end Sys2Proof

namespace Sys2Proof.Machine

/-! ## The side halfword (R84) -/

/-- OWNER. -/
def sideOwner (h : BitVec 16) : Fin 4 := (h.extractLsb' 0 2).toFin
/-- PEFF. -/
def sidePeff (h : BitVec 16) : Fin 4 := (h.extractLsb' 2 2).toFin
/-- PIDX. -/
def sidePidx (h : BitVec 16) : Fin 8 := (h.extractLsb' 4 3).toFin
/-- TAG. -/
def sideTag (h : BitVec 16) : BitVec 2 := h.extractLsb' 7 2
/-- TRAPF. -/
def sideTrapf (h : BitVec 16) : Bool := h.getLsbD 9
/-- TRACE. -/
def sideTrace (h : BitVec 16) : Bool := h.getLsbD 10

/-- A predicate written (R17). -/
def setPred (p : BitVec 8) (n : Fin 8) (b : Bool) : BitVec 8 := if b then p ||| ((1 : BitVec 8) <<< n.val) else p &&& ~~~ ((1 : BitVec 8) <<< n.val)

/-- A predicate read. -/
def getPred (p : BitVec 8) (n : Fin 8) : Bool := p.getLsbD n.val

/-- The predicate effect of a side halfword: none, set, clear, toggle (R84, R85). -/
def predEffect (h : BitVec 16) (p : BitVec 8) : BitVec 8 :=
  match sidePeff h with
  | 0 => p
  | 1 => setPred p (sidePidx h) true
  | 2 => setPred p (sidePidx h) false
  | 3 => setPred p (sidePidx h) (!getPred p (sidePidx h))

/-! ## Triggers -/

/-- A trigger that is no compound code, on the predicates of a context and on a tile's queues and ports (R81). -/
def simpleTrig (t : Tile) (p : BitVec 8) (g : Trig) : Bool :=
  match g with
  | .pSet n => getPred p n
  | .pClear n => !getPred p n
  | .qTag tag q => match t.head q with
    | some k => k.tag.toNat == tag.val
    | none => false
  | .oFree q => decide (1 ≤ t.room q)
  | .oEmpty q => t.room q == 2
  | .always => true
  | .comp _ | .never => false

/-- A simple trigger of a compound entry, from its code (R83). -/
def trigOfCode (c : BitVec 6) : Trig :=
  let n := c.toNat
  if n < 8 then .pSet ⟨n % 8, Nat.mod_lt _ (by decide)⟩
  else if n < 16 then .pClear ⟨n % 8, Nat.mod_lt _ (by decide)⟩
  else if n < 32 then .qTag ⟨n / 4 % 4, Nat.mod_lt _ (by decide)⟩ ⟨n % 4, Nat.mod_lt _ (by decide)⟩
  else if n < 48 then .never
  else if n < 52 then .oFree ⟨n % 4, Nat.mod_lt _ (by decide)⟩
  else if n < 56 then .oEmpty ⟨n % 4, Nat.mod_lt _ (by decide)⟩
  else if n = 56 then .always
  else .never

/-- The two simple triggers of a compound entry, and whether the second is negated (R83). -/
def compEntry (w : BitVec 16) : Trig × Trig × Bool :=
  (trigOfCode (w.extractLsb' 0 6), trigOfCode (w.extractLsb' 6 6), w.getLsbD 12)

/-- A trigger is true (R81, R83). -/
def trigTrue (t : Tile) (e : Elem) (p : BitVec 8) (g : Trig) : Bool :=
  match g with
  | .comp n =>
    let (a, b, neg) := compEntry (e.comps.get n)
    simpleTrig t p a && (simpleTrig t p b != neg)
  | .pSet _ | .pClear _ | .qTag _ _ | .oFree _ | .oEmpty _ | .always | .never => simpleTrig t p g

/-- The queues whose heads a trigger tests (R81). -/
def simpleTested (g : Trig) : List (Fin 4) :=
  match g with
  | .qTag _ q => [q]
  | .pSet _ | .pClear _ | .comp _ | .oFree _ | .oEmpty _ | .always | .never => []

/-- The queues whose heads a trigger of an element tests. -/
def trigTested (e : Elem) (g : Trig) : List (Fin 4) :=
  match g with
  | .comp n =>
    let (a, b, _) := compEntry (e.comps.get n)
    simpleTested a ++ simpleTested b
  | .pSet _ | .pClear _ | .qTag _ _ | .oFree _ | .oEmpty _ | .always | .never => simpleTested g

/-! ## A firing's environment -/

/-- What a firing has before it acts: its site, its tile, element and context, its side halfword, its region, and the arcs that its
tokens bring (R170). -/
structure Env where
  site : Site
  tile : Tile
  elem : Elem
  ctx : Ctx
  side : BitVec 16
  region : Region
  arcs : Arcs

/-- What a meaning answers: the state after its own effects with the flags it sets, or a fault. -/
inductive Res where
  | done (s : State) (f : Flags)
  | fault (f : FaultInfo)

/-- The payload at the head of an input queue. -/
def Env.head (e : Env) (q : Fin 4) : Payload := ((e.tile.head q).map Token.pay).getD (.s 0)

/-- A scalar register. -/
def Env.sreg (e : Env) (n : Nat) : Word := Vector.at (n := 15) e.ctx.s n

/-- A pair of scalar registers sN, sN+1. -/
def Env.pair (e : Env) (n : Fin 8) : Word × Word := (e.sreg (2 * n.val), e.sreg (2 * n.val + 1))

/-- A scalar source (R79). -/
def Env.s (e : Env) (a : SSrc) : Word :=
  match a with
  | .s n => e.ctx.s.get n
  | .i q => (e.head q).word
  | .ik q => (e.head q).word
  | .c n => e.elem.consts.get n

/-- A vector source: every lane of a constant word is its bits [39:0] (R79). -/
def Env.v (e : Env) (a : VSrc) : Vec :=
  match a with
  | .v n => e.ctx.v.get n
  | .i q => (e.head q).vec
  | .ik q => (e.head q).vec
  | .c n => Vec.all ((e.elem.consts.get n).setWidth 40)

/-- A source that may be scalar or vector; a constant word counts as scalar (R79). -/
def Env.a (e : Env) (a : ASrc) : Payload :=
  match a with
  | .s n => .s (e.ctx.s.get n)
  | .v n => .v (e.ctx.v.get n)
  | .i q => e.head q
  | .ik q => e.head q
  | .c n => .s (e.elem.consts.get n)

/-- A predicate of the context. -/
def Env.p (e : Env) (n : Fin 8) : Bool := getPred e.ctx.p n

/-- A lane mask of the context. -/
def Env.k (e : Env) (n : Fin 4) : BitVec 16 := e.ctx.k.get n

/-- Fragment-relative place of the element (R98). -/
def Env.rel (e : Env) : Nat × Nat := e.region.rel e.ctx.leaf e.site.tile

/-! ## Destinations -/

/-- A scalar register written. -/
def State.putS (s : State) (e : Env) (n : Fin 16) (w : Word) : State :=
  s.modCtx e.site.tile e.site.ctx (fun c => { c with s := c.s.set n.val w n.isLt })

/-- A vector register written. -/
def State.putV (s : State) (e : Env) (n : Fin 32) (x : Vec) : State :=
  s.modCtx e.site.tile e.site.ctx (fun c => { c with v := c.v.set n.val x n.isLt })

/-- A predicate written. -/
def State.putP (s : State) (e : Env) (n : Fin 8) (b : Bool) : State :=
  s.modCtx e.site.tile e.site.ctx (fun c => { c with p := setPred c.p n b })

/-- A lane mask written. -/
def State.putK (s : State) (e : Env) (n : Fin 4) (m : BitVec 16) : State :=
  s.modCtx e.site.tile e.site.ctx (fun c => { c with k := c.k.set n.val m n.isLt })

/-- A token of a firing: it carries the firing's arcs, and its log when it is sampled (R260); the payload bit 63 of tag 3 is forced to 0
(R21). -/
def Env.token (e : Env) (now : Nat) (tag : BitVec 2) (pay : Payload) (side : SideBand) : Token where
  tag := tag
  pay := if tag = 3 then pay.clear63 else pay
  side := side
  arcs := e.arcs
  log := if sideTrace e.side || e.ctx.mark then some (birthLog e.site.tile now) else none

/-- A token sent through an output port; the mark of TMARK clears (R381). -/
def State.send (s : State) (e : Env) (q : Fin 4) (tag : BitVec 2) (pay : Payload) (side : SideBand) : State :=
  (s.putPort e.site.tile q (e.token s.cycle tag pay side)).modCtx e.site.tile e.site.ctx (fun c => { c with mark := false })

/-- A result written to a scalar destination (R79). -/
def State.writeS (s : State) (e : Env) (d : SDst) (w : Word) : State :=
  match d with
  | .s n => s.putS e n w
  | .o q => s.send e q (sideTag e.side) (.s w) .none
  | .oe q => s.send e q 1 (.s w) .none
  | .nul => s

/-- A result written to a vector destination (R79). -/
def State.writeV (s : State) (e : Env) (d : VDst) (x : Vec) : State :=
  match d with
  | .v n => s.putV e n x
  | .o q => s.send e q (sideTag e.side) (.v x) .none
  | .oe q => s.send e q 1 (.v x) .none
  | .nul => s

end Sys2Proof.Machine
end

