-- ==== Sys2Proof/Machine/Fire.lean ====
section
/-!
DEFINITION. A firing as one operation: the ready rule (R28 with R156, R169, R230, R331 to R337), the vector register entries of R19, and
what completes a firing (R23, R32, R85, R86).
-/
namespace Sys2Proof.Machine

/-! ## Follower chains (R33 to R35) -/

/-- FOLLOW of an element control word (R89). -/
def Elem.follows (e : Elem) : Bool := e.ctrl.getLsbD 0

/-- LEADER_DIR of an element control word (R89). -/
def Elem.leaderDir (e : Elem) : Nat := (e.ctrl.extractLsb' 1 2).toNat

/-- The follower of tile `t` in direction `d`. -/
def State.followerIn (s : State) (t d : Nat) : Option Nat :=
  match neighbour t d, s.tile? t with
  | some (n, _), some x =>
    match s.tile? n with
    | none => none
    | some y =>
      match y.elem with
      | none => none
      | some e => if e.follows && e.leaderDir == (d + 2) % 4 && y.region == x.region && y.leaf == x.leaf then some n else none
  | _, _ => none

/-- The followers that lie in one direction, nearest first; a chain has at most 15 (R33). -/
def State.followersIn (s : State) (d : Nat) : Nat → Nat → List Nat
  | 0, _ => []
  | k + 1, t =>
    match s.followerIn t d with
    | none => []
    | some n => n :: State.followersIn s d k n

/-- The followers of a leader with their distances (R34). -/
def State.chain (s : State) (t : Nat) : List (Nat × Nat) :=
  (List.range 4).flatMap (fun d => (s.followersIn d 15 t).zipIdx.map (fun (n, j) => (n, j + 1)))

/-- The tile of the leader of an element's chain and its distance from it (R34, R328). -/
def State.leaderOf (s : State) : Nat → Nat → Nat × Nat
  | 0, t => (t, 0)
  | k + 1, t =>
    match s.elem? t with
    | none => (t, 0)
    | some e =>
      if e.follows then
        match neighbour t e.leaderDir with
        | none => (t, 0)
        | some (n, _) => let (l, j) := State.leaderOf s k n; (l, j + 1)
      else (t, 0)

/-! ## Commit keys and irrevocability (R164, R169) -/

/-- The TS of a key taken now by a task (R164). -/
def State.keyTs (s : State) (t : Task) : Nat :=
  (s.tasks.filter (fun u => u.ordered && u.irrev && u.id != t.id)).foldl (fun m u => max m ((u.key.map Prod.fst).getD 0)) (max t.ts.toNat s.maxTs)

/-- The commit key of a task: the key it has, or the one it would take now. -/
def State.keyOf (s : State) (t : Task) : Nat × Nat := t.key.getD (s.keyTs t, s.seq)

/-- Keys are compared on TS first, then on SEQ (R164). -/
def keyLt (a b : Nat × Nat) : Bool := decide (a.1 < b.1) || (a.1 == b.1 && decide (a.2 < b.2))

/-- A task is the oldest uncommitted ordered task of the domain. -/
def State.isOldest (s : State) (t : Task) : Bool :=
  s.tasks.all (fun u => u.id == t.id || !u.ordered || u.key.isNone || !keyLt (s.keyOf u) (s.keyOf t))

/-- A key is taken by an ordered task that has none (R164). -/
def State.takeKey (s : State) (t : Task) : State :=
  if t.ordered && t.key.isNone then
    let k := (s.keyTs t, s.seq)
    State.modTask { s with seq := s.seq + 1 } t.id (fun x => { x with key := some k })
  else s

/-- Whether the use of an atomic makes an ordered task irrevocable (R169). -/
def atIrrevocable (o : AtOrd) : Bool :=
  match o with
  | .relaxed .unpaired | .relaxed .nonOrdering | .relaxed .quantum | .sync _ _ => true
  | .relaxed .commutative | .relaxed .speculative => false

/-- The kind of a transfer request in a vector: bits [1:0] of its first word, 3 and 4 by bits [3:0] (R142). -/
def xreqKind (x : Vec) : Nat := (x.lane 0).toNat % 16

/-- A firing that makes an ordered task irrevocable (R169); every other instruction does not. -/
def irrevocable (i : Instr) (e : Env) : Bool :=
  match i with
  | .aadd _ _ _ o | .afadd _ _ _ o | .amin _ _ _ o | .amax _ _ _ o | .aand _ _ _ o | .aor _ _ _ o | .axor _ _ _ o | .aswp _ _ _ o
  | .acas _ _ _ o => atIrrevocable o
  | .hnew _ _ _ _ _ | .hdup _ _ _ | .hrel _ _ _ | .hupg _ _ _ _ | .hprio _ _ _ _ => true
  | .qpush _ _ _ _ | .plaunch _ _ _ _ | .plaunchC _ _ _ _ | .crdy _ _ _ => true
  | .xreq _ _ a => xreqKind (e.v a) == 3 || xreqKind (e.v a) == 4
  | _ => false

/-! ## Readiness -/

/-- A halt keeps the element from picking (R207). -/
def Elem.haltedBy (e : Elem) (now : Nat) : Bool := match e.haltAt with | none => false | some c => decide (c ≤ now)

/-- The conditions of the matrix unit and of collective slots beside R28 (R232, R331 to R337); every other instruction has none. -/
def unitReady (i : Instr) (e : Elem) : Bool :=
  match i with
  | .mcfg _ _ | .mzero _ => e.mat.out == 0 && !e.mat.zb
  | .mdrain _ _ _ | .mdrainR _ _ _ _ _ => e.mat.out == 0 && !e.mat.zb
  | .mgath _ _ => decide (16 ≤ e.mat.gr)
  | .mrow _ _ _ => !e.mat.zb && decide (e.mat.out < 255)
  | .mrowG _ _ => !e.mat.zb && decide (e.mat.out < 255) && decide (e.mat.gr < 16) && decide (e.mat.gr < e.mat.garrived)
  | .cslot _ _ _ => e.cslot.isNone
  | _ => true

/-- The environment of a firing of `i` at a site. -/
def State.env? (s : State) (i : Instr) (site : Site) : Option Env :=
  match s.tile? site.tile with
  | none => none
  | some t =>
    match t.elem with
    | none => none
    | some e =>
      let c := e.ctx.get site.ctx
      match s.region? c.region with
      | none => none
      | some r =>
        let qs := (i.shape.takes.map Prod.fst) ++ i.shape.peeks ++ (if site.lead then trigTested e i.shape.trig else [])
        let toks := qs.filterMap t.head
        some ⟨site, t, e, c, e.sides.get site.slot, r, toks.foldl (fun a k => a.join k.arcs) c.arcs⟩

/-- The region lets its contexts fire: armed or retiring (R39), and until the halt of a pre-emption or a stop reaches them (R207, R212). -/
def Region.fires (r : Region) : Bool :=
  match r.phase with
  | .armed | .retiring | .halting | .stopped => true
  | .checkpointed | .writeBack | .done => false

/-- A slot is ready (R28, R156, R169): the trigger is tested in a leader or a lone element only (R34). -/
def Env.ready (e : Env) (i : Instr) (s : State) : Bool :=
  let h := i.shape
  e.ctx.st == .armed && !e.ctx.held && e.region.fires && !(e.site.lead && e.region.halts && e.elem.haltedBy s.cycle)
    && !((e.elem.cslot.map CSlot.running).getD false)
    && (!e.site.lead || trigTrue e.tile e.elem e.ctx.p h.trig)
    && h.takes.all (fun (q, n) => decide (n ≤ (e.tile.iq.get q).length))
    && h.peeks.all (fun q => (e.tile.head q).isSome)
    && (match h.port with | none => true | some q => decide (1 ≤ e.tile.room q))
    && (match h.reply with | none => true | some q => decide ((e.tile.iq.get q).length + s.owed e.site.tile q < 4))
    && (match h.pred with
        | none => true
        | some p => !s.reqs.any (fun r => r.tile == e.site.tile && r.ctx == e.site.ctx && r.pred == some p))
    && !e.elem.moves.any (fun m => h.vregs.any (fun v => m.want == (e.site.ctx.val, v.val)))
    && unitReady i e.elem
    && (match s.task? e.region.task with
        | none => true
        | some t => !t.ordered || t.irrev || !irrevocable i e || s.isOldest t)

/-! ## Vector register entries (R19) -/

/-- What R19 does with a firing: it goes on with these residents, its new registers set to zero; or a fill or an eviction starts; or
there is nothing to evict yet. -/
inductive RegPlan where
  | go (e : Elem)
  | start (m : RegMove) (e : Elem)
  | wait

/-- The least recently used register that the firing does not name. -/
def Elem.lru (e : Elem) (own : List (Nat × Nat)) : Option (Nat × Nat) := (e.resident.filter (fun r => !own.contains r)).getLast?

/-- R19 for a firing of context `c` that names `vs`; a fill or an eviction completes at `due`. -/
def Elem.regPlan (e : Elem) (c : Fin 4) (slot : Fin 32) (vs : List (Fin 32)) (due : Nat) : RegPlan :=
  let own := vs.map (fun v => (c.val, v.val))
  let missing := own.filter (fun r => !e.resident.contains r)
  let used := e.resident.length + e.moves.length
  let evict (isFill : Bool) (want : Nat × Nat) : RegPlan :=
    match e.lru own with
    | none => .wait
    | some o =>
      let m : RegMove := ⟨isFill, want, some o, due, slot⟩
      .start m { e with moves := e.moves ++ [m], resident := e.resident.filter (fun r => r != o), spilled := o :: e.spilled.filter (fun r => r != o) }
  match missing.find? (fun r => e.spilled.contains r) with
  | some r =>
    if used < 48 then
      let m : RegMove := ⟨true, r, none, due, slot⟩
      .start m { e with moves := e.moves ++ [m] }
    else evict true r
  | none =>
    if used + missing.length ≤ 48 then
      let zeroed := (vs.filter (fun v => missing.contains (c.val, v.val))).foldl (fun (x : Elem) v =>
        x.modCtx c (fun k => { k with v := k.v.set v.val Vec.zero v.isLt })) e
      .go { zeroed with resident := own ++ e.resident.filter (fun r => !own.contains r) }
    else evict false (missing.headD (0, 0))

/-- Where a vector register lies in the register backing area (R146). -/
def Region.regAddr (r : Region) (tile c n : Nat) : Nat :=
  r.backing + ((tileY tile - r.y0) * r.w + (tileX tile - r.x0)) * 4 * 2560 + c * 2560 + 80 * n

/-- A fill or an eviction starts: the evicted register goes to the backing area of the region whose context it belongs to (R19, R146). -/
def State.startMove (s : State) (env : Env) (m : RegMove) (e : Elem) : State :=
  let s1 : State := s.modElem env.site.tile (fun _ => e)
  match m.out with
  | none => s1
  | some (c, n) =>
    let x := Vector.at (n := 3) env.elem.ctx c
    match s.region? x.region with
    | none => s1
    | some r =>
      let a := r.regAddr env.site.tile c n
      State.watch { s1 with hbm := writeBytes s1.hbm a (vecBytes (Vector.at (n := 31) x.v n)) } (tileDie env.site.tile) a 80 1 4

/-! ## A firing -/

/-- The firing gets under way: its environment, with its vector registers resident. `none`: nothing fires. -/
def State.enter (s : State) (i : Instr) : Option (Env × State) :=
  match s.cur with
  | none => none
  | some site =>
    match s.env? i site with
    | none => none
    | some e =>
      if e.ready i s then
        match e.elem.regPlan site.ctx site.slot i.shape.vregs s.cycle with
        | .go x => some ({ e with elem := x, ctx := x.ctx.get site.ctx }, s.modElem site.tile (fun _ => x))
        | .start _ _ | .wait => none
      else none

/-- What happens when nothing fires: a fill or an eviction starts if R19 asks for one. -/
def State.stall (s : State) (i : Instr) : State :=
  let s0 : State := { s with cur := none }
  match s.cur with
  | none => s0
  | some site =>
    match s.env? i site with
    | none => s0
    | some e =>
      if e.ready i s then
        match e.elem.regPlan site.ctx site.slot i.shape.vregs (s.after 1) with
        | .start m x => (s0.startMove e m x).tick
        | .go _ | .wait => s0
      else s0

/-- The tokens that a firing dequeues, each with its sampled log written (R23, R261). -/
def State.take (s : State) (e : Env) (qs : List (Fin 4 × Nat)) : State :=
  qs.foldl (fun s (q, n) =>
    ((e.tile.iq.get q).take n).foldl (fun s k => (s.sinkLog e.ctx.region k false).dequeue e.site.tile q) s) s

/-- The slots that the followers of a leader must fire (R34). -/
def State.oblige (s : State) (e : Env) : State :=
  if e.site.lead then
    (s.chain e.site.tile).foldl (fun s (t, j) => s.modElem t (fun x => { x with due := x.due ++ [(s.cycle + j, e.site.slot)] })) s
  else s

/-- The slot-table entry that the cycle index selects (R29, R90). -/
def Elem.entry (e : Elem) : Nat := (e.table.extractLsb' (3 * e.idx.toNat) 3).toNat

/-- RP after a firing in a rotate cycle (R29). -/
def Elem.rotate (e : Elem) (site : Site) : Elem := if site.lead && e.entry == 0 then { e with rp := BitVec.ofNat 2 site.ctx.val } else e

/-- The completion of a firing (R32, R85): dequeues, flags, the firing count, the arcs, the predicate effect last, the followers' due
slots, the commit key and irrevocability of the task. -/
def State.complete (s : State) (i : Instr) (e : Env) (f : Flags) : State :=
  let s := s.take e i.shape.takes
  let s := s.modRegion e.ctx.region (fun r => { r with setNow := r.setNow ||| f })
  let s := s.modElem e.site.tile (fun x =>
    (Elem.modCtx { x with counts := x.counts.set e.site.slot.val (x.counts.get e.site.slot + 1) e.site.slot.isLt } e.site.ctx
      (fun c => { c with arcs := e.arcs, p := predEffect e.side c.p })).rotate e.site)
  let s := s.oblige e
  match s.task? e.region.task with
  | none => s
  | some t =>
    let s := s.takeKey t
    if t.ordered && irrevocable i e then s.modTask t.id (fun x => { x with irrev := true }) else s

/-- A firing that faults (R85, R209): its context freezes, RP moves on as after every firing (R29), and the followers must fire the slot (R34). -/
def State.miss (s0 : State) (e : Env) (f : FaultInfo) : State :=
  ((State.modElem { s0 with cur := none } e.site.tile (fun x => x.rotate e.site)).oblige e).faultFiring e.ctx e.site f

/-- The flags that a firing puts into the status record: with TRAPF none (R86, R102). -/
def Env.raised (e : Env) (f : Flags) : Flags := if sideTrapf e.side then 0 else f

/-- What a meaning's answer makes of a firing that has got under way: a fault freezes the context and nothing else is written (R85); with
TRAPF so does a flag NV or OV, and no flag is set (R86, R102); otherwise the firing completes. `s0` is the state before the meaning acts. -/
def State.settle (s0 : State) (i : Instr) (e : Env) (r : Res) : State :=
  match r with
  | .fault f => s0.miss e f
  | .done s1 f =>
    if sideTrapf e.side && f.traps then s0.miss e ⟨kTrap, 1, 0⟩
    else State.complete { s1 with cur := none } i e (e.raised f)

/-- Every slot instruction is this operation over its own effect. -/
def fire (i : Instr) (s : State) (k : Env → State → Res) : Host.Outcome State Fault Refusal :=
  match s.enter i with
  | none => .next (s.stall i)
  | some (e, s1) => .next (s1.settle i e (k e s1))

end Sys2Proof.Machine
end

