-- ==== Sys2Proof/Machine/Pick.lean ====
section
/-!
DEFINITION. The picker (R29), the advance of follower chains (R34, R35), and the start of a cycle.
-/
namespace Sys2Proof.Machine

/-! ## The picker (R29) -/

/-- The contexts that the slot-table entry of this cycle allows: the one it names, or in a rotate cycle the armed contexts that no entry
names. -/
def Elem.cands (e : Elem) : List (Fin 4) :=
  let named (c : Fin 4) : Bool := (List.range 16).any (fun n => (e.table.extractLsb' (3 * n) 3).toNat == 4 + c.val)
  if e.entry = 0 then [0, 1, 2, 3].filter (fun c => (e.ctx.get c).st == .armed && !named c)
  else [0, 1, 2, 3].filter (fun c => e.entry == 4 + c.val)

/-- The candidates in the order RP + 1, RP + 2, RP + 3, RP. -/
def Elem.candOrder (e : Elem) : List (Fin 4) :=
  ([1, 2, 3, 0].map (fun j => (⟨(e.rp.toNat + j) % 4, Nat.mod_lt _ (by decide)⟩ : Fin 4))).filter (fun c => e.cands.contains c)

/-- The instruction of a slot, if its context owns it and it is enabled (R18, R87). -/
def Elem.slotOf (e : Elem) (c : Fin 4) (n : Fin 32) : Option Instr :=
  if sideOwner (e.sides.get n) = c then
    match decodeWord (e.slots.get n) with
    | none => none
    | some i => if i.shape.trig = .never then none else some i
  else none

/-- A site is ready with its instruction. -/
def State.readyAt (s : State) (site : Site) (i : Instr) : Bool :=
  match s.env? i site with
  | none => false
  | some e => e.ready i s

/-- The lowest-numbered ready slot of a context. -/
def State.firstReady (s : State) (t : Nat) (e : Elem) (c : Fin 4) : Option (Site × Instr) :=
  (List.finRange 32).findSome? (fun n =>
    match e.slotOf c n with
    | none => none
    | some i => if s.readyAt ⟨t, c, n, true⟩ i then some (⟨t, c, n, true⟩, i) else none)

/-- The pick of an element in this cycle (R29). A follower's picker is unused (R34). -/
def State.pick (s : State) (t : Nat) : Option (Site × Instr) :=
  match s.elem? t with
  | none => none
  | some e => if e.follows then none else e.candOrder.findSome? (fun c => s.firstReady t e c)

/-! ## Chains (R34, R35) -/

/-- The site and the instruction of a follower's slot. -/
def State.dueSite (s : State) (t : Nat) (n : Fin 32) : Option (Site × Instr) :=
  match s.elem? t with
  | none => none
  | some e =>
    match decodeWord (e.slots.get n) with
    | none => none
    | some i => some (⟨t, sideOwner (e.sides.get n), n, false⟩, i)

/-- Whether a follower can fire a due slot: a follower whose owning context is halted or frozen skips it and counts as able (R35). -/
def State.canFire (s : State) (t : Nat) (n : Fin 32) : Bool :=
  match s.dueSite t n with
  | none => true
  | some (site, i) =>
    match s.env? i site with
    | none => true
    | some e =>
      if e.ctx.st == .armed then
        e.ready i s && (match e.elem.regPlan site.ctx site.slot i.shape.vregs 0 with | .go _ => true | .start _ _ | .wait => false)
      else true

/-- The slots of a follower that are due now. -/
def State.dueNow (s : State) (t : Nat) : List (Fin 32) :=
  match s.elem? t with
  | none => []
  | some e => (e.due.filter (fun d => decide (d.1 ≤ s.cycle))).map Prod.snd

/-- A chain stalls: a follower cannot fire its due slot (R35). -/
def State.chainStalls (s : State) (leader : Nat) : Bool :=
  (s.chain leader).any (fun (t, _) => (s.dueNow t).any (fun n => !s.canFire t n))

/-- A stalled chain: every due slot moves one cycle on, and the fills and evictions that the followers need start. -/
def State.stallChain (s : State) (leader : Nat) : State × List Work :=
  let ch := s.chain leader
  let fills := ch.flatMap (fun (t, _) => (s.dueNow t).filterMap (fun n =>
    match s.dueSite t n with
    | some (site, _) => if s.canFire t n then none else some (Work.run site)
    | none => none))
  (ch.foldl (fun s (t, _) => s.modElem t (fun e => { e with due := e.due.map (fun (c, n) => (c + 1, n)) })) s, fills)

/-- The slots that the followers of a chain fire in this cycle. -/
def State.chainFires (s : State) (leader : Nat) : List Work :=
  (s.chain leader).flatMap (fun (t, _) => (s.dueNow t).map (fun n => Work.ev (.followerFire t n)))

/-! ## The start of a cycle -/

/-- An element may pick: it is no follower and holds an armed context. -/
def Elem.picks (e : Elem) : Bool := !e.follows && e.ctx.toList.any (fun c => c.st == .armed)

/-- The work of one leader: its pick and the firings of its followers, or the stall of its chain. -/
def State.leadWork (s : State) (t : Nat) : State × List Work :=
  if s.chainStalls t then s.stallChain t
  else (s, s.chainFires t ++ (match s.elem? t with | some e => if e.picks then [.pick t] else [] | none => []))

/-- What the cycle index of an element starts at index 0: a slot table, a collective slot (R31, R232). -/
def Elem.atZero (t : Nat) (e : Elem) : List Work :=
  if e.idx = 0 then
    (if e.pendTable.isSome then [.ev (.slotTableApply t)] else [])
      ++ (match e.cslot with | some c => if c.running then [] else [.ev (.cslotStart t)] | none => [])
  else []

/-- The tile in which a pick or a firing of a cycle takes place. -/
def Work.place (w : Work) : Nat :=
  match w with
  | .pick t | .halt t _ | .ev (.followerFire t _) => t
  | .run site => site.tile
  | .ev _ | .poll _ | .walk _ => 0

/-- The next cycle begins: the matches of the last are reported (R265), the reference timer goes on (R138), the cycle index of every element advances (R29), flags reach the status records, and the scan of the cycle is
made: what takes effect at index 0, the picks and the firings of followers in ascending row and column, in which what meets in one cycle is ordered
(R358, R362), and then the units (`phases` of them). -/
def State.newCycle (s : State) (phases : Nat) : State :=
  let s : State := { s.reportMatches with
    cycle := s.cycle + 1
    time := s.time + refTick s.dbg.mhz.toNat
    queues := s.countWaits
    regions := s.regions.map (fun (n, r) => (n, r.mergeFlags))
    tiles := s.tiles.map (fun (n, t) => (n, { t with elem := t.elem.map (fun e => { e with idx := e.idx + 1 }) })) }
  let elems := s.tiles.filterMap (fun (n, t) => t.elem.map (fun e => (n, e)))
  let zero := elems.flatMap (fun (n, e) => e.atZero n)
  let leaders := (elems.filter (fun (_, e) => !e.follows)).map Prod.fst
  let (s, work) := leaders.foldl (fun (a : State × List Work) t => let (s', w) := a.1.leadWork t; (s', a.2 ++ w)) (s, [])
  let tick : List Work := if s.cycle % 2 ^ 20 = 0 then [.ev .pewterEpochTick] else []
  { s with scan := tick ++ zero ++ sortBy (fun a b => decide (a.place < b.place)) work ++ (List.range phases).map Work.poll }

end Sys2Proof.Machine
end

