-- ==== Sys2Proof/Machine/Init.lean ====
section
/-!
DEFINITION. What arming gives: contexts, elements, memory tiles and regions before any configuration word or launch header has filled
them (R17, R18, R24, R120 to R122, R327); and the small armed region in which one slot word stands.
-/
namespace Sys2Proof.Machine

/-- Four copies. -/
def quad {α : Type} (x : α) : Vector α 4 := Vector.mk #[x, x, x, x] rfl
/-- Eight copies. -/
def oct {α : Type} (x : α) : Vector α 8 := Vector.mk #[x, x, x, x, x, x, x, x] rfl
/-- Sixteen copies. -/
def hex {α : Type} (x : α) : Vector α 16 := Vector.mk #[x, x, x, x, x, x, x, x, x, x, x, x, x, x, x, x] rfl
/-- Thirty-two copies. -/
def dotriacontad {α : Type} (x : α) : Vector α 32 :=
  Vector.mk #[x, x, x, x, x, x, x, x, x, x, x, x, x, x, x, x, x, x, x, x, x, x, x, x, x, x, x, x, x, x, x, x] rfl

/-- A context that arming creates (R18). -/
def Ctx.arming (region leaf : Nat) : Ctx where
  st := .armed
  region := region
  leaf := leaf
  v := dotriacontad Vec.zero
  s := hex 0
  p := 0
  k := quad 0xFFFF
  mark := false
  held := false
  arcs := {}
  relSet := none

/-- A context that no slot names. -/
def Ctx.none (region leaf : Nat) : Ctx := { Ctx.arming region leaf with st := .absent }

/-- The matrix unit at arming (R327). -/
def Matrix.arming : Matrix where
  panel := Option.none
  latch := hex 0
  bc := 0
  bfmt := Option.none
  gather := hex 0
  gfmt := 0
  garrived := 0
  gr := 16
  gaddr := []
  gheld := Option.none
  gdue := 0
  gfired := 0
  gctx := 0
  gid := 0
  rp := 0
  dp := 0
  out := 0
  zb := false
  zdue := 0
  zdone := 0
  outs := []
  acks := []

/-- An element all of whose slots are disabled. -/
def Elem.arming (region leaf : Nat) : Elem where
  slots := dotriacontad disabledWord
  sides := dotriacontad 0
  comps := hex 0
  consts := oct 0
  ctrl := 0
  table := 0
  pendTable := Option.none
  idx := 0
  rp := 0
  ctx := quad (Ctx.none region leaf)
  counts := dotriacontad 0
  resident := []
  spilled := []
  moves := []
  due := []
  mat := Matrix.arming
  bars := hex Bar.zero
  cslot := Option.none
  haltAt := Option.none
  freeEnts := 0

/-- An address generator before it opens. -/
def Gen.closed : Gen where
  st := .closed
  tuple := [0, 0, 0, 0]
  elem := 0
  moved := 0
  runTokens := 0
  wr := Option.none
  rd := Option.none
  busy := 0
  withheld := Option.none
  line := 0
  pendTok := []
  flying := []
  group := []
  arcs := {}
  walk := Option.none

/-- A memory tile at arming. -/
def MTile.arming : MTile where
  ctrl := 0
  bind := 0
  recs := quad 0
  gens := quad Gen.closed
  full := 0
  wbuf := 0
  rbuf := 0
  fifo := []
  filling := false
  lines := 0
  red := []
  topk := Option.none
  banks := []
  unitBusy := 0
  unitOn := Option.none
  tkBusy := 0
  staging := Option.none
  qStop := 0

/-- A tile of a region that holds neither element nor memory tile: every route entry zero (R409). -/
def Tile.arming (region leaf : Nat) : Tile where
  region := region
  leaf := leaf
  routes := hex 0
  ext := []
  opClass := 0
  iqKind := 0
  opKind := 0
  iq := quad []
  op := quad []
  elem := Option.none
  mem := Option.none
  scatter := []
  gather := []
  shared := []

/-- A launch header of zeros. -/
def LHeader.zero : LHeader where
  plan := 0
  wid := 0
  seed := 0
  ts := 0
  widths := [0, 0, 0, 0, 0, 0]
  ordered := false
  altok := false
  quantum := 0
  shareK := 0
  rstart := 0
  rend := 0
  minChunk := 1
  consumers := 1
  f := 1
  ruen := false
  binds := []
  links := []

/-- An interface record of zeros. -/
def Header.zero : Header where
  fragId := 0
  w := 0
  h := 0
  xphase := 0
  dlf := false
  rep := false
  faultp := false
  faultPort := 0
  adapter := false
  adaptField := 0
  resClass := 0
  ii := 0
  lat := 0
  altFrag := 0
  memuse := 0

/-- A plan without ports. -/
def Plan.zero : Plan := ⟨Header.zero, [], [], [], [], [], [], [], []⟩

/-- A snapshot of nothing. -/
def Snapshot.zero : Snapshot where
  turn := 0
  seqSeen := 0
  x0 := 0
  y0 := 0
  die := 0
  tiles := []
  sram := []
  full := []
  flights := []
  reqs := []
  faultToks := []
  transfers := []
  flags := 0
  frec := hex Option.none
  ru := Option.none
  chans := []
  bars := hex Bar.zero

/-- A region at the moment of arming. -/
def Region.arming (num : Nat) (die x0 y0 w h : Nat) (hdr : LHeader) (plan : Plan) : Region where
  num := num
  ver := 0
  launch := 0
  queue := 0
  task := 0
  die := die
  x0 := x0
  y0 := y0
  w := w
  h := h
  phase := .armed
  since := 0
  hdr := hdr
  plan := plan
  planIdx := Option.none
  image := 0
  turn := 0
  flags := 0
  setNow := 0
  clrNow := 0
  frec := hex Option.none
  ru := Option.none
  chans := []
  bars := hex Bar.zero
  wlog := []
  rlog := []
  pairs := []
  spairs := []
  reuse := []
  ports := []
  compSeen := false
  compTokens := 0
  seqSeen := 0
  coll := Option.none
  backing := 0
  starts := []
  save := Option.none
  links := []
  stopKind := 0
  stopTok := 0
  stopDet := 0
  faulted := Option.none
  armedAt := 0
  endedAt := 0
  replaced := false
  commitAt := Option.none
  kept := []
  proposals := []
  pageWait := Option.none
  alt := false
  objs := []

/-! ## One slot word, placed to be the next to fire -/

/-- The format that a row pair carries when the model fills a queue for a matrix instruction: E4M3 (R103). -/
def fillFmt : Nat := 4

/-- Tokens that make a trigger true and fill a source: vectors of zero for a matrix row pair, a scalar 0 otherwise. -/
def fillTokens (tag : BitVec 2) (n : Nat) : List Token :=
  if n = 2 then
    [{ tag := tag, pay := .v Vec.zero, side := .row false fillFmt }, { tag := tag, pay := .v Vec.zero, side := .row true fillFmt }]
  else [{ tag := tag, pay := .s 0 }]

/-- The queues of an element in which one slot can fire at once: every source has its tokens, the trigger's queue its tag. -/
def fillQueue (i : Instr) (q : Fin 4) : List Token :=
  let tag : BitVec 2 := match i.shape.trig with
    | .qTag tag q' => if q' = q then BitVec.ofNat 2 tag.val else 0
    | _ => 0
  match i.shape.takes.find? (fun x => x.1 == q) with
  | some (_, n) => fillTokens tag n
  | none =>
    if i.shape.peeks.contains q then fillTokens tag 1
    else match i.shape.trig with
      | .qTag _ q' => if q' = q then fillTokens tag 1 else []
      | _ => []

/-- The state in which a slot word stands in slot 0 of an armed element, its trigger true and its sources filled, and the element's pick
is the next thing that the machine does. -/
def State.placeWord (s : State) (w : BitVec 32) : State :=
  let r : Region := Region.arming 0 0 1 0 2 1 LHeader.zero Plan.zero
  let i : Instr := (decodeWord w).getD (.nop .never)
  let pred : BitVec 8 := match i.shape.trig with
    | .pSet n => setPred 0 n true
    | _ => 0
  let c : Ctx := { Ctx.arming 0 0 with p := pred }
  let e : Elem := { Elem.arming 0 0 with
    slots := (dotriacontad disabledWord).set 0 w (by decide)
    comps := hex 0x0E38
    ctx := (quad (Ctx.none 0 0)).set 0 c (by decide) }
  let t : Tile := { Tile.arming 0 0 with
    iq := Vector.mk #[fillQueue i 0, fillQueue i 1, fillQueue i 2, fillQueue i 3] rfl
    elem := some e }
  let m : Tile := { Tile.arming 0 0 with mem := some MTile.arming }
  { s with
    tiles := [(tileNo 0 1 0, t), (tileNo 0 2 0, m)]
    regions := [(0, r)]
    scan := [.pick (tileNo 0 1 0)] }

end Sys2Proof.Machine
end

