-- ==== Sys2Proof/Machine/Kinds.lean ====
section
/-!
DEFINITION. The kinds of the queues and ports that an instruction names (R22, R79, R96 cause 6) and whether it writes a port whose token takes
its tag from the side halfword (R85).
-/
namespace Sys2Proof
open Sys2Proof.Machine

/-- The queue of a source with the kind that the operand needs: (port, number, vector). -/
def srcUse (a : ASrc) (vec : Bool) : List (Bool × Fin 4 × Bool) := (a.takes ++ a.peeks).map (fun q => (false, q, vec))

/-- The port of a destination with the kind that the operand needs. -/
def dstUse (d : ADst) (vec : Bool) : List (Bool × Fin 4 × Bool) := d.port.toList.map (fun q => (true, q, vec))

/-- What SEL names (R367). -/
def selUse (o : SelOp) : List (Bool × Fin 4 × Bool) :=
  match o with
  | .s _ a => srcUse a.any false
  | .v _ a => srcUse a.any true

/-- A destination is a port through codes 48 to 51 (R85). -/
def plainPort (d : ADst) : Bool :=
  match d with
  | .o _ => true
  | .s _ | .v _ | .oe _ | .nul => false

/-- The queues and ports whose kind an instruction fixes. -/
def Instr.kinds (i : Instr) : List (Bool × Fin 4 × Bool) :=
  match i with
  | .nop _ => []
  | .halt _ => []
  | .trap _ => []
  | .tmark _ => []
  | .rdsr _ d _ => dstUse d.any false
  | .wrsr _ a => srcUse a.any false
  | .movi _ _ _ => []
  | .movhi _ _ _ => []
  | .sel _ o _ _ => selUse o
  | .wfld _ d _ => dstUse d.any false
  | .add _ d a b => dstUse d.any false ++ srcUse a.any false ++ srcUse b.any false
  | .addi _ _ _ => []
  | .sub _ d a b => dstUse d.any false ++ srcUse a.any false ++ srcUse b.any false
  | .mul _ d a b => dstUse d.any false ++ srcUse a.any false ++ srcUse b.any false
  | .mulh _ d a b => dstUse d.any false ++ srcUse a.any false ++ srcUse b.any false
  | .mulhu _ d a b => dstUse d.any false ++ srcUse a.any false ++ srcUse b.any false
  | .div _ d a b => dstUse d.any false ++ srcUse a.any false ++ srcUse b.any false
  | .divu _ d a b => dstUse d.any false ++ srcUse a.any false ++ srcUse b.any false
  | .rem _ d a b => dstUse d.any false ++ srcUse a.any false ++ srcUse b.any false
  | .remu _ d a b => dstUse d.any false ++ srcUse a.any false ++ srcUse b.any false
  | .and _ d a b => dstUse d.any false ++ srcUse a.any false ++ srcUse b.any false
  | .andi _ _ _ => []
  | .or _ d a b => dstUse d.any false ++ srcUse a.any false ++ srcUse b.any false
  | .ori _ _ _ => []
  | .xor _ d a b => dstUse d.any false ++ srcUse a.any false ++ srcUse b.any false
  | .xori _ _ _ => []
  | .shl _ d a b => dstUse d.any false ++ srcUse a.any false ++ srcUse b.any false
  | .shli _ _ _ => []
  | .shr _ d a b => dstUse d.any false ++ srcUse a.any false ++ srcUse b.any false
  | .shri _ _ _ => []
  | .sar _ d a b => dstUse d.any false ++ srcUse a.any false ++ srcUse b.any false
  | .sari _ _ _ => []
  | .min _ d a b => dstUse d.any false ++ srcUse a.any false ++ srcUse b.any false
  | .minu _ d a b => dstUse d.any false ++ srcUse a.any false ++ srcUse b.any false
  | .max _ d a b => dstUse d.any false ++ srcUse a.any false ++ srcUse b.any false
  | .maxu _ d a b => dstUse d.any false ++ srcUse a.any false ++ srcUse b.any false
  | .clz _ d a => dstUse d.any false ++ srcUse a.any false
  | .popc _ d a => dstUse d.any false ++ srcUse a.any false
  | .bfx _ d a b => dstUse d.any false ++ srcUse a.any false ++ srcUse b.any false
  | .bfi _ _ a b => srcUse a.any false ++ srcUse b.any false
  | .cmp _ _ _ a b _ => srcUse a.any false ++ srcUse b.any false
  | .cmpi _ _ _ a _ _ => srcUse a.any false
  | .plog _ _ _ _ _ _ => []
  | .vadd _ d a b => dstUse d.any true ++ srcUse a.any true ++ srcUse b.any true
  | .vsub _ d a b => dstUse d.any true ++ srcUse a.any true ++ srcUse b.any true
  | .vmul _ d a b => dstUse d.any true ++ srcUse a.any true ++ srcUse b.any true
  | .vfma _ _ a b => srcUse a.any true ++ srcUse b.any true
  | .vfms _ _ a b => srcUse a.any true ++ srcUse b.any true
  | .vfnma _ _ a b => srcUse a.any true ++ srcUse b.any true
  | .vmin _ d a b => dstUse d.any true ++ srcUse a.any true ++ srcUse b.any true
  | .vmax _ d a b => dstUse d.any true ++ srcUse a.any true ++ srcUse b.any true
  | .vabs _ d a => dstUse d.any true ++ srcUse a.any true
  | .vneg _ d a => dstUse d.any true ++ srcUse a.any true
  | .vmov _ d a => dstUse d.any true ++ srcUse a.any true
  | .vbcast _ d a => dstUse d.any true ++ srcUse a.any false
  | .vcmp _ _ _ a b _ => srcUse a.any true ++ srcUse b.any true
  | .vsel _ _ a _ => srcUse a.any true
  | .vextr _ d a _ => dstUse d.any false ++ srcUse a.any true
  | .vrcps _ d a => dstUse d.any true ++ srcUse a.any true
  | .vrsqs _ d a => dstUse d.any true ++ srcUse a.any true
  | .vexp2s _ d a => dstUse d.any true ++ srcUse a.any true
  | .vlog2s _ d a => dstUse d.any true ++ srcUse a.any true
  | .vrnd _ d a _ => dstUse d.any true ++ srcUse a.any true
  | .vscale _ d a b => dstUse d.any true ++ srcUse a.any true ++ srcUse b.any true
  | .vcvti _ d a _ => dstUse d.any true ++ srcUse a.any true
  | .vcvtf _ d a _ => dstUse d.any true ++ srcUse a.any true
  | .vsrnd _ d a _ => dstUse d.any true ++ srcUse a.any true
  | .viadd _ d a b => dstUse d.any true ++ srcUse a.any true ++ srcUse b.any true
  | .visub _ d a b => dstUse d.any true ++ srcUse a.any true ++ srcUse b.any true
  | .vimul _ d a b => dstUse d.any true ++ srcUse a.any true ++ srcUse b.any true
  | .vimin _ d a b => dstUse d.any true ++ srcUse a.any true ++ srcUse b.any true
  | .vimax _ d a b => dstUse d.any true ++ srcUse a.any true ++ srcUse b.any true
  | .vand _ d a b => dstUse d.any true ++ srcUse a.any true ++ srcUse b.any true
  | .vor _ d a b => dstUse d.any true ++ srcUse a.any true ++ srcUse b.any true
  | .vxor _ d a b => dstUse d.any true ++ srcUse a.any true ++ srcUse b.any true
  | .vshl _ d a b => dstUse d.any true ++ srcUse a.any true ++ srcUse b.any true
  | .vshr _ d a b => dstUse d.any true ++ srcUse a.any true ++ srcUse b.any true
  | .vsar _ d a b => dstUse d.any true ++ srcUse a.any true ++ srcUse b.any true
  | .vicmp _ _ _ a b _ => srcUse a.any true ++ srcUse b.any true
  | .vperm _ d a b => dstUse d.any true ++ srcUse a.any true ++ srcUse b.any true
  | .vrot _ d a _ _ => dstUse d.any true ++ srcUse a.any true
  | .vreda _ _ a => srcUse a.any true
  | .vredmMax _ _ a => srcUse a.any true
  | .vredmMin _ _ a => srcUse a.any true
  | .vscan _ d a _ => dstUse d.any true ++ srcUse a.any true
  | .vcprs _ d a _ => dstUse d.any true ++ srcUse a.any true
  | .vxpnd _ d a _ => dstUse d.any true ++ srcUse a.any true
  | .klog _ _ _ _ _ _ => []
  | .kmovToMask _ _ a => srcUse a.any false
  | .kmovFromMask _ d _ => dstUse d.any false
  | .mcfg _ _ => []
  | .mldb _ q => [(false, q, true)]
  | .mrow _ o q => [(true, o, true)] ++ [(false, q, true)]
  | .mrowG _ o => [(true, o, true)]
  | .mgath _ a => srcUse a.any true
  | .mdrain _ o _ => [(true, o, true)]
  | .mdrainR _ o _ q _ => [(true, o, true)] ++ [(false, q, true)]
  | .mzero _ => []
  | .ldsN _ _ a => srcUse a.any false
  | .ldsW _ _ a => srcUse a.any false
  | .ldsWc _ _ a => srcUse a.any false
  | .sts _ r a _ => r.queue.toList.map (fun q => (false, q, false)) ++ srcUse a.any false
  | .feopClr _ r _ => r.queue.toList.map (fun q => (false, q, false))
  | .feopSet _ r _ => r.queue.toList.map (fun q => (false, q, false))
  | .ldg _ _ a => srcUse a.any false
  | .stg _ r a _ => r.queue.toList.map (fun q => (false, q, false)) ++ srcUse a.any false
  | .ldw _ _ _ _ => []
  | .aadd _ r _ _ => r.queue.toList.map (fun q => (false, q, false))
  | .afadd _ r _ _ => r.queue.toList.map (fun q => (false, q, false))
  | .amin _ r _ _ => r.queue.toList.map (fun q => (false, q, false))
  | .amax _ r _ _ => r.queue.toList.map (fun q => (false, q, false))
  | .aand _ r _ _ => r.queue.toList.map (fun q => (false, q, false))
  | .aor _ r _ _ => r.queue.toList.map (fun q => (false, q, false))
  | .axor _ r _ _ => r.queue.toList.map (fun q => (false, q, false))
  | .aswp _ r _ _ => r.queue.toList.map (fun q => (false, q, false))
  | .acas _ r _ _ => r.queue.toList.map (fun q => (false, q, false))
  | .fence _ r a _ _ => r.queue.toList.map (fun q => (false, q, false)) ++ srcUse a.any false
  | .bar _ q a _ => [(false, q, false)] ++ srcUse a.any false
  | .tset _ a => srcUse a.any false
  | .tcommit _ a => srcUse a.any false
  | .hnew _ q a b _ => [(false, q, false)] ++ srcUse a.any false ++ srcUse b.any false
  | .hdup _ r a => r.queue.toList.map (fun q => (false, q, false)) ++ srcUse a.any false
  | .hrel _ r a => r.queue.toList.map (fun q => (false, q, false)) ++ srcUse a.any false
  | .hweak _ d a => dstUse d.any false ++ srcUse a.any false
  | .hupg _ q a _ => [(false, q, false)] ++ srcUse a.any false
  | .hinfo _ q a => [(false, q, false)] ++ srcUse a.any false
  | .hprio _ r a _ => r.queue.toList.map (fun q => (false, q, false)) ++ srcUse a.any false
  | .sinitQs _ r _ => r.queue.toList.map (fun q => (false, q, false))
  | .sinitHh _ r _ => r.queue.toList.map (fun q => (false, q, false))
  | .sinitDc _ r _ => r.queue.toList.map (fun q => (false, q, false))
  | .qsins _ o a => [(true, o, true)] ++ srcUse a.any true
  | .hhins _ o a => [(true, o, true)] ++ srcUse a.any true
  | .dcins _ o a => [(true, o, true)] ++ srcUse a.any true
  | .smerge _ r a b => r.queue.toList.map (fun q => (false, q, false)) ++ srcUse a.any false ++ srcUse b.any false
  | .qread _ q _ => [(false, q, false)]
  | .qrank _ q _ => [(false, q, false)]
  | .hhget _ q _ => [(false, q, true)]
  | .dcest _ q _ => [(false, q, false)]
  | .tkinit _ r _ => r.queue.toList.map (fun q => (false, q, false))
  | .tkins _ o a b => [(true, o, true)] ++ srcUse a.any false ++ srcUse b.any false
  | .tkout _ q _ => [(false, q, true)]
  | .pfrag _ q a => [(false, q, false)] ++ srcUse a.any false
  | .pseq _ q a b => [(false, q, false)] ++ srcUse a.any false ++ srcUse b.any false
  | .povl _ q a b => [(false, q, false)] ++ srcUse a.any false ++ srcUse b.any false
  | .ppipe _ q _ b => [(false, q, false)] ++ srcUse b.any false
  | .pnest _ q _ b => [(false, q, false)] ++ srcUse b.any false
  | .prep _ q a b => [(false, q, false)] ++ srcUse a.any false ++ srcUse b.any false
  | .piface _ q _ => [(false, q, false)]
  | .pcost _ q a => [(false, q, false)] ++ srcUse a.any false
  | .plaunch _ q a b => [(false, q, false)] ++ srcUse a.any false ++ srcUse b.any false
  | .plaunchC _ q a b => [(false, q, false)] ++ srcUse a.any false ++ srcUse b.any false
  | .pfree _ r a => r.queue.toList.map (fun q => (false, q, false)) ++ srcUse a.any false
  | .xreq _ o a => [(true, o, true)] ++ srcUse a.any true
  | .xexp _ a => srcUse a.any false
  | .crdy _ q a => [(false, q, false)] ++ srcUse a.any false
  | .cslot _ q a => [(false, q, false)] ++ srcUse a.any false
  | .qpush _ q a _ => [(false, q, false)] ++ srcUse a.any true
  | .rnext _ q _ => [(false, q, true)]
  | _ => []

/-- The instruction writes an output port through codes 48 to 51, so that TAG may be set. MROW, MDRAIN and XREQ take no TAG (R330, R405). -/
def Instr.tagged (i : Instr) : Bool :=
  match i with
  | .rdsr _ d _ => plainPort d.any
  | .wfld _ d _ => plainPort d.any
  | .add _ d _ _ => plainPort d.any
  | .sub _ d _ _ => plainPort d.any
  | .mul _ d _ _ => plainPort d.any
  | .mulh _ d _ _ => plainPort d.any
  | .mulhu _ d _ _ => plainPort d.any
  | .div _ d _ _ => plainPort d.any
  | .divu _ d _ _ => plainPort d.any
  | .rem _ d _ _ => plainPort d.any
  | .remu _ d _ _ => plainPort d.any
  | .and _ d _ _ => plainPort d.any
  | .or _ d _ _ => plainPort d.any
  | .xor _ d _ _ => plainPort d.any
  | .shl _ d _ _ => plainPort d.any
  | .shr _ d _ _ => plainPort d.any
  | .sar _ d _ _ => plainPort d.any
  | .min _ d _ _ => plainPort d.any
  | .minu _ d _ _ => plainPort d.any
  | .max _ d _ _ => plainPort d.any
  | .maxu _ d _ _ => plainPort d.any
  | .clz _ d _ => plainPort d.any
  | .popc _ d _ => plainPort d.any
  | .bfx _ d _ _ => plainPort d.any
  | .vadd _ d _ _ => plainPort d.any
  | .vsub _ d _ _ => plainPort d.any
  | .vmul _ d _ _ => plainPort d.any
  | .vmin _ d _ _ => plainPort d.any
  | .vmax _ d _ _ => plainPort d.any
  | .vabs _ d _ => plainPort d.any
  | .vneg _ d _ => plainPort d.any
  | .vmov _ d _ => plainPort d.any
  | .vbcast _ d _ => plainPort d.any
  | .vextr _ d _ _ => plainPort d.any
  | .vrcps _ d _ => plainPort d.any
  | .vrsqs _ d _ => plainPort d.any
  | .vexp2s _ d _ => plainPort d.any
  | .vlog2s _ d _ => plainPort d.any
  | .vrnd _ d _ _ => plainPort d.any
  | .vscale _ d _ _ => plainPort d.any
  | .vcvti _ d _ _ => plainPort d.any
  | .vcvtf _ d _ _ => plainPort d.any
  | .vsrnd _ d _ _ => plainPort d.any
  | .viadd _ d _ _ => plainPort d.any
  | .visub _ d _ _ => plainPort d.any
  | .vimul _ d _ _ => plainPort d.any
  | .vimin _ d _ _ => plainPort d.any
  | .vimax _ d _ _ => plainPort d.any
  | .vand _ d _ _ => plainPort d.any
  | .vor _ d _ _ => plainPort d.any
  | .vxor _ d _ _ => plainPort d.any
  | .vshl _ d _ _ => plainPort d.any
  | .vshr _ d _ _ => plainPort d.any
  | .vsar _ d _ _ => plainPort d.any
  | .vperm _ d _ _ => plainPort d.any
  | .vrot _ d _ _ _ => plainPort d.any
  | .vreda _ d _ => plainPort d
  | .vredmMax _ d _ => plainPort d
  | .vredmMin _ d _ => plainPort d
  | .vscan _ d _ _ => plainPort d.any
  | .vcprs _ d _ _ => plainPort d.any
  | .vxpnd _ d _ _ => plainPort d.any
  | .kmovFromMask _ d _ => plainPort d.any
  | .hweak _ d _ => plainPort d.any
  | .qsins _ _ _ => true
  | .hhins _ _ _ => true
  | .dcins _ _ _ => true
  | .tkins _ _ _ _ => true
  | _ => false

end Sys2Proof
end

