-- ==== Sys2Proof/Machine/TileMem.lean ====
section
/-!
DEFINITION. The SRAM of memory tiles, its full-empty bits and local addresses (R20, R123 to R125).
-/
namespace Sys2Proof.Machine

/-- The key of a byte of a tile's SRAM. -/
def sramKey (t off : Nat) : Nat := t * 2 ^ 19 + off

/-- Bytes of a tile's SRAM. -/
def State.sramBytes (s : State) (t off n : Nat) : List Byte := readBytes s.sram (sramKey t off) n

/-- Bytes written to a tile's SRAM. -/
def State.putSram (s : State) (t off : Nat) (bs : List Byte) : State := { s with sram := writeBytes s.sram (sramKey t off) bs }

/-- The full-empty bit of a granule (R125). -/
def State.isFull (s : State) (t g : Nat) : Bool := SMap.read false s.full (t * 2 ^ 15 + g)

/-- A full-empty bit written. -/
def State.setFull (s : State) (t g : Nat) (b : Bool) : State := { s with full := SMap.write false s.full (t * 2 ^ 15 + g) b }

/-- The granules that `n` bytes at an offset touch. -/
def granules (off n : Nat) : List Nat := if n = 0 then [] else (List.range ((off + n - 1) / 16 + 1 - off / 16)).map (fun i => off / 16 + i)

/-- Every granule of a range is full. -/
def State.allFull (s : State) (t off n : Nat) : Bool := (granules off n).all (s.isFull t)

/-- The full-empty bits of a range written. -/
def State.setFulls (s : State) (t off n : Nat) (b : Bool) : State := (granules off n).foldl (fun s g => s.setFull t g b) s

/-- Bytes written, their granules set to full (R125). -/
def State.storeSram (s : State) (t off : Nat) (bs : List Byte) : State := (s.putSram t off bs).setFulls t off bs.length true

/-- The size of the fragment instance that holds a leaf's tiles. -/
def Region.fragSize (r : Region) (leaf : Nat) : Nat × Nat :=
  match r.plan.leaves[leaf]? with
  | some l => (l.hdr.w, l.hdr.h)
  | none => (r.w, r.h)

/-- The memory tile that a local address names, if it lies in the fragment instance (R124). -/
def Region.localTile (r : Region) (leaf a : Nat) : Option Nat :=
  let fx := bits a 24 19
  let fy := bits a 29 25
  let (w, h) := r.fragSize leaf
  let (ox, oy) := r.leafAt leaf
  let x := r.x0 + ox + fx
  if decide (fx < w) && decide (fy < h) && isMemCol x then some (tileNo r.die x (r.y0 + oy + fy)) else none

/-- The checks of R124 on a local address: the tile and the offset, or ProtectionFault with the address as its detail. -/
def Region.localAddr (r : Region) (leaf : Nat) (a : Word) (size align : Nat) : Except FaultInfo (Nat × Nat) :=
  let n := a.toNat
  let off := bits n 18 0
  match r.localTile leaf n with
  | none => .error ⟨kProt, 1, a⟩
  | some t =>
    if bits n 63 30 != 0 then .error ⟨kProt, 1, a⟩
    else if off % align != 0 || decide (2 ^ 19 < off + size) then .error ⟨kProt, 3, a⟩
    else .ok (t, off)

/-- The mode of a memory tile (R119). -/
def MTile.mode (m : MTile) : Nat := bits m.ctrl.toNat 2 0

/-- A row of an FP32 C panel: column `n` of row `r` at byte 64r + 4n (R123). -/
def State.cElem (s : State) (t row n : Nat) : Nat := leNat (s.sramBytes t (64 * row + 4 * n) 4)

/-- An element of a C panel written. -/
def State.putC (s : State) (t row n v : Nat) : State := s.putSram t (64 * row + 4 * n) (leBytes 4 v)

/-! ## Banks (R20, R126) -/

/-- The banks that `n` bytes at an offset touch: 16 banks of 32 KiB in address order. -/
def banksOf (off n : Nat) : List Nat := [off / 32768, (off + n - 1) / 32768].eraseDups

/-- The banks are free in this cycle. -/
def State.banksFree (s : State) (t : Nat) (bs : List Nat) : Bool :=
  match s.mem? t with
  | none => true
  | some m => bs.all (fun b => match SMap.find? m.banks b with | none => true | some c => decide (c < s.cycle))

/-- The banks serve a request in this cycle. -/
def State.useBanks (s : State) (t : Nat) (bs : List Nat) : State :=
  s.modMem t (fun m => { m with banks := bs.foldl (fun x b => SMap.put x b s.cycle) m.banks })

end Sys2Proof.Machine
end

