-- ==== Sys2Proof/Machine/Requests.lean ====
section
/-!
DEFINITION. Requests that a firing sends to another unit (R156), and their replies; transit times to memory tiles (R126).
-/
namespace Sys2Proof.Machine

/-- A request of a firing: its operands, and the cycle in which it reaches its unit. -/
def State.request (s : State) (e : Env) (i : Instr) (x y z : Word) (pay : Payload) (due : Nat) : Req := {
  id := s.nextId, tile := e.site.tile, ctx := e.site.ctx, slot := e.site.slot, region := e.ctx.region, leaf := e.ctx.leaf,
  task := e.region.task, q := i.shape.reply, pred := i.shape.pred, op := i, x := x, y := y, z := z, pay := pay, arcs := e.arcs,
  rel := none, due := due, st := .sent }

/-- A request begins; its name is taken. -/
def State.ask (s : State) (r : Req) : State := State.fresh { s with reqs := s.reqs ++ [r] }

/-- A request is sent. -/
def State.issue (s : State) (e : Env) (i : Instr) (x y z : Word) (pay : Payload) (due : Nat) : State := s.ask (s.request e i x y z pay due)

/-- A request that is answered at its firing: without a reply queue it leaves nothing to come. -/
def State.askDone (s : State) (r : Req) (a : Reply) : State :=
  match r.q with
  | none => s.fresh
  | some _ => s.ask { r with st := .done a }

/-- A check that fails at the firing: the fault returns in the reply queue at `due`, or without one the firing faults (R310, R373); without a
free record entry the region stops (R210). -/
def State.issueFaultAt (s : State) (e : Env) (i : Instr) (f : FaultInfo) (due : Nat) : Res :=
  match i.shape.reply with
  | none => .fault f
  | some _ =>
    let (fx, fy) := e.region.rel e.ctx.leaf e.site.tile
    let w := faultWord f fx fy e.site.ctx.val e.site.slot.val false
    match e.region.freeRec with
    | none => .done (s.fresh.stopRegion e.ctx.region f (w 0)).tick 0
    | some n =>
      let s1 := s.modRegion e.ctx.region (fun x => { x with frec := Vector.upd x.frec n (some f.detail) })
      .done (s1.ask { s.request e i 0 0 0 (.s 0) due with st := .done ⟨.s (w n), true, none, {}⟩ }).tick 0

/-- A check that fails at the firing, with the time of a tile's reply. -/
def State.issueFault (s : State) (e : Env) (i : Instr) (f : FaultInfo) : Res := s.issueFaultAt e i f (s.after 4)

/-- The transit of a request from an element to a memory tile, and of its reply back: 2 cycles to the home tile, one for each further row or column between
the element and the tile, one for the pass-through lane of column 0 (R8, R126, R324). -/
def transit (elem tile : Nat) : Nat :=
  let dist (a b : Nat) : Nat := (a - b) + (b - a)
  2 + dist (tileY elem) (tileY tile) + (dist (tileX elem) (tileX tile) - dist (tileX elem) (tileX (homeTile elem))) + (if tileX elem = 0 then 1 else 0)

/-- The kind of a reply queue: IQKIND (R22). -/
def State.vectorQueue (s : State) (t : Nat) (q : Option (Fin 4)) : Bool :=
  match s.tile? t, q with
  | some x, some q => x.iqKind.getLsbD q.val
  | _, _ => false

/-- The bytes of an access by kind. -/
def accessSize (vector : Bool) : Nat := if vector then 80 else 8
/-- The alignment of a tile access or of a global access by kind. -/
def accessAlign (vector : Bool) : Nat := if vector then 16 else 8

/-- A reply of bytes: 8 for a scalar queue, 80 for a vector queue, unconverted (R321, R323). -/
def bytesPay (vector : Bool) (bs : List Byte) : Payload := if vector then .v (bytesVec bs) else .s (BitVec.ofNat 64 (leNat bs))

/-- The order in which requests of one cycle are served: arrival, then row, column and context of the issuer (R126). -/
def Req.before (a b : Req) : Bool :=
  decide (a.due < b.due) || (a.due == b.due && (decide (a.tile < b.tile) || (a.tile == b.tile && (decide (a.ctx < b.ctx)
    || (a.ctx == b.ctx && decide (a.id < b.id))))))

/-- The requests that have reached their unit, in the order of service. -/
def State.arrived (s : State) (p : Req → Bool) : List Req :=
  sortBy Req.before (s.reqs.filter (fun r => r.st == .sent && decide (r.due ≤ s.cycle) && p r))

end Sys2Proof.Machine
end

