-- ==== Sys2Proof/Machine/Mem.lean ====
section
/-!
DEFINITION. The memory behind the port tiles: port caches and pending versions (R132 to R134, R166, R167), range entries, pages and page walks (R135 to
R138, R145), range logs (R131), reuse counters (R262), release records (R175).

A byte of the package's own memory has its local physical address as key; a byte of another package, or of the host, has its domain physical
address plus 2^40, so that every key of the package's own memory is below 2^40.
-/
namespace Sys2Proof.Machine

/-! ## Addresses (R239) -/

/-- A package number that no package of the domain has (R239). -/
def badPkg (k : Nat) : Bool := let p := keyPkg k; p != hostPkg && p != ioPkg && p != Config.ownPackage && decide (Config.domainPackages ≤ p)

/-- All four dies. -/
def fourDies : List Nat := [0, 1, 2, 3]

/-- A die's bit in a set of dies. -/
def dieBit (d : Nat) : BitVec 4 := 1 <<< (d % 4)

/-! ## Port caches (R132 to R134) -/

/-- The key of a line in the port caches of a die. -/
def lineKey (die line : Nat) : Nat := die * 2 ^ 44 + line

/-- A sector as a die's port caches hold it; `sec` is its key divided by 64. -/
def State.sector (s : State) (die sec : Nat) : Sector :=
  match SMap.find? s.lines (lineKey die (sec / 4)) with
  | none => Sector.empty
  | some l => Vector.at (n := 3) l.secs sec

/-- Byte `n` of a sector. -/
def secByte (d : BitVec 512) (n : Nat) : Byte := d.extractLsb' (8 * (n % 64)) 8

/-- Byte `n` of a sector written. -/
def secPut (d : BitVec 512) (n : Nat) (b : Byte) : BitVec 512 :=
  (d &&& ~~~ ((0xFF : BitVec 512) <<< (8 * (n % 64)))) ||| (b.setWidth 512 <<< (8 * (n % 64)))

/-- A sector's bytes written, marked dirty. -/
def Sector.put (x : Sector) (n : Nat) (b : Byte) : Sector := { x with dirty := x.dirty ||| (1 <<< (n % 64)), data := secPut x.data n b }

/-- The die whose port cache holds a byte as committed contents that have not been written back (R134, R167). -/
def State.comDie (s : State) (k : Nat) : Option Nat := fourDies.find? (fun d => (s.sector d (k / 64)).com.getLsbD (k % 64))

/-- The byte that a port cache fills from: committed contents in the port cache of a die, else memory. -/
def State.packByte (s : State) (k : Nat) : Byte :=
  match s.comDie k with
  | some d => secByte (s.sector d (k / 64)).data k
  | none => SMap.read 0 s.hbm k

/-- A byte of host memory as its coherence gives it: a byte that a port cache of the device holds written, else memory (R238). -/
def State.hostByte (s : State) (k : Nat) : Byte :=
  match fourDies.find? (fun d => (s.sector d (k / 64)).dirty.getLsbD (k % 64)) with
  | some d => secByte (s.sector d (k / 64)).data k
  | none => SMap.read 0 s.hbm k

/-- The committed byte as a die sees it: its own port cache, else what this fills from. -/
def State.dieByte (s : State) (die k : Nat) : Byte :=
  if isIo k then s.hostByte (memKey k)
  else
    let x := s.sector die (k / 64)
    if x.valid || x.dirty.getLsbD (k % 64) then secByte x.data k else s.packByte k

/-- The pending version of a task that holds a byte written by it (R166). -/
def State.ownPending (s : State) (t k : Nat) : Option Pending := s.pend.find? (fun p => p.task == t && p.sec == memKey k / 64 && p.mask.getLsbD (k % 64))

/-- The byte that an access of a task sees on a die: the task's own pending version, else the committed contents (R166). -/
def State.seenByte (s : State) (die : Nat) (task : Option Nat) (k : Nat) : Byte :=
  match task.bind (fun t => s.ownPending t k) with
  | some p => secByte p.data k
  | none => s.dieByte die k

/-- Bytes as an access sees them. -/
def State.seen (s : State) (die : Nat) (task : Option Nat) (k n : Nat) : List Byte := (List.range n).map (fun i => s.seenByte die task (k + i))

/-- A line of a die holds a pending version (R134). -/
def State.linePending (s : State) (die line : Nat) : Bool := s.pend.any (fun p => p.die == die && p.sec / 4 == line)

/-- The lines that stand in one set with a line (R132). -/
def State.sameSet (s : State) (die line : Nat) : SMap Line :=
  s.lines.filter (fun e => e.1 / 2 ^ 44 == die && s.homePort die (e.1 % 2 ^ 44 * 256) == s.homePort die (line * 256)
    && Config.cacheSet (e.1 % 2 ^ 44) % 256 == Config.cacheSet line % 256)

/-- The lines of a set that may be evicted: a pending line never is (R134). -/
def State.evictable (s : State) (die line : Nat) : SMap Line := (s.sameSet die line).filter (fun e => !s.linePending die (e.1 % 2 ^ 44))

/-- A line can be held: it is, or its set has room, or a line of the set may be evicted. -/
def State.canHold (s : State) (die line : Nat) : Bool :=
  (SMap.find? s.lines (lineKey die line)).isSome || decide ((s.sameSet die line).length < 16) || !(s.evictable die line).isEmpty

/-- The dirty bytes of a sector written to memory. -/
def State.flushSector (s : State) (sec : Nat) (x : Sector) : State :=
  { s with hbm := (List.range 64).foldl (fun m i => if x.dirty.getLsbD i then SMap.write 0 m (sec * 64 + i) (secByte x.data i) else m) s.hbm }

/-- The contents at the home of a byte, as the package's parties see it: what the home die's port cache holds written, else committed contents of
another, else memory. -/
def State.homeByte (s : State) (k : Nat) : Byte :=
  if isIo k then s.hostByte (memKey k)
  else
    match homeDie k with
    | some d => let x := s.sector d (k / 64); if x.dirty.getLsbD (k % 64) then secByte x.data k else s.packByte k
    | none => s.packByte k

/-- The contents at the home of an address. -/
def State.homeBytes (s : State) (k n : Nat) : List Byte := (List.range n).map (fun i => s.homeByte (k + i))

/-- The contents at the home of an address as a number. -/
def State.homeWord (s : State) (k n : Nat) : Nat := leNat (s.homeBytes k n)

/-- The condition of a WAIT holds. -/
def State.waitHolds (s : State) (k : Packet) : Bool :=
  let v := s.homeWord (domKey (k.word 2)) 8
  match k.word 4 with
  | 0 => decide (k.word 3 ≤ v)
  | 1 => v == k.word 3
  | _ => v != k.word 3

/-- Lines have been written: the WAITs that keep their slots and whose signal lies there are tested again (R201). -/
def State.retest (s : State) (lines : List Nat) : State :=
  let hit (p : Packet) : Bool := p.st == .waiting && p.kind == 3 && lines.contains (memKey (domKey (p.word 2)) / 256) && s.waitHolds p
  if s.packets.any hit then { s with packets := mapIf hit (fun p => { p with met := true }) s.packets } else s

/-- The dirty bytes of a line of a die written to memory (R133). -/
def State.writeBackLine (s : State) (key : Nat) (l : Line) : State :=
  let line := key % 2 ^ 44
  let s := (List.range 4).foldl (fun s i => s.flushSector (line * 4 + i) (Vector.at (n := 3) l.secs i)) s
  let clean (x : Sector) : Sector := { x with dirty := 0, com := 0 }
  State.retest { s with lines := SMap.put s.lines key { l with secs := l.secs.map clean } } [line]

/-- A line is held by its home port of a die; a set that is full evicts one of its lines, and one that is full of pending lines takes none (log 92). -/
def State.hold (s : State) (die line : Nat) : State :=
  match SMap.find? s.lines (lineKey die line) with
  | some l => { s with lines := SMap.put s.lines (lineKey die line) { l with use := s.cycle } }
  | none =>
    let put (s : State) : State :=
      { s with lines := SMap.put s.lines (lineKey die line) ⟨Vector.mk #[Sector.empty, Sector.empty, Sector.empty, Sector.empty] rfl, s.cycle⟩ }
    if (s.sameSet die line).length < 16 then put s
    else
      let ev := s.evictable die line
      match ev[Config.victim s.freeCtr % ev.length]? with
      | none => s
      | some (k, l) => let s := (s.writeBackLine k l).tick; put { s with lines := SMap.erase s.lines k }

/-- A sector of a die changed, where its line is held. -/
def State.modSector (s : State) (die sec : Nat) (f : Sector → Sector) : State :=
  match SMap.find? s.lines (lineKey die (sec / 4)) with
  | none => s
  | some l => { s with lines := SMap.put s.lines (lineKey die (sec / 4)) { l with secs := Vector.upd (n := 3) l.secs sec (f (Vector.at (n := 3) l.secs sec)) } }

/-- A sector filled: the bytes that are not dirty come from memory, or from committed contents elsewhere in the package. -/
def State.fillSector (s : State) (die sec : Nat) : State :=
  s.modSector die sec (fun x =>
    if x.valid then x
    else
      { x with
        valid := true
        data := (List.range 64).foldl (fun d i => if x.dirty.getLsbD i then d else secPut d i (s.packByte (sec * 64 + i))) x.data })

/-- A read brings its lines and fills its sectors (R133); uncached host space is in no port cache (R239). -/
def State.touch (s : State) (die k n : Nat) : State :=
  if isIo k then s else (sectorsOf k n).foldl (fun s sec => (s.hold die (sec / 4)).fillSector die sec) s

/-- Committed contents of a line that other dies hold are written back before a die writes there (log 92). -/
def State.settleLine (s : State) (die line : Nat) : State :=
  (fourDies.filter (· != die)).foldl (fun (s : State) d =>
    match SMap.find? s.lines (lineKey d line) with
    | some l => if l.secs.toList.any (fun x => x.com != 0) then s.writeBackLine (lineKey d line) l else s
    | none => s) s

/-- A byte of a pending version written. -/
def State.pendByte (s : State) (die task k : Nat) (b : Byte) : State :=
  if s.pend.any (fun p => p.task == task && p.sec == k / 64) then
    let put (p : Pending) : Pending := { p with mask := p.mask ||| (1 <<< (k % 64)), data := secPut p.data k b }
    { s with pend := mapIf (fun p => p.task == task && p.sec == k / 64) put s.pend }
  else { s with pend := s.pend ++ [⟨task, die, k / 64, 1 <<< (k % 64), secPut 0 k b⟩] }

/-- Bytes written by an ordered task (R166). -/
def State.storePending (s : State) (die task k : Nat) (bs : List Byte) : State :=
  let k := memKey k
  let s := (linesOf k bs.length).foldl (fun s l => s.hold die l) s
  bs.zipIdx.foldl (fun s (b, i) => s.pendByte die task (k + i) b) s

/-- Bytes written to memory itself; no port cache of the package keeps a copy of their sectors, and no dirty byte of theirs stays (R238). -/
def State.storeHome (s : State) (k : Nat) (bs : List Byte) : State :=
  let k := memKey k
  let n := bs.length
  let drop (key : Nat) (l : Line) : Line :=
    let base := key % 2 ^ 44 * 256
    let sec (i : Fin 4) : Sector :=
      let x := l.secs.get i
      let lo := base + 64 * i.val
      let left (d : BitVec 64) (j : Nat) : BitVec 64 := if k ≤ lo + j ∧ lo + j < k + n then d &&& ~~~ ((1 : BitVec 64) <<< j) else d
      if k < lo + 64 ∧ lo < k + n then { x with valid := false, dirty := (List.range 64).foldl left x.dirty, com := (List.range 64).foldl left x.com } else x
    { l with secs := Vector.ofFn sec }
  State.retest { s with hbm := writeBytes s.hbm k bs, lines := s.lines.map (fun (key, l) => (key, drop key l)) } (linesOf k n)

/-- Bytes written by an unordered task, or by no task, on a die. -/
def State.storeDie (s : State) (die k : Nat) (bs : List Byte) : State :=
  if isIo k then s.storeHome k bs
  else
    let ls := linesOf k bs.length
    let s := ls.foldl (fun (s : State) l => (s.settleLine die l).hold die l) s
    (bs.zipIdx.foldl (fun (s : State) (b, i) => s.modSector die ((k + i) / 64) (fun x => x.put (k + i) b)) s).retest ls

/-- The bytes that a task has written of a sector become committed contents, dirty in the port cache that holds them (R134, R167); other dies hold no
older bytes there. -/
def State.commitSector (s : State) (p : Pending) : State :=
  let s := (s.settleLine p.die (p.sec / 4)).hold p.die (p.sec / 4)
  let bytes := (List.range 64).filter (fun i => p.mask.getLsbD i)
  if (SMap.find? s.lines (lineKey p.die (p.sec / 4))).isSome then
    let s := (fourDies.filter (· != p.die)).foldl (fun (s : State) d =>
      s.modSector d p.sec (fun x => { x with valid := false, dirty := x.dirty &&& ~~~ p.mask, com := x.com &&& ~~~ p.mask })) s
    let put (x : Sector) : Sector := bytes.foldl (fun x i => x.put i (secByte p.data i)) { x with com := x.com ||| p.mask }
    (s.modSector p.die p.sec put).retest [p.sec / 4]
  else bytes.foldl (fun (s : State) i => s.storeHome (p.sec * 64 + i) [secByte p.data i]) s

/-- A line of a die overlaps a range. -/
def lineMeets (key : Nat) (r : Rng) : Bool := let base := key % 2 ^ 44 * 256; decide (base ≤ r.hi) && decide (r.lo < base + 256)

/-- The dirty sectors of the lines of a die within a range are written back (R133, R175). -/
def State.writeBack (s : State) (die : Nat) (r : Rng) : State :=
  (s.lines.filter (fun e => e.1 / 2 ^ 44 == die && lineMeets e.1 r)).foldl (fun s (key, l) => s.writeBackLine key l) s

/-- A die invalidates its copies of the lines within a range; bytes that the die itself has written stay (R167, R175). -/
def State.invalidate (s : State) (die : Nat) (r : Rng) : State :=
  { s with lines := s.lines.map (fun (key, l) =>
      if key / 2 ^ 44 = die && lineMeets key r then (key, { l with secs := l.secs.map (fun x => { x with valid := false }) }) else (key, l)) }

/-- What a host's access reads (R167, R238): its own memory is coherent with the device's caches; of the package's memory it sees what the home die's
port cache holds written, but for the committed contents of ordered tasks, which reach the host by a release or a write-back. -/
def State.forHost (s : State) (k : Nat) : Byte :=
  if isHost k then s.hostByte (memKey k)
  else
    match homeDie k with
    | some d =>
      let x := s.sector d (k / 64)
      if x.dirty.getLsbD (k % 64) && !x.com.getLsbD (k % 64) then secByte x.data k else SMap.read 0 s.hbm k
    | none => SMap.read 0 s.hbm k

/-- What the front end, the Nickel core and Pewter write. -/
def State.putHome (s : State) (k n x : Nat) : State := s.storeHome k (leBytes n x)

/-! ## Stores that must wait (R134, R166) -/

/-- The task of a number is ordered and not committed. -/
def State.orderedTask (s : State) (t : Nat) : Option Nat :=
  match s.task? t with
  | some x => if x.ordered then some t else none
  | none => none

/-- A task is younger than another. -/
def State.younger (s : State) (a b : Nat) : Bool :=
  match s.task? a, s.task? b with
  | some x, some y => keyLt (s.keyOf y) (s.keyOf x)
  | _, _ => false

/-- The tasks whose pending versions keep a store of a task from a line or a sector. -/
def State.storeBlockers (s : State) (die : Nat) (task : Option Nat) (k n : Nat) : List Nat :=
  let byLine := (linesOf k n).flatMap (fun l =>
    if s.canHold die l then []
    else (s.sameSet die l).flatMap (fun e => (s.pend.filter (fun p => p.die == die && p.sec / 4 == e.1 % 2 ^ 44)).map Pending.task))
  let bySec := match task with
    | none => []
    | some t => (sectorsOf k n).flatMap (fun sec =>
      let ps := s.pend.filter (fun p => p.die == die && p.sec == sec && p.task != t)
      if s.pend.any (fun p => p.die == die && p.sec == sec && p.task == t) || decide (ps.length < 4) then [] else ps.map Pending.task)
  (byLine ++ bySec).eraseDups

/-- The youngest of some tasks. -/
def State.youngest (s : State) (ts : List Nat) : Option Nat :=
  match ts with
  | [] => none
  | t :: rest => some (rest.foldl (fun a b => if s.younger b a then b else a) t)

/-- The task that the port aborts so that a store of the oldest task can go on: the youngest of the younger tasks in its way. -/
def State.abortFor (s : State) (task : Nat) (blockers : List Nat) : Option Nat :=
  match s.task? task with
  | none => none
  | some t => if t.ordered && s.isOldest t then s.youngest (blockers.filter (fun b => s.younger b task)) else none

/-! ## Range logs (R131) -/

/-- A running pair of a region at a port widened by an access. -/
def Region.widen (r : Region) (die port : Nat) (write : Bool) (x : Rng) : Region :=
  let mine (p : RunPair) : Bool := p.die == die && p.port == port && p.write == write
  if r.pairs.any mine then { r with pairs := mapIf mine (fun p => { p with rng := p.rng.cover x }) r.pairs }
  else { r with pairs := r.pairs ++ [⟨die, port, write, x⟩] }

/-- The closed range of `n` bytes. -/
def rngOf (k n : Nat) : Rng := ⟨k, k + n - 1⟩

/-- The pair of a stream port of a region widened by an access of a stream (R131). -/
def Region.widenStream (r : Region) (port : Nat) (write : Bool) (xs : List (Nat × Nat)) : Region :=
  let mine (p : StreamPair) : Bool := p.port == port && p.write == write
  xs.foldl (fun (r : Region) (k, n) =>
    if r.spairs.any mine then { r with spairs := mapIf mine (fun p => { p with rng := p.rng.cover (rngOf k n) }) r.spairs }
    else { r with spairs := r.spairs ++ [⟨port, write, rngOf k n⟩] }) r

/-- The pair that a stream's closing enters into the log of its region. -/
def Region.streamPair (r : Region) (port : Nat) (write : Bool) : List Rng := (r.spairs.filter (fun p => p.port == port && p.write == write)).map StreamPair.rng

/-- The running pairs of a region, as they enter its logs when its task completes. -/
def Region.closePairs (r : Region) : Region :=
  { r with
    wlog := addRngs 64 r.wlog ((r.pairs.filter RunPair.write).map RunPair.rng)
    rlog := addRngs 64 r.rlog ((r.pairs.filter (fun p => !p.write)).map RunPair.rng)
    pairs := [] }

/-! ## Reuse counters (R262) -/

/-- The bin of a reuse distance: the least b with d + 1 < 2^(b + 1). -/
def reuseBin (d : Nat) : Nat := min 15 (Nat.log2 (d + 1))

/-- A bin counts one more. -/
def Reuse.count (u : Reuse) (b : Nat) : Reuse := { u with bins := modifyAt u.bins b (fun x => min (x + 1) 0xFFFFFFFF) }

/-- One access of a region to a line, as the port's tag registers see it (R262): a sample of another line that has seen no reuse within 2^16 accesses
goes to bin 15. -/
def Reuse.access (u : Reuse) (line : Nat) : Reuse :=
  let u := { u with n := u.n + 1 }
  let u := u.tags.foldl (fun (u : Reuse) (l, at') =>
    if l != line && decide (2 ^ 16 ≤ u.n - at') then { u.count 15 with tags := u.tags.filter (fun t => t.1 != l) } else u) u
  match u.tags.find? (fun t => t.1 == line) with
  | some (_, at') => { u.count (reuseBin (u.n - at' - 1)) with tags := u.tags.filter (fun t => t.1 != line) }
  | none =>
    let u := { u with fresh := u.fresh + 1 }
    if u.fresh % 256 = 0 && decide (u.tags.length < 64) then { u with tags := u.tags ++ [(line, u.n)] } else u

/-- A region's accesses counted at the home ports of a die. -/
def State.reuse (s : State) (region die k n : Nat) : State :=
  (linesOf k n).foldl (fun s line =>
    let port := s.homePort die (line * 256)
    s.modRegion region (fun r =>
      let mine (u : Reuse) : Bool := u.die == die && u.port == port
      if r.reuse.any mine then { r with reuse := mapIf mine (fun u => u.access line) r.reuse }
      else { r with reuse := r.reuse ++ [Reuse.access ⟨die, port, 0, 0, [], List.replicate 16 0⟩ line] })) s

/-! ## Translation (R135 to R138) -/

/-- What an access needs of its entry. -/
inductive Need where
  | rd
  | wr
  | atom
deriving DecidableEq, Repr

/-- The outcome of a translation: an address with the page entry that it went through, a fault, a page that is not resident, a page entry that is not
in the port's page-translation cache. -/
inductive Trans where
  | ok (k : Nat) (pte : Option Nat)
  | fault (f : FaultInfo)
  | absent (pte tableBase page pages : Nat)
  | walk (pte : Nat)
deriving DecidableEq, Repr

/-- An entry matches an address (R136). -/
def RangeEnt.hits (r : RangeEnt) (a : Nat) : Bool := r.valid && decide (r.vbase ≤ a) && decide (a < r.vbase + r.size * 65536)

/-- An entry permits an access. -/
def RangeEnt.permits (r : RangeEnt) (n : Need) : Bool :=
  match n with
  | .rd => r.rd
  | .wr => r.wr
  | .atom => r.atom

/-- The key of an address of an unpaged range or of a page table (R135, R136). -/
def RangeEnt.keyAt (r : RangeEnt) (off : Nat) : Nat := if r.dom then domKey (r.pbase + off) else (r.pbase + off) % 2 ^ 40

/-- The frame of a page entry as a key (R137). -/
def pteKey (e : Nat) : Nat := domKey (bits e 49 15 * 32768)

/-- A page-table entry as a port tile has it in its page-translation cache, or, for no port tile, as it stands in memory. -/
def State.pteOf (s : State) (pt : Option Nat) (pte : Nat) : Option Nat :=
  match pt with
  | none => some (s.homeWord pte 8)
  | some p => ((s.portTile p).tlb.find? (fun e => e.1 == pte)).map Prod.snd

/-- A virtual address translated through range entries, at a port tile (R136, R137). -/
def State.translate (s : State) (pt : Option Nat) (ents : List RangeEnt) (a : Nat) (n align : Nat) (need : Need) : Trans :=
  let trans : Trans := .fault ⟨kTrans, 0, BitVec.ofNat 64 a⟩
  let prot (c : Nat) : Trans := .fault ⟨kProt, c, BitVec.ofNat 64 a⟩
  if bits a 63 56 != 0 then trans
  else
    match ents.find? (fun e => e.hits a) with
    | none => trans
    | some e =>
      if !e.permits need then prot 0
      else if a % align != 0 || decide (e.vbase + e.size * 65536 < a + n) then prot 3
      else if e.paged then
        let j := (a - e.vbase) / 32768
        let tb := e.keyAt 0
        match s.pteOf pt (tb + 8 * j) with
        | none => .walk (tb + 8 * j)
        | some pte =>
          if bit pte 0 then
            let k := pteKey pte + (a - e.vbase) % 32768
            if badPkg k then trans else .ok k (some (tb + 8 * j))
          else if bit pte 1 then .absent (tb + 8 * j) tb j (e.size * 2)
          else trans
      else
        let k := e.keyAt (a - e.vbase)
        if badPkg k then trans else .ok k none

/-- A page walk waits at a port tile (R145). -/
def State.askWalk (s : State) (pt pte : Nat) : State :=
  if (s.portTile pt).walks.contains pte then s else s.modPort pt (fun p => { p with walks := p.walks ++ [pte] })

/-- A page walk of a port tile, as system traffic (R137, R145): the entry enters its page-translation cache of 256, in which it takes the place of another
where these are all used. -/
def State.walkPage (s : State) (pt : Nat) : State :=
  if !s.portFree pt then s
  else
    match (s.portTile pt).walks with
    | [] => s
    | pte :: rest =>
      let e := (pte, s.homeWord pte 8)
      let put (l : List (Nat × Nat)) : List (Nat × Nat) := if l.length < 256 then l ++ [e] else l.set (Config.victim s.freeCtr % 256) e
      ((((s.modPort pt (fun p => { p with walks := rest, tlb := put (p.tlb.filter (fun x => x.1 != pte)) })).usePort pt 6 none).watchSys pte 8 0)).tick

/-- The Nickel core invalidates an entry in the page-translation cache of every port (R137). -/
def State.dropPte (s : State) (pte : Nat) : State := { s with ports := s.ports.map (fun (n, p) => (n, { p with tlb := p.tlb.filter (fun e => e.1 != pte) })) }

/-- The Nickel core writes a page-table entry. -/
def State.putPte (s : State) (pte w : Nat) : State := ((s.putHome pte 8 w).watchSys pte 8 1).dropPte pte

/-- The first store to a resident page sets its DIRTY bit (R137). -/
def State.dirtyPage (s : State) (pte : Option Nat) : State :=
  match pte with
  | none => s
  | some p => let w := s.homeWord p 8; if bit w 2 then s else (s.putHome p 8 (w + 4)).watchSys p 8 1

/-- A fetch of a page begins, if none is under way (R138). -/
def State.fetchPage (s : State) (region va pte tableBase page pages : Nat) : State :=
  if s.fetches.any (fun f => f.pte == pte) then s
  else
    let f : Fetch := ⟨s.nextId, pte, tableBase, page, pages, region, va, s.time⟩
    (State.fresh (State.at { s with fetches := s.fetches ++ [f] } (s.after 1) (.pageFetchComplete f.id))).tick

/-- The range entries of a region at a stream port. -/
def Region.entries (r : Region) (port sport : Nat) : List RangeEnt := (SMap.find? r.ports (port * 4 + sport)).getD []

/-- An access that cannot be translated waits: for a page, which is fetched, or for a page walk of its port tile. -/
def State.holdAccess (s : State) (pt region va : Nat) (t : Trans) (mark : State → State) : State :=
  match t with
  | .absent pte tb page pages => (mark s.dropAbsent).fetchPage region va pte tb page pages
  | .walk pte => s.askWalk pt pte
  | .ok _ _ | .fault _ => s

/-- The port tile that faces an element's row (R9). -/
def rowPort (tile : Nat) : Nat := 16 + tileY tile / 2

/-- The port tile that faces a memory tile's column (R250). -/
def colPort (tile : Nat) : Nat := (tileX tile - 2) / 3

/-! ## Accesses -/

/-- The size and the alignment of an element's access, and what it needs of its range. -/
def accessOf (s : State) (r : Req) : Nat × Nat × Need :=
  match r.op with
  | .ldg _ _ _ => let v := s.vectorQueue r.tile r.q; (accessSize v, accessAlign v, .rd)
  | .stg _ _ _ _ => let n := r.pay.bytes.length; (n, if n = 80 then 16 else 8, .wr)
  | .afadd _ _ _ _ => (4, 4, .atom)
  | _ => (8, 8, .atom)

/-- An access as one piece, or as two where it crosses into the next page of a paged range. A fault carries its first address (R136); what cannot be
translated comes with the address that waits. -/
def State.pieces (s : State) (pt : Option Nat) (ents : List RangeEnt) (a n align : Nat) (need : Need) : Except (Trans × Nat) (List (Nat × Nat × Option Nat)) :=
  match s.translate pt ents a n align need with
  | .ok k none => .ok [(k, n, none)]
  | .ok k (some p) =>
    let left := 32768 - k % 32768
    if n ≤ left then .ok [(k, n, some p)]
    else
      match ents.find? (fun e => e.hits a) with
      | none => .ok [(k, n, some p)]
      | some e =>
        match s.translate pt [e] (a + left) (n - left) 1 need with
        | .ok k2 p2 => .ok [(k, left, some p), (k2, n - left, p2)]
        | .fault f => .error (.fault { f with detail := BitVec.ofNat 64 a }, a)
        | x => .error (x, a + left)
  | x => .error (x, a)

/-- The entry of the page of an address that is not resident, for whatever access the range permits. -/
def State.absentPage (s : State) (ents : List RangeEnt) (va : Nat) : Option Nat :=
  ([.rd, .wr, .atom] : List Need).findSome? (fun need =>
    match s.translate none ents va 1 1 need with
    | .absent pte _ _ _ => some pte
    | .ok _ _ | .fault _ | .walk _ => none)

/-- The page of an address is still not resident. -/
def State.pageAbsent (s : State) (ents : List RangeEnt) (va : Nat) : Bool := (s.absentPage ents va).isSome

/-- The release records of the words that a write touches are cleared (R175). -/
def State.clearRecords (s : State) (k n : Nat) : State :=
  let k := memKey k
  { s with relRecs := s.relRecs.filter (fun e => !(decide (e.1 < k + n) && decide (k < e.1 + 8))) }

/-- The pairs of the release record of a word (R175, R309). -/
def State.recordAt (s : State) (k : Nat) : List RelPair := (SMap.find? s.relRecs (memKey k / 8 * 8)).getD []

/-- A release merges its pairs into the record of its word (R175). -/
def State.putRecord (s : State) (k : Nat) (ps : List RelPair) : State :=
  { s with relRecs := SMap.put s.relRecs (memKey k / 8 * 8) (addRels 8 (s.recordAt k) ps) }

/-- The releases of a task's speculative atomics that a write of the task leaves (R309). -/
def relsWithout (rels : List (Nat × List RelPair)) (k n : Nat) : List (Nat × List RelPair) :=
  rels.filter (fun e => !(decide (e.1 / 8 * 8 < k + n) && decide (k < e.1 / 8 * 8 + 8)))

/-- The dies of a set write back their dirty sectors in a range. -/
def State.fromDies (s : State) (dies : BitVec 4) (r : Rng) : State := (fourDies.filter (fun d => dies.getLsbD d)).foldl (fun (s : State) d => s.writeBack d r) s

/-- A die pulls what releases have recorded (R175): the other dies that have released write back their dirty sectors, and it invalidates its own copies;
what the die itself has released it need not pull. -/
def State.pull (s : State) (die : Nat) (ps : List RelPair) : State :=
  ps.foldl (fun (s : State) p =>
    let from' := p.dies &&& ~~~ dieBit die
    if from' = 0 then s else (s.fromDies from' p.rng).invalidate die p.rng) s

/-- A release that reaches other packages or the host makes its pairs reach memory (R167, R173). -/
def State.releaseOut (s : State) (die : Nat) (rs : List Rng) : State := rs.foldl (fun (s : State) r => s.writeBack die r) s

/-- A release for every party of the package (R358): its pairs reach memory, with what the acquires that it follows have brought, and the other dies
invalidate their copies. -/
def State.publish (s : State) (die : Nat) (a : Arcs) : State :=
  let s := a.back.foldl (fun (s : State) p => s.fromDies p.dies p.rng) (s.releaseOut die a.writes)
  (a.writes ++ a.back.map RelPair.rng).foldl (fun (s : State) r => (fourDies.filter (· != die)).foldl (fun (s : State) d => s.invalidate d r) s) s

/-- A write of system traffic at the home (R264). -/
def State.putWatched (s : State) (k : Nat) (bs : List Byte) : State := (s.storeHome k bs).watchSys k bs.length 1

/-- A read of a region performed on a die: what it sees, the lines it brings, the counters and watchpoints. -/
def State.readAccess (s : State) (region die : Nat) (task : Option Nat) (k n cls : Nat) : State × List Byte :=
  ((((s.touch die k n).reuse region die k n).watch die k n 0 cls), s.seen die task k n)

/-- A write of a region performed on a die. -/
def State.writeAccess (s : State) (region die : Nat) (task : Option Nat) (k : Nat) (bs : List Byte) (cls : Nat) : State :=
  let s := match task with
    | none => (s.storeDie die k bs).clearRecords k bs.length
    | some t => (s.storePending die t k bs).modTask t (fun x => { x with rels := relsWithout x.rels k bs.length })
  (s.reuse region die k bs.length).watch die k bs.length 1 cls

end Sys2Proof.Machine
end

