-- ==== Sys2Proof/Machine/Summary.lean ====
section
/-!
DEFINITION. The summaries as functions of their 4,096 bytes: QS-4K (R183 to R186), HH-4K (R187, R188), DC-4K (R189, R190), SMERGE (R191);
the total order of FP32 items.
-/
namespace Sys2Proof.Machine

/-- The bytes of a list from `off` on replaced. -/
def splice (bs : List Byte) (off : Nat) (xs : List Byte) : List Byte := bs.take off ++ xs ++ bs.drop (off + xs.length)

/-- A field of `n` bytes. -/
def fieldAt (bs : List Byte) (off n : Nat) : Nat := leNat ((bs.drop off).take n)

/-- The rank of an FP32 pattern in the total order of R184. -/
def fpKey (p : Nat) : Nat := if p < 2 ^ 31 then 2 ^ 31 + p else 2 ^ 32 - 1 - p

/-- The three kinds (R179). -/
inductive SumKind where
  | qs
  | hh
  | dc
deriving DecidableEq, Repr

/-! ## QS-4K -/

/-- A QS-4K object (R183): header fields, the 60 places of each level, and how many levels have been compacted since it was read. -/
structure QS where
  flags : Nat
  topexp : Nat
  n : Nat
  seed : Nat
  mn : Nat
  mx : Nat
  nanrej : Nat
  fill : List Nat
  ccnt : List Nat
  items : List (List Nat)
  comp : Nat
deriving DecidableEq, Repr

/-- A QS-4K object read. -/
def QS.read (bs : List Byte) : QS where
  flags := fieldAt bs 1 1
  topexp := fieldAt bs 2 2
  n := fieldAt bs 8 8
  seed := fieldAt bs 16 8
  mn := fieldAt bs 24 4
  mx := fieldAt bs 28 4
  nanrej := fieldAt bs 32 8
  fill := (List.range 16).map (fun l => fieldAt bs (48 + l) 1)
  ccnt := (List.range 16).map (fun l => fieldAt bs (64 + 4 * l) 4)
  items := (List.range 16).map (fun l => (List.range 60).map (fun i => fieldAt bs (256 + 240 * l + 4 * i) 4))
  comp := 0

/-- A QS-4K object written over its bytes; reserved bytes stay. -/
def QS.write (o : QS) (bs : List Byte) : List Byte :=
  let b1 := splice bs 0 ([0xC1] ++ leBytes 1 o.flags ++ leBytes 2 o.topexp)
  let b2 := splice b1 8 (leBytes 8 o.n ++ leBytes 8 o.seed ++ leBytes 4 o.mn ++ leBytes 4 o.mx ++ leBytes 8 o.nanrej)
  let b3 := splice b2 48 (o.fill.flatMap (leBytes 1) ++ o.ccnt.flatMap (leBytes 4))
  splice b3 256 (o.items.flatMap (fun l => l.flatMap (leBytes 4)))

/-- An item put at a level, with the compactions that follow (R184). `fuel` counts the levels from `l` to 15. -/
def QS.put : Nat → QS → Nat → Nat → QS
  | 0, o, _, _ => o
  | fuel + 1, o, l, x =>
    let f := o.fill.getD l 0
    let lev := (o.items.getD l []).set f x
    let o : QS := { o with items := o.items.set l lev, fill := o.fill.set l (f + 1) }
    if f + 1 < 60 then o
    else
      let sorted := sortBy (fun a b => decide (fpKey a < fpKey b)) lev
      let c := o.ccnt.getD l 0
      let b : Nat := (drawCoin (BitVec.ofNat 64 o.seed) (BitVec.ofNat 4 l) (BitVec.ofNat 32 c)).toNat
      let keep := (List.range 30).map (fun i => sorted.getD (b + 2 * i) 0)
      let o : QS := { o with
        items := o.items.set l sorted, fill := o.fill.set l 0, ccnt := o.ccnt.set l ((c + 1) % 2 ^ 32), comp := o.comp + 1 }
      if l < 15 then keep.foldl (fun o y => QS.put fuel o (l + 1) y) o
      else { o with
        items := o.items.set 15 (keep ++ sorted.drop 30), fill := o.fill.set 15 30, topexp := (o.topexp + 1) % 2 ^ 16, flags := o.flags ||| 1 }

/-- A lane inserted (R184), with the flags of the conversion. -/
def QS.insert (o : QS) (x : Lane) : QS × Flags :=
  if nonCanonical x || (unpack x).isNan then ({ o with nanrej := (o.nanrej + 1) % 2 ^ 64 }, ncFlag x)
  else
    let r := storeElem 1 (.mode .rne) x
    let v := r.1
    let o : QS := { o with
      n := (o.n + 1) % 2 ^ 64
      mn := if fpKey v < fpKey o.mn then v else o.mn
      mx := if fpKey o.mx < fpKey v then v else o.mx }
    (QS.put 16 o 0 v, r.2)

/-- The valid items with their weights in the order of R186: by value, ties by level and then by place. -/
def QS.sorted (o : QS) : List (Nat × Nat) :=
  let all := (List.range 16).flatMap (fun l =>
    ((o.items.getD l []).take (o.fill.getD l 0)).map (fun x => (x, if l < 15 then 2 ^ l else 2 ^ (15 + o.topexp))))
  sortBy (fun a b => decide (fpKey a.1 < fpKey b.1)) all

/-- The first item whose cumulative weight is at least `t`. -/
def firstAt (t : Nat) : Nat → List (Nat × Nat) → Option Nat
  | _, [] => none
  | acc, (x, w) :: rest => if t ≤ acc + w then some x else firstAt t (acc + w) rest

/-- QREAD (R186). -/
def QS.quantile (o : QS) (phi : Lane) : Lane × Flags :=
  let bad : Lane × Flags := (nanW, Flags.when (o.n != 0) NV ||| ncFlag phi)
  if o.n = 0 then bad
  else
    match unpack phi with
    | .nan | .inf _ => bad
    | .num s m e =>
      if (s && m != 0) || Num.lt (.num false 1 0) (.num s m e) then bad
      else
        let xs := o.sorted
        let w := xs.foldl (fun a x => a + x.2) 0
        let t : Nat := if 0 ≤ e then (m * w) <<< e.toNat else (m * w + (2 ^ (-e).toNat - 1)) / 2 ^ (-e).toNat
        let item := if t = 0 then o.mn else if t = w then o.mx else (firstAt t 0 xs).getD o.mx
        ((loadElem 1 item).1, 0)

/-- The rank of a W40 value among FP32 items in total order: below, or equal. -/
def laneBelow (x : Num) (item : Nat) : Bool := Num.below x (fp32.unpack item)

/-- QRANK (R186); `free` stands for the quotient by a total weight of zero, which the rule does not state. -/
def QS.rank (o : QS) (v : Lane) (free : Word) : Word × Flags :=
  match unpack v with
  | .nan => (BitVec.allOnes 64, NV)
  | x =>
    if laneBelow x o.mn then (0, 0)
    else if !laneBelow x o.mx then (BitVec.ofNat 64 o.n, 0)
    else
      let xs := o.sorted
      let w := xs.foldl (fun a y => a + y.2) 0
      let c := (xs.filter (fun y => !laneBelow x y.1)).foldl (fun a y => a + y.2) 0
      if w = 0 then (free, 0) else (BitVec.ofNat 64 (o.n * c / w), 0)

/-! ## HH-4K -/

/-- An entry of an HH-4K object: KEY, COUNT, ERROR (R187). -/
structure HHEnt where
  key : Nat
  count : Nat
  err : Nat
deriving DecidableEq, Repr

/-- An HH-4K object (R187). -/
structure HH where
  flags : Nat
  n : Nat
  ents : List HHEnt
deriving DecidableEq, Repr

/-- FILLED. -/
def hhFilled (bs : List Byte) : Nat := fieldAt bs 2 2 % 512

/-- An HH-4K object read. -/
def HH.read (bs : List Byte) : HH where
  flags := fieldAt bs 1 1
  n := fieldAt bs 8 8
  ents := (List.range (hhFilled bs)).map (fun e => ⟨fieldAt bs (256 + 12 * e) 4, fieldAt bs (260 + 12 * e) 4, fieldAt bs (264 + 12 * e) 4⟩)

/-- An HH-4K object written over its bytes; the entries that are not valid are zero. -/
def HH.write (o : HH) (bs : List Byte) : List Byte :=
  let b1 := splice bs 0 ([0xC2] ++ leBytes 1 o.flags ++ leBytes 2 o.ents.length)
  let b2 := splice b1 8 (leBytes 8 o.n)
  let ents := o.ents.flatMap (fun e => leBytes 4 e.key ++ leBytes 4 e.count ++ leBytes 4 e.err)
  splice b2 256 (ents ++ List.replicate (3072 - ents.length) 0)

/-- The order of the entries (R187). -/
def HHEnt.before (a b : HHEnt) : Bool := decide (b.count < a.count) || (a.count == b.count && decide (a.key < b.key))

/-- A count that would pass 2^32 - 1 stays there; whether it would (R188). -/
def sat32 (x : Nat) : Nat × Bool := if 2 ^ 32 - 1 < x then (2 ^ 32 - 1, true) else (x, false)

/-- MINC (R187). -/
def HH.minc (o : HH) : Nat := if o.ents.length < 256 then 0 else (o.ents.getLast?.map HHEnt.count).getD 0

/-- A key inserted (R188). -/
def HH.insert (o : HH) (key : Nat) : HH :=
  let o : HH := { o with n := (o.n + 1) % 2 ^ 64 }
  let re (xs : List HHEnt) : List HHEnt := sortBy HHEnt.before xs
  if o.ents.any (fun e => e.key == key) then
    let sat := o.ents.any (fun e => e.key == key && (sat32 (e.count + 1)).2)
    { o with
      ents := re (o.ents.map (fun e => if e.key = key then { e with count := (sat32 (e.count + 1)).1 } else e))
      flags := if sat then o.flags ||| 1 else o.flags }
  else if o.ents.length < 256 then { o with ents := re (o.ents ++ [⟨key, 1, 0⟩]) }
  else
    let c := sat32 (o.minc + 1)
    { o with
      ents := re (o.ents.take 255 ++ [⟨key, c.1, o.minc⟩])
      flags := if c.2 then o.flags ||| 1 else o.flags }

/-- HHGET (R188). -/
def HH.get (o : HH) (i : Nat) : Vec :=
  match o.ents[i]? with
  | some e => Vec.build (fun n =>
      if n = 0 then BitVec.ofNat 40 e.key else if n = 1 then BitVec.ofNat 40 e.count else if n = 2 then BitVec.ofNat 40 e.err
      else if n = 3 then 1 else 0)
  | none => Vec.zero

/-! ## DC-4K -/

/-- The hash of a lane (R189). -/
def dcHash (x : Lane) : Word :=
  let x0 : Word := x.setWidth 64
  let x1 : Word := (x0 ^^^ (x0 >>> 33)) * 0xFF51AFD7ED558CCD
  let x2 : Word := (x1 ^^^ (x1 >>> 33)) * 0xC4CEB9FE1A85EC53
  x2 ^^^ (x2 >>> 33)

/-- The rank of a hash: the leading zeros of its low 52 bits, plus one (R189). -/
def dcRank (h : Word) : Nat :=
  let v := h.toNat % 2 ^ 52
  if v = 0 then 53 else 52 - v.log2

/-- A lane inserted (R189). -/
def dcInsert (bs : List Byte) (x : Lane) : List Byte :=
  let h := dcHash x
  let j := h.toNat / 2 ^ 52
  let old := fieldAt bs j 1
  bs.set j (BitVec.ofNat 8 (max old (dcRank h)))

/-- A quotient as a value far longer than a W40 significand, with a sticky bit. -/
def quotNum (a b : Nat) (e : Int) : Num :=
  let q := a * 2 ^ 128 / b
  .num false (2 * q + (if a * 2 ^ 128 % b = 0 then 0 else 1)) (e - 129)

/-- The terms of 2 artanh z = ln ((1 + z) / (1 - z)) in units of 2^-192. -/
def artanhGo (z2 : Nat) : Nat → Nat → Nat → Nat
  | 0, _, _ => 0
  | fuel + 1, t, k => t / (2 * k + 1) + artanhGo z2 fuel (t * z2 / 2 ^ 192) (k + 1)

/-- ln(a / b) in units of 2^-191, for b <= a < 2b. -/
def lnRatio (a b : Nat) : Nat :=
  let z := (a - b) * 2 ^ 192 / (a + b)
  artanhGo (z * z / 2 ^ 192) 64 z 0

/-- m × ln(m ÷ V) with m = 4,096, before its rounding (R190). -/
def dcLinear (v : Nat) : Num :=
  let k := 12 - v.log2
  let r := 2 ^ v.log2 * 2
  if v = 4096 then .num false 0 0
  else
    let ln := if v = 2 ^ v.log2 then k * lnRatio 2 1 else (k - 1) * lnRatio 2 1 + lnRatio r v
    .num false (2 * ln + 1) (12 - 192)

/-- α = 0.7213 ÷ (1 + 1.079 ÷ m) rounded once to W40 (R190). -/
def dcAlpha : Lane := (w40 (quotNum 29544448 40970790 0)).1

/-- The estimate of DCEST (R190): E rounded to an integer, 2^64 - 1 above it (R303). -/
def dcEstimate (bs : List Byte) : Word :=
  let regs := bs.map BitVec.toNat
  let z := regs.foldl (fun a r => a + 2 ^ (53 - r)) 0
  let v := (regs.filter (fun r => r == 0)).length
  let e1 : Lane := match unpack dcAlpha with
    | .num _ m e => (w40 (quotNum (m * 2 ^ 77) z e)).1
    | .nan | .inf _ => 0
  let low := !Num.lt (.num false 10240 0) (unpack e1)
  let e2 : Lane := if low && decide (0 < v) then (w40 (dcLinear v)).1 else e1
  match unpack e2 with
  | .num _ m e => BitVec.ofNat 64 (min (integral (.mode .rne) false m e).1 (2 ^ 64 - 1))
  | .nan | .inf _ => BitVec.allOnes 64

/-! ## All kinds -/

/-- The kind that byte 0 names (R179). -/
def sumKind (bs : List Byte) : Option SumKind :=
  let b := fieldAt bs 0 1
  if b = 0xC1 then some .qs else if b = 0xC2 then some .hh else if b ≤ 53 then some .dc else none

/-- Every field of an object lies in its stated range (R179, R303). -/
def sumValid (bs : List Byte) (k : SumKind) : Bool :=
  match k with
  | .qs => (List.range 16).all (fun l => decide (fieldAt bs (48 + l) 1 < 60))
  | .hh => decide (hhFilled bs ≤ 256)
  | .dc => bs.all (fun b => decide (b.toNat ≤ 53))

/-- SINIT's contents (R180). -/
def sumInit (k : SumKind) (seed : Word) : List Byte :=
  match k with
  | .qs => splice (List.replicate 4096 0) 0 ([0xC1] ++ leBytes 15 0 ++ leBytes 8 seed.toNat ++ leBytes 4 0x7F800000 ++ leBytes 4 0xFF800000)
  | .hh => splice (List.replicate 4096 0) 0 [0xC2]
  | .dc => List.replicate 4096 0

/-- A token of lanes inserted: the bytes, the flags, the number of lanes inserted, the levels compacted (R181). -/
def sumInsert (k : SumKind) (bs : List Byte) (xs : List Lane) : List Byte × Flags × Nat × Nat :=
  match k with
  | .qs =>
    let o0 := QS.read bs
    let r := xs.foldl (fun (a : QS × Flags) x => let y := a.1.insert x; (y.1, a.2 ||| y.2)) (o0, 0)
    (r.1.write bs, r.2, (r.1.n + 2 ^ 64 - o0.n) % 2 ^ 64, r.1.comp)
  | .hh =>
    let ys := xs.filter (fun x => x != nanW)
    ((ys.foldl (fun o x => HH.insert o (x.toNat % 2 ^ 32)) (HH.read bs)).write bs, 0, ys.length, 0)
  | .dc =>
    let ys := xs.filter (fun x => x != nanW)
    (ys.foldl dcInsert bs, 0, ys.length, 0)

/-- The merge of a source into a destination (R191): the bytes, the reply of SMERGE (R369), its cycles (R370). The compactions that the source has gone
through count in the result, so that the bound of R185 applies to it (log 98). -/
def sumMerge (k : SumKind) (dst src : List Byte) : List Byte × Word × Nat :=
  match k with
  | .qs =>
    let d := QS.read dst
    let s := QS.read src
    let items := (List.range 16).flatMap (fun l => ((s.items.getD l []).take (s.fill.getD l 0)).map (fun x => (l, x)))
    let o := items.foldl (fun o (l, x) => QS.put (16 - l) o l x) d
    let o : QS := { o with
      n := (d.n + s.n) % 2 ^ 64
      nanrej := (d.nanrej + s.nanrej) % 2 ^ 64
      ccnt := (o.ccnt.zip s.ccnt).map (fun (a, b) => (a + b) % 2 ^ 32)
      mn := if fpKey s.mn < fpKey d.mn then s.mn else d.mn
      mx := if fpKey d.mx < fpKey s.mx then s.mx else d.mx
      flags := o.flags ||| 2 }
    (o.write dst, BitVec.ofNat 64 o.n, 2 * items.length + 2 * o.comp)
  | .hh =>
    let d := HH.read dst
    let s := HH.read src
    let keys := (d.ents ++ s.ents).map HHEnt.key |>.eraseDups
    let side (o : HH) (key : Nat) : Nat × Nat := match o.ents.find? (fun e => e.key == key) with
      | some e => (e.count, e.err)
      | none => (o.minc, o.minc)
    let merged := keys.map (fun key =>
      let c := sat32 ((side d key).1 + (side s key).1)
      let e := sat32 ((side d key).2 + (side s key).2)
      ((⟨key, c.1, e.1⟩ : HHEnt), c.2 || e.2))
    let sat := merged.any Prod.snd || (d.flags ||| s.flags) % 2 == 1
    let o : HH := {
      flags := (d.flags ||| 2) ||| sat.toNat
      n := (d.n + s.n) % 2 ^ 64
      ents := (sortBy HHEnt.before (merged.map Prod.fst)).take 256 }
    (o.write dst, BitVec.ofNat 64 o.n, 300)
  | .dc =>
    let r := (List.zip dst src).map (fun (a, b) => if a.toNat < b.toNat then b else a)
    (r, BitVec.ofNat 64 (r.filter (fun b => b != 0)).length, 32)

end Sys2Proof.Machine
end

