-- ==== Sys2Proof/Machine/Plans.lean ====
section
/-!
DEFINITION. Interface records, plans and what a composition makes of two of them (R45 to R62, R64, R349, R353, R354).
-/
namespace Sys2Proof.Machine

/-- Bits [hi:lo] of a number replaced. -/
def setBits (x hi lo v : Nat) : Nat := x - bits x hi lo * 2 ^ lo + v % 2 ^ (hi + 1 - lo) * 2 ^ lo

/-! ## Records (R45 to R49) -/

/-- The first 64 bytes of a record (R45). -/
def Header.read (n : Nat) : Header where
  fragId := bits n 31 0
  w := bits n 37 32
  h := bits n 43 38
  xphase := bits n 45 44
  dlf := bit n 58
  rep := bit n 59
  faultp := bit n 60
  faultPort := bits n 65 61
  adapter := bit n 66
  adaptField := bits n 71 67
  resClass := BitVec.ofNat 32 (bits n 103 72)
  ii := bits n 119 104
  lat := bits n 143 120
  altFrag := bits n 175 144
  memuse := BitVec.ofNat 16 (bits n 191 176)

/-- NPORTS of a header. -/
def hdrPorts (n : Nat) : Nat := bits n 51 46
/-- NHOLES of a header. -/
def hdrHoles (n : Nat) : Nat := bits n 53 52
/-- NMEM of a header. -/
def hdrMems (n : Nat) : Nat := bits n 57 54

/-- The header of a plan as R45 lays it out: a composite's numbers count the derived entries (R349). -/
def Header.word (h : Header) (ports holes mems : Nat) : Nat :=
  h.fragId % 2 ^ 32 + h.w % 64 * 2 ^ 32 + h.h % 64 * 2 ^ 38 + h.xphase % 4 * 2 ^ 44 + ports % 64 * 2 ^ 46 + holes % 4 * 2 ^ 52
    + mems % 16 * 2 ^ 54 + h.dlf.toNat * 2 ^ 58 + h.rep.toNat * 2 ^ 59 + h.faultp.toNat * 2 ^ 60 + h.faultPort % 32 * 2 ^ 61
    + h.adapter.toNat * 2 ^ 66 + h.adaptField % 32 * 2 ^ 67 + h.resClass.toNat * 2 ^ 72 + h.ii % 2 ^ 16 * 2 ^ 104
    + h.lat % 2 ^ 24 * 2 ^ 120 + h.altFrag % 2 ^ 32 * 2 ^ 144 + h.memuse.toNat * 2 ^ 176

/-- FORMAT of a port entry (R47). -/
def pFormat (e : BitVec 256) : Nat := bits e.toNat 127 0
/-- NAME. -/
def pName (e : BitVec 256) : Nat := bits e.toNat 191 128
/-- DIR: true for an output. -/
def pOut (e : BitVec 256) : Bool := e.getLsbD 192
/-- HOLE. -/
def pHole (e : BitVec 256) : Nat := bits e.toNat 194 193
/-- SIDE. -/
def pSide (e : BitVec 256) : Nat := bits e.toNat 196 195
/-- The row of a port on the perimeter of a fragment of `h` rows: POS on the east and west sides, the first or last row on the others. -/
def pRow (h : Nat) (e : BitVec 256) : Nat :=
  match pSide e with
  | 0 => 0
  | 2 => h - 1
  | _ => bits e.toNat 202 197
/-- BFX. -/
def pBfx (e : BitVec 256) : Nat := bits e.toNat 225 220
/-- BFY. -/
def pBfy (e : BitVec 256) : Nat := bits e.toNat 230 226
/-- BQ. -/
def pBq (e : BitVec 256) : Fin 4 := ⟨bits e.toNat 232 231 % 4, Nat.mod_lt _ (by decide)⟩
/-- A port that the fragment sends: a perimeter port with DIR 1, a hole port with DIR 0 (R25, R47). -/
def pSends (e : BitVec 256) : Bool := pOut e != (pHole e != 0)

/-- SYMBOL of a memory-effect entry (R49). -/
def mSym (m : BitVec 128) : BitVec 32 := m.extractLsb' 0 32
/-- RD. -/
def mRd (m : BitVec 128) : Bool := m.getLsbD 32
/-- WR. -/
def mWr (m : BitVec 128) : Bool := m.getLsbD 33
/-- AT. -/
def mAt (m : BitVec 128) : Bool := m.getLsbD 34
/-- USE. -/
def mUse (m : BitVec 128) : Nat := bits m.toNat 37 35
/-- ORD_PORT. -/
def mOrd (m : BitVec 128) : Nat := bits m.toNat 42 38
/-- ORD_VALID. -/
def mOrdValid (m : BitVec 128) : Bool := m.getLsbD 43

/-- A record as it lies in memory: header, port entries, memory-effect entries, hole entries, the address of the image. -/
structure Rec where
  hdr : Nat
  ports : List (BitVec 256)
  mems : List (BitVec 128)
  holes : List Nat
  image : Nat

/-- A record read (R45). -/
def State.readRec (s : State) (addr : Nat) : Rec :=
  let h := s.homeWord addr 64
  let np := hdrPorts h
  let nm := hdrMems h
  let nh := hdrHoles h
  let o := addr + 64
  let om := o + 32 * np
  let oh := om + 16 * nm
  { hdr := h
    ports := (List.range np).map (fun i => BitVec.ofNat 256 (s.homeWord (o + 32 * i) 32))
    mems := (List.range nm).map (fun i => BitVec.ofNat 128 (s.homeWord (om + 16 * i) 16))
    holes := (List.range nh).map (fun i => s.homeWord (oh + 8 * i) 8)
    image := (oh + 8 * nh + 63) / 64 * 64 }

/-- The lowest set bit of a field [hi:lo]; `lo` where none is set. -/
def lowBit (x hi lo : Nat) : Nat := ((List.range (hi + 1 - lo)).find? (fun i => bit x (lo + i))).map (· + lo) |>.getD lo

/-- A reserved field that is not zero, with its lowest offending bit. -/
def spare (x hi lo : Nat) : Bool × Nat := (bits x hi lo != 0, lowBit x hi lo)

/-- Conditions on one item, each with its lowest offending bit: the 32-bit word of the item that holds the lowest of those that hold (R98). -/
def badWord (x : Nat) (cs : List (Bool × Nat)) : Option Nat :=
  match cs.filter Prod.fst with
  | [] => none
  | c :: rest => let low := rest.foldl (fun a b => min a b.2) c.2; some (bits x (low / 32 * 32 + 31) (low / 32 * 32))

/-- The ranges of R48 that a format record breaks, each with its lowest bit. -/
def formatConds (f : Nat) (input : Bool) : List (Bool × Nat) :=
  [(decide (11 < bits f 3 0), 0), (decide (3 < bits f 6 4), 4), ((bits f 19 8 == 0) != (bits f 6 4 == 0), 8),
    (decide (bits f 24 20 < 1) || decide (16 < bits f 24 20) || (!bit f 7 && bits f 24 20 != 1), 20),
    (decide (bits f 27 25 < 1) || decide (4 < bits f 27 25), 25), spare f 35 (28 + 2 * bits f 27 25), (bits f 39 38 == 3, 38), (bits f 79 72 == 0, 72),
    (decide (bits f 84 80 < 1) || decide (16 < bits f 84 80), 80), spare f 87 85, spare f 127 96, (input && bits f 95 88 == 0, 88)]

/-- A format record within the ranges of R48. -/
def formatOk (f : Nat) (input : Bool) : Bool := !(formatConds f input).any Prod.fst

/-- What a port entry of a fragment of `w` columns and `h` rows breaks of R47 and R48, each with its lowest bit. -/
def portConds (w h : Nat) (e : BitVec 256) : List (Bool × Nat) :=
  spare e.toNat 255 233 :: (decide (w ≤ pBfx e), 220) :: (decide (h ≤ pBfy e), 226) :: formatConds (pFormat e) (!pOut e)

/-- The 32-bit word of a record with the first range of R45 to R49 that it breaks: its header, its entries in order. -/
def Rec.bad (r : Rec) : Option Nat :=
  let h := r.hdr
  let w := bits h 37 32
  let y := bits h 43 38
  let twice (e : BitVec 256) (i : Nat) : Bool := (r.ports.take i).any (fun x => pName x == pName e)
  (badWord h [spare h 511 192, (decide (w < 1) || decide (47 < w), 32), (decide (y < 1) || decide (32 < y), 38), (bits h 45 44 == 3, 44),
      (decide (32 < hdrPorts h), 46), (decide (bits h 119 104 < 1), 104),
      (bit h 60 && !((r.ports[bits h 65 61]?).map (fun e => !pOut e)).getD false, 61)])
    |>.or (r.ports.zipIdx.findSome? (fun (e, i) => badWord e.toNat ((twice e i, 128) :: portConds w y e)))
    |>.or (r.mems.findSome? (fun m => badWord m.toNat [spare m.toNat 127 44, (decide (5 < mUse m), 35)]))
    |>.or (r.holes.findSome? (fun x => badWord x [spare x 63 22]))

/-- A record within the ranges of R45 to R49. -/
def Rec.ok (r : Rec) : Bool := r.bad.isNone

/-- The plan of one fragment (R64): one leaf at offset 0. -/
def Rec.plan (r : Rec) (addr : Nat) : Plan :=
  let hdr := Header.read r.hdr
  { hdr := hdr
    ports := r.ports.zipIdx.map (fun (e, i) => ⟨e, 0, i⟩)
    mems := r.mems
    holes := r.holes.zipIdx.map (fun (x, i) => ⟨bits x 5 0, bits x 10 6, bits x 16 11, bits x 21 17, 0, i + 1⟩)
    leaves := [⟨addr, 0, 0, [], [], hdr, r.ports⟩]
    joints := []
    preps := []
    ends := []
    kids := [] }

/-! ## Format agreement (R61) -/

/-- The first field of two format records that disagrees, in ascending field identifier. -/
def disagree (p c : Nat) : Option Nat :=
  let eq (hi lo : Nat) : Bool := bits p hi lo == bits c hi lo
  let loose (hi lo : Nat) : Bool := eq hi lo || bits c hi lo == 0
  [(1, eq 7 7), (2, eq 3 0), (3, eq 6 4), (4, eq 19 8), (5, eq 24 20), (6, eq 27 25), (7, eq 35 28), (8, eq 37 36), (9, eq 39 38),
    (10, loose 55 40), (11, loose 71 56), (12, bits c 95 88 != 0)].findSome? (fun (f, ok) => if ok then none else some f)

/-! ## Compositions -/

/-- The forms of R62. -/
inductive Form where
  | pseq
  | povl
  | ppipe (pa pb : Nat)
  | pnest (hole : Nat)
  | prep (n m : Nat)
deriving DecidableEq, Repr

/-- The code of a form (R57, R62). -/
def Form.code : Form → Nat
  | .pseq => 0
  | .povl => 1
  | .ppipe _ _ => 2
  | .pnest _ => 3
  | .prep _ _ => 4

/-- A check that fails: its field, the ports, and how many joints had been compared (R53, R62). -/
structure Mis where
  field : Nat
  pp : Nat := 0
  cp : Nat := 0
  joints : Nat := 0
deriving DecidableEq, Repr

/-- The pad of POVL and PPIPE (R54). -/
def padOf (a b : Header) : Nat := ((List.range 3).find? (fun p => (a.w + p + b.xphase) % 3 == a.xphase)).getD 0

/-- A port moved with its leaf (R55, R64). -/
def PlanPort.move (p : PlanPort) (ox oy leaf0 hole0 : Nat) : PlanPort :=
  let n := p.entry.toNat
  let along := if pSide p.entry % 2 = 0 then ox else oy
  let n := setBits n 225 220 (bits n 225 220 + ox)
  let n := setBits n 230 226 (bits n 230 226 + oy)
  let n := setBits n 202 197 (bits n 202 197 + along)
  let n := if pHole p.entry = 0 then n else setBits n 194 193 (pHole p.entry + hole0)
  ⟨BitVec.ofNat 256 n, p.leaf + leaf0, p.port⟩

/-- A hole moved with its leaf. -/
def PlanHole.move (h : PlanHole) (ox oy leaf0 : Nat) : PlanHole := { h with x := h.x + ox, y := h.y + oy, leaf := h.leaf + leaf0 }

/-- A leaf moved; its PSEQ numbers are made distinct. -/
def PlanLeaf.move (l : PlanLeaf) (ox oy seq0 : Nat) : PlanLeaf :=
  { l with ox := l.ox + ox, oy := l.oy + oy, turn := l.turn.map (fun (i, b) => (i + seq0, b)) }

/-- A joint moved. -/
def PlanJoint.move (j : PlanJoint) (ox leaf0 : Nat) : PlanJoint :=
  { j with pl := j.pl + leaf0, cl := j.cl + leaf0, staging := j.staging.map (· + ox) }

/-- How many PSEQs a plan holds. -/
def Plan.seqs (p : Plan) : Nat := (p.leaves.flatMap (fun l => l.turn.map (fun t => t.1 + 1))).foldl max 0

/-- A plan moved to the place that it has as second operand, or as copy of a PREP. -/
def Plan.move (p : Plan) (ox oy leaf0 hole0 seq0 : Nat) : Plan :=
  { p with
    ports := p.ports.map (fun x => x.move ox oy leaf0 hole0)
    holes := p.holes.map (fun h => h.move ox oy leaf0)
    leaves := p.leaves.map (fun l => l.move ox oy seq0)
    joints := p.joints.map (fun j => j.move ox leaf0)
    preps := p.preps.map (fun x => { x with first := x.first + leaf0 })
    ends := p.ends.map (fun e => { e with pseq := e.pseq + seq0, leaf := e.leaf + leaf0 }) }

/-- The number of a plan's completion port, by its result class (R39, log 13). -/
def Plan.compPort (p : Plan) : Option Nat := (Config.completionPort p.hdr.resClass.toNat).map (· % max 1 p.ports.length)

/-- A leaf lies in a PREP's copies. -/
def PlanPrep.holds (x : PlanPrep) (leaf : Nat) : Bool := decide (x.first ≤ leaf) && decide (leaf < x.first + x.n * x.count)

/-- The completion port of a plan as the first operand of a PSEQ. -/
def Plan.asFirst (p : Plan) (id : Nat) : List PlanEnd :=
  match p.compPort.bind (fun i => p.ports[i]?) with
  | none => []
  | some x => [⟨id, x.leaf, x.port, (p.preps.filter (fun y => y.holds x.leaf)).length⟩]

/-- A memory effect whose ORD_PORT follows its port; the arc ends where the port is joined (R59). -/
def renumber (m : BitVec 128) (new : Nat → Option Nat) : BitVec 128 :=
  if mOrdValid m then
    match new (mOrd m) with
    | some n => BitVec.ofNat 128 (setBits m.toNat 42 38 n)
    | none => BitVec.ofNat 128 (setBits m.toNat 43 38 0)
  else m

/-- The union of memory effects (R59), of whole entries (log 106). -/
def unionMems (a b : List (BitVec 128)) : List (BitVec 128) := a ++ b.filter (fun m => !a.contains m)

/-- The new number of a port when the ports of `gone` are left out and what remains starts at `first`. -/
def newNumber (gone : List Nat) (first : Nat) (i : Nat) : Option Nat :=
  if gone.contains i then none else some (first + i - (gone.filter (fun g => decide (g < i))).length)

/-- Two operands of a POVL conflict in memory (R59). -/
def povlConflict (a b : List (BitVec 128)) : Bool :=
  let strong (m : BitVec 128) : Bool := mWr m || (mAt m && mUse m != 1)
  a.any (fun x => b.any (fun y => mSym x == mSym y && (strong x || strong y)))

/-- Two operands of a PPIPE conflict in memory (R59). -/
def ppipeConflict (a b : List (BitVec 128)) (pa pb : Nat) : Bool :=
  a.any (fun x => b.any (fun y => mSym x == mSym y
    && ((mWr x && (mRd y || mWr y)) || (mWr y && (mRd x || mWr x)))
    && !(mOrdValid x && mOrdValid y && mOrd x == pa && mOrd y == pb)))

/-- The result class of a composition (R57). -/
def resultClass (a b : Header) (form pa pb n : Nat) : BitVec 32 :=
  (kcg64 (BitVec.ofNat 64 (a.resClass.toNat + b.resClass.toNat * 2 ^ 32)) (BitVec.ofNat 64 (form + pa * 2 ^ 8 + pb * 2 ^ 16 + n * 2 ^ 24))).truncate 32

/-- The memory columns of an operand at an offset of the result (R349). -/
def useAt (h : Header) (ox xphase : Nat) : Nat := h.memuse.toNat * 2 ^ ((ox + h.xphase - xphase) / 3)

/-- The header of a result (R54, R57, R349); no rule derives FAULT_PORT, which is 0 (log 104). -/
def derivedHeader (a b : Header) (w h ii lat : Nat) (cls : BitVec 32) (use : Nat) : Header where
  fragId := 0
  w := w
  h := h
  xphase := a.xphase
  dlf := a.dlf && b.dlf
  rep := a.rep && b.rep
  faultp := a.faultp || b.faultp
  faultPort := 0
  adapter := false
  adaptField := 0
  resClass := cls
  ii := min ii 65535
  lat := min lat (2 ^ 24 - 1)
  altFrag := 0
  memuse := BitVec.ofNat 16 use

/-- The first joint whose formats disagree, with the number of joints compared up to it (R53, R61). -/
def checkJoints (js : List (Nat × BitVec 256 × Nat × BitVec 256)) : Option Mis :=
  js.zipIdx.findSome? (fun ((pi, p, ci, c), k) => (disagree (pFormat p) (pFormat c)).map (fun f => ⟨f, pi, ci, k + 1⟩))

/-- The limits of a result (R354); `j` joints have been compared. -/
def Plan.limits (p : Plan) (j : Nat) : Except Mis Plan :=
  if decide (32 < p.ports.length) || (p.ports.map (fun x => pName x.entry)).eraseDups.length != p.ports.length then .error ⟨0, 0, 0, j⟩
  else if 15 < p.mems.length then .error ⟨15, 0, 0, j⟩
  else if 3 < p.holes.length then .error ⟨17, 0, 0, j⟩
  else .ok p

/-- The footprint limit (R60). -/
def tooLarge (w h : Nat) : Bool := decide (47 < w) || decide (32 < h)

/-- The two operands of a result side by side. -/
def Plan.both (a b : Plan) (hdr : Header) (ports : List PlanPort) (mems : List (BitVec 128)) (holes : List PlanHole) (leaves : List PlanLeaf)
    (joints : List PlanJoint) : Plan where
  hdr := hdr
  ports := ports
  mems := mems
  holes := holes
  leaves := leaves
  joints := a.joints ++ b.joints ++ joints
  preps := a.preps ++ b.preps
  ends := a.ends ++ b.ends
  kids := []

/-- POVL (R54 to R60). -/
def composePovl (a b : Plan) : Except Mis (Plan × Nat) :=
  let ox := a.hdr.w + padOf a.hdr b.hdr
  let w := ox + b.hdr.w
  let h := max a.hdr.h b.hdr.h
  if povlConflict a.mems b.mems then .error ⟨15, 0, 0, 0⟩
  else if tooLarge w h then .error ⟨13, 0, 0, 0⟩
  else
    let b' := b.move ox 0 a.leaves.length a.holes.length a.seqs
    let hdr := derivedHeader a.hdr b.hdr w h (max a.hdr.ii b.hdr.ii) (max a.hdr.lat b.hdr.lat) (resultClass a.hdr b.hdr 1 0 0 0)
      (a.hdr.memuse.toNat ||| useAt b.hdr ox a.hdr.xphase)
    let mems := unionMems a.mems (b.mems.map (fun m => renumber m (newNumber [] a.ports.length)))
    ((Plan.both a b' hdr (a.ports ++ b'.ports) mems (a.holes ++ b'.holes) (a.leaves ++ b'.leaves) []).limits 0).map (fun p => (p, 0))

/-- PPIPE (R54 to R61). -/
def composePpipe (a b : Plan) (pa pb : Nat) : Except Mis (Plan × Nat) :=
  match a.ports[pa]?, b.ports[pb]? with
  | some x, some y =>
    if !pOut x.entry || pHole x.entry != 0 || pOut y.entry || pHole y.entry != 0 then .error ⟨0, pa, pb, 0⟩
    else
      let p := padOf a.hdr b.hdr
      let ox := a.hdr.w + p
      let w := ox + b.hdr.w
      let h := max a.hdr.h b.hdr.h
      if ppipeConflict a.mems b.mems pa pb then .error ⟨15, 0, 0, 0⟩
      else if tooLarge w h then .error ⟨13, 0, 0, 0⟩
      else
        match checkJoints [(pa, x.entry, pb, y.entry)] with
        | some m => .error m
        | none =>
          let n := a.leaves.length
          let b' := b.move ox 0 n a.holes.length a.seqs
          let fa := pRow a.hdr.h x.entry
          let fb := pRow b.hdr.h y.entry
          let link := 2 + p + (fa - fb) + (fb - fa)
          let hdr := derivedHeader a.hdr b.hdr w h (max a.hdr.ii b.hdr.ii) (a.hdr.lat + b.hdr.lat + link) (resultClass a.hdr b.hdr 2 pa pb 0)
            (a.hdr.memuse.toNat ||| useAt b.hdr ox a.hdr.xphase)
          let mems := unionMems (a.mems.map (fun m => renumber m (newNumber [pa] 0)))
            (b.mems.map (fun m => renumber m (newNumber [pb] (a.ports.length - 1))))
          let ports := a.ports.eraseIdx pa ++ b'.ports.eraseIdx pb
          let j : PlanJoint := ⟨x.leaf, x.port, y.leaf + n, y.port, none⟩
          ((Plan.both a b' hdr ports mems (a.holes ++ b'.holes) (a.leaves ++ b'.leaves) [j]).limits 1).map (fun p => (p, 1))
  | _, _ => .error ⟨0, pa, pb, 0⟩

/-- The pairs that PNEST joins: the ports of the hole with the ports of B of the same name (R55). -/
def nestPairs (a b : Plan) (hole : Nat) : Except Mis (List (Nat × PlanPort × Nat × PlanPort)) :=
  let hp := a.ports.zipIdx.filter (fun (x, _) => pHole x.entry == hole)
  let find (x : PlanPort) : Option (PlanPort × Nat) := b.ports.zipIdx.find? (fun (y, _) => pName y.entry == pName x.entry)
  if hp.length != b.ports.length || hp.any (fun (x, _) => (find x).isNone) then .error ⟨0, 0, 0, 0⟩
  else
    hp.foldr (fun (x, i) acc =>
      match acc, find x with
      | .ok l, some (y, j) => if pOut x.entry != pOut y.entry || pHole y.entry != 0 then .error ⟨0, i, j, 0⟩ else .ok ((i, x, j, y) :: l)
      | .error m, some (y, j) => if pOut x.entry != pOut y.entry || pHole y.entry != 0 then .error ⟨0, i, j, 0⟩ else .error m
      | e, none => e) (.ok [])

/-- PNEST (R54 to R61). PA of the result class is the hole number and PB 0 (log 105); joints are compared in ascending port number of A (log 107). -/
def composePnest (a b : Plan) (hole : Nat) : Except Mis (Plan × Nat) :=
  match a.holes[hole - 1]? with
  | none => .error ⟨17, 0, 0, 0⟩
  | some hl =>
    match nestPairs a b hole with
    | .error m => .error m
    | .ok pairs =>
      if decide (hl.w < b.hdr.w) || decide (hl.h < b.hdr.h) then .error ⟨13, 0, 0, 0⟩
      else if (hl.x + b.hdr.xphase) % 3 != a.hdr.xphase then .error ⟨14, 0, 0, 0⟩
      else
        let n := a.leaves.length
        let b' := b.move hl.x hl.y n (a.holes.length - 1) a.seqs
        let dirs := pairs.map (fun (i, x, j, y) =>
          if pOut x.entry then (j, y, i, x, (⟨y.leaf + n, y.port, x.leaf, x.port, none⟩ : PlanJoint))
          else (i, x, j, y, (⟨x.leaf, x.port, y.leaf + n, y.port, none⟩ : PlanJoint)))
        match checkJoints (dirs.map (fun (i, x, j, y, _) => (i, x.entry, j, y.entry))) with
        | some m => .error m
        | none =>
          let gone := pairs.map (fun x => x.1)
          let drop (x : PlanPort) : PlanPort :=
            if hole < pHole x.entry then { x with entry := BitVec.ofNat 256 (setBits x.entry.toNat 194 193 (pHole x.entry - 1)) } else x
          let ports := (a.ports.filter (fun x => pHole x.entry != hole)).map drop
          let hdr := derivedHeader a.hdr b.hdr a.hdr.w a.hdr.h (max a.hdr.ii b.hdr.ii) (a.hdr.lat + b.hdr.lat)
            (resultClass a.hdr b.hdr 3 hole 0 0) (a.hdr.memuse.toNat ||| useAt b.hdr hl.x a.hdr.xphase)
          let mems := unionMems (a.mems.map (fun m => renumber m (newNumber gone 0))) (b.mems.map (fun m => renumber m (fun _ => none)))
          ((Plan.both a b' hdr ports mems (a.holes.eraseIdx (hole - 1) ++ b'.holes) (a.leaves ++ b'.leaves)
            (dirs.map (fun (_, _, _, _, j) => j))).limits pairs.length).map (fun p => (p, pairs.length))

/-- The lowest memory column of a footprint that no use names (R55). -/
def freeColumn (use w xphase : Nat) : Option Nat :=
  (((List.range 16).filter (fun j => !bit use j)).map (fun j => xphase + 3 * j)).find? (fun fx => decide (fx < w))

/-- PSEQ (R54 to R61). The joints are compared in ascending port number of A (log 107). -/
def composePseq (a b : Plan) : Except Mis (Plan × Nat) :=
  let perim (out : Bool) (x : PlanPort) : Bool := pOut x.entry == out && pHole x.entry == 0
  let find (x : PlanPort) : Option (PlanPort × Nat) :=
    b.ports.zipIdx.find? (fun (y, _) => perim false y && pName y.entry == pName x.entry)
  let pairs := (a.ports.zipIdx.filter (fun (x, _) => perim true x)).filterMap (fun (x, i) => (find x).map (fun (y, j) => (i, x, j, y)))
  let w := max a.hdr.w b.hdr.w
  let h := max a.hdr.h b.hdr.h
  let use := a.hdr.memuse.toNat ||| b.hdr.memuse.toNat
  let col := freeColumn use w a.hdr.xphase
  if (!pairs.isEmpty && col.isNone) || tooLarge w h then .error ⟨13, 0, 0, 0⟩
  else if a.hdr.xphase != b.hdr.xphase then .error ⟨14, 0, 0, 0⟩
  else
    match checkJoints (pairs.map (fun (i, x, j, y) => (i, x.entry, j, y.entry))) with
    | some m => .error m
    | none =>
      let n := a.leaves.length
      let b' := b.move 0 0 n a.holes.length a.seqs
      let id := a.seqs + b.seqs
      let ga := pairs.map (fun x => x.1)
      let gb := pairs.map (fun (_, _, j, _) => j)
      let keep (g : List Nat) (ps : List PlanPort) : List PlanPort := (ps.zipIdx.filter (fun (_, i) => !g.contains i)).map Prod.fst
      let cost := a.hdr.lat + b.hdr.lat
      let use := if pairs.isEmpty then use else match col with | some c => use ||| 2 ^ ((c - a.hdr.xphase) / 3) | none => use
      let hdr := derivedHeader a.hdr b.hdr w h cost cost (resultClass a.hdr b.hdr 0 0 0 0) use
      let mems := unionMems (a.mems.map (fun m => renumber m (newNumber ga 0)))
        (b.mems.map (fun m => renumber m (newNumber gb (a.ports.length - ga.length))))
      let turn (side : Nat) (l : PlanLeaf) : PlanLeaf := { l with turn := l.turn ++ [(id, side)] }
      let js := pairs.map (fun (_, x, _, y) => (⟨x.leaf, x.port, y.leaf + n, y.port, col⟩ : PlanJoint))
      (({ Plan.both a b' hdr (keep ga a.ports ++ keep gb b'.ports) mems (a.holes ++ b'.holes)
        (a.leaves.map (turn 0) ++ b'.leaves.map (turn 1)) js with ends := a.ends ++ b'.ends ++ a.asFirst id }).limits pairs.length).map
        (fun p => (p, pairs.length))

/-- PREP (R54 to R60). RUNS_PER_PASS times n is at most 65,535 (log 102); each copy keeps A's holes (log 103). -/
def composePrep (a : Plan) (n m : Nat) : Except Mis (Plan × Nat) :=
  let stride := (a.hdr.w + 2) / 3 * 3
  let w := (n - 1) * stride + a.hdr.w
  if n = 0 ∨ 47 < n ∨ 5 < m then .error ⟨16, 0, 0, 0⟩
  else if !a.hdr.rep then .error ⟨16, 0, 0, 0⟩
  else if tooLarge w a.hdr.h then .error ⟨13, 0, 0, 0⟩
  else
    let count := a.leaves.length
    let copy (j : Nat) : Plan := a.move (j * stride) 0 (j * count) (j * a.holes.length) (j * a.seqs)
    let copies := (List.range n).map copy
    let port (x : PlanPort) : PlanPort :=
      let e := x.entry.toNat
      { x with entry := BitVec.ofNat 256 (setBits e 71 56 (min (bits e 71 56 * n) 65535)) }
    let use := (List.range n).foldl (fun u j => u ||| useAt a.hdr (j * stride) a.hdr.xphase) 0
    let hdr := derivedHeader a.hdr a.hdr w a.hdr.h (max 1 ((a.hdr.ii + n - 1) / n)) (a.hdr.lat + 2 * ((n - 1) * stride + 2))
      (resultClass a.hdr a.hdr 4 0 0 n) use
    let leaves := copies.zipIdx.flatMap (fun (p, j) => p.leaves.map (fun l => { l with copies := l.copies ++ [(m, j)] }))
    let p : Plan := {
      hdr := hdr
      ports := a.ports.map port
      mems := a.mems
      holes := copies.flatMap Plan.holes
      leaves := leaves
      joints := copies.flatMap Plan.joints
      preps := copies.flatMap Plan.preps ++ [⟨n, m, stride, 0, count⟩]
      ends := copies.flatMap Plan.ends
      kids := [] }
    (p.limits 0).map (fun p => (p, 0))

/-- A composition served (R354): the result with the joints compared, or the first check that fails. -/
def compose (f : Form) (a b : Plan) : Except Mis (Plan × Nat) :=
  match f with
  | .pseq => composePseq a b
  | .povl => composePovl a b
  | .ppipe pa pb => composePpipe a b pa pb
  | .pnest hole => composePnest a b hole
  | .prep n m => composePrep a n m

/-- The payload of a JointMismatch (R62). -/
def misWord (form hole : Nat) (m : Mis) : Word :=
  BitVec.ofNat 64 (2 ^ 63 + 3 * 2 ^ 56 + m.pp % 32 * 2 ^ 51 + m.field % 32 * 2 ^ 46 + m.cp % 32 * 2 ^ 41 + m.field % 32 * 2 ^ 36
    + hole % 4 * 2 ^ 34 + form % 8 * 2 ^ 31)

/-! ## Reading a plan (R345, R349) -/

/-- A hole entry as R49 lays it out. -/
def PlanHole.word (h : PlanHole) : Nat := h.x % 64 + h.y % 32 * 2 ^ 6 + h.w % 64 * 2 ^ 11 + h.h % 32 * 2 ^ 17

/-- One word of a plan's interface record (R349); none is FormatMismatch. -/
def Plan.word (p : Plan) (sel : Nat) : Option Nat :=
  let idx := bits sel 6 2
  let wd := bits sel 9 7
  let pick (n size : Nat) : Option Nat := if wd < size then some (bits n (64 * wd + 63) (64 * wd)) else none
  if bits sel 63 10 != 0 then none
  else
    match bits sel 1 0 with
    | 0 => if idx = 0 then pick (p.hdr.word p.ports.length p.holes.length p.mems.length) 8 else none
    | 1 => (p.ports[idx]?).bind (fun x => pick x.entry.toNat 4)
    | 2 => (p.mems[idx]?).bind (fun m => pick m.toNat 2)
    | _ => (p.holes[idx]?).bind (fun h => pick h.word 1)

/-- The cost word (R345). -/
def Plan.cost (p : Plan) : Word :=
  BitVec.ofNat 64 (p.hdr.ii + p.hdr.lat * 2 ^ 16 + p.hdr.w % 64 * 2 ^ 40 + p.hdr.h % 32 * 2 ^ 46 + p.hdr.xphase % 4 * 2 ^ 51
    + p.ports.length % 64 * 2 ^ 53)

/-! ## The plan table (R51, R52) -/

/-- The handle of an entry (R51). -/
def PlanEnt.handle (e : PlanEnt) (i : Nat) : Word :=
  let h : Plan := e.plan.getD ⟨Header.read 0, [], [], [], [], [], [], [], []⟩
  BitVec.ofNat 64 (i % 2 ^ 20 + e.gen.toNat * 2 ^ 20 + e.lib.isSome.toNat * 2 ^ 32 + h.hdr.dlf.toNat * 2 ^ 33
    + (!h.holes.isEmpty).toNat * 2 ^ 34 + h.hdr.faultp.toNat * 2 ^ 35)

/-- The entry of a handle that is not stale (R52). -/
def State.planOf (s : State) (h : Word) : Option (Nat × PlanEnt × Plan) :=
  let n := h.toNat
  match SMap.find? s.plans (bits n 19 0) with
  | none => none
  | some e =>
    match e.plan with
    | none => none
    | some p => if e.gen.toNat = bits n 31 20 ∧ bits n 63 36 = 0 then some (bits n 19 0, e, p) else none

/-- The lowest free index at or above `i`. -/
def freeIndex (m : SMap PlanEnt) (i : Nat) : Nat :=
  match m with
  | [] => i
  | (k, e) :: rest => if k = i then (if e.plan.isNone then i else freeIndex rest (i + 1)) else if i < k then i else freeIndex rest i

/-- An entry's references changed. -/
def State.modPlan (s : State) (i : Nat) (f : PlanEnt → PlanEnt) : State :=
  match SMap.find? s.plans i with
  | none => s
  | some e => { s with plans := SMap.put s.plans i (f e) }

/-- A new entry, with a reference to each operand; none when the table is full (R52, R53). -/
def State.newPlan (s : State) (p : Plan) (kids : List Nat) (task lib : Option Nat) : Option (Nat × State) :=
  let i := freeIndex s.plans 0
  if i < 2 ^ 20 then
    let gen := ((SMap.find? s.plans i).map PlanEnt.gen).getD 0
    let s : State := { s with plans := SMap.put s.plans i ⟨gen, 0, true, task, lib, some { p with kids := kids }⟩ }
    some (i, kids.foldl (fun s k => s.modPlan k (fun e => { e with refs := e.refs + 1 })) s)
  else none

/-- An entry whose references have all gone is reclaimed, and what it refers to loses a reference (R52); what objects of the library are
released comes back as a list. -/
def reclaim (m : SMap PlanEnt) : Nat → Nat → SMap PlanEnt × List Nat
  | 0, _ => (m, [])
  | fuel + 1, i =>
    match SMap.find? m i with
    | none => (m, [])
    | some e =>
      match e.plan with
      | none => (m, [])
      | some p =>
        if e.own || e.refs != 0 then (m, [])
        else
          let m := SMap.put m i { e with plan := none, lib := none, task := none }
          p.kids.foldl (fun (m, out) k =>
            match SMap.find? m k with
            | none => (m, out)
            | some c =>
              let (m, more) := reclaim (SMap.put m k { c with refs := c.refs - 1 }) fuel k
              (m, out ++ more)) (m, e.lib.toList)

/-- An entry loses a reference of a launch. -/
def State.dropPlan (s : State) (i : Nat) : State × List Nat :=
  let s := s.modPlan i (fun e => { e with refs := e.refs - 1 })
  let (m, objs) := reclaim s.plans (s.plans.length + 1) i
  ({ s with plans := m }, objs)

/-- PFREE of an entry: the generation advances at once, the table's own reference goes (R52, R348). -/
def State.freePlan (s : State) (i : Nat) : State × List Nat :=
  let s := s.modPlan i (fun e => { e with gen := e.gen + 1, own := false })
  let (m, objs) := reclaim s.plans (s.plans.length + 1) i
  ({ s with plans := m }, objs)

end Sys2Proof.Machine
end

