-- ==== Sys2Proof/Machine/Loader.lean ====
section
/-!
DEFINITION. Configuration images and the loader's checks (R25, R33, R67, R87 to R98, R118, R119, R122, R128, R130, R226, R228, R410 to R412).
-/
namespace Sys2Proof.Machine

/-! ## Images (R67) -/

/-- A tile of the directory: its place in the fragment, whether it is a memory tile, the address of its block. -/
structure ImgTile where
  fx : Nat
  fy : Nat
  isMem : Bool
  addr : Nat
deriving DecidableEq, Repr

/-- An image as it lies in memory. A joint is the producer's format and the consumer's port entry; a relocation the symbol, the directory
index, the generator; a channel its number, the directory index, the queue. -/
structure Image where
  tiles : List ImgTile
  joints : List (Nat × BitVec 256)
  relocs : List (BitVec 32 × Nat × Nat)
  chans : List (Nat × Nat × Nat)
  comms : List Nat
  ctiles : List (Nat × List Nat)
  bad : Option Nat

/-- What an entry of a collective section breaks of R67, each with its lowest bit: LOCAL, the local part of a DESTd that it uses, and a DESTd that
it does not use hold zero. -/
def ctileConds (e : Nat) : List (Bool × Nat) :=
  let used (d : Nat) : Bool := !bit e 14 && decide (d ≤ bits e 16 15)
  spare e 113 64 :: (List.range 4).map (fun d => spare e (64 * d + (if used d then 167 else 177)) (64 * d + 128))

/-- The relocation word of a field that an entry does not use holds zero (R67). -/
def ctileWords (e : Nat) (ws : List Nat) : Option Nat :=
  let used (d : Nat) : Bool := !bit e 14 && decide (d ≤ bits e 16 15)
  (List.range 4).findSome? (fun d => if used d then none else badWord (ws.getD (d + 1) 0) [spare (ws.getD (d + 1) 0) 63 0])

/-- An image read and held against the ranges of R67 for a record of that size: `bad` is the 32-bit word of the first item that breaks them. The
spec gives an image no length, so an offset lies outside it where it leads out of the memory of its package (log 90). -/
def State.readImage (s : State) (r : Rec) : Image :=
  let a := r.image
  let h := s.homeWord a 64
  let np := r.ports.length
  let nt := bits h 10 0
  let nj := bits h 71 64
  let nr := bits h 139 128
  let nc := bits h 203 192
  let dir := (List.range nt).map (fun i => s.homeWord (a + bits h 63 32 + 8 * i) 8)
  let w := bits r.hdr 37 32
  let y := bits r.hdr 43 38
  let rel := (List.range nr).map (fun i => s.homeWord (a + bits h 191 160 + 8 * i) 8)
  let chn := (List.range nc).map (fun i => s.homeWord (a + bits h 255 224 + 4 * i) 4)
  let jnt := (List.range nj).map (fun i => s.homeWord (a + bits h 127 96 + 64 * i) 64)
  let cs := a + bits h 319 288
  let csize := bits h 287 256
  let ncomm := if csize = 0 then 0 else s.homeWord cs 1
  let nctile := if csize = 0 then 0 else s.homeWord (cs + 2) 2
  let c0 := cs + 64
  let t0 := c0 + 32 * ncomm
  let w0 := t0 + 64 * nctile
  let tiles := dir.map (fun d => (⟨bits d 5 0, bits d 10 6, bit d 11, a + bits d 63 32⟩ : ImgTile))
  let memAt (i : Nat) : Option Bool := (tiles[i]?).map ImgTile.isMem
  let outside (o n : Nat) : Bool := (a + o + n - 1) / 2 ^ 40 != a / 2 ^ 40
  let sect (hi lo n : Nat) : Bool × Nat := (bits h hi lo % 64 != 0 || outside (bits h hi lo) n, lo)
  let twice (i : Nat) (d : Nat) : Bool := (dir.take i).any (fun e => bits e 10 0 == bits d 10 0)
  let placed (e : BitVec 256) : Bool := tiles.any (fun t => t.fx == pBfx e && t.fy == pBfy e)
  let block (d : Nat) : Bool := outside (bits d 63 32) 384
  let chTwice (i : Nat) (x : Nat) : Bool := (chn.take i).any (fun z => bits z 11 0 == bits x 11 0)
  let ctiles := (List.range nctile).map (fun i =>
    (s.homeWord (t0 + 64 * i) 64, (List.range 5).map (fun k => s.homeWord (w0 + 40 * i + 8 * k) 8)))
  let joints := jnt.map (fun j => (bits j 127 0, BitVec.ofNat 256 (bits j 383 128)))
  { tiles := tiles
    joints := joints
    relocs := rel.map (fun x => (BitVec.ofNat 32 (bits x 31 0), bits x 42 32, bits x 44 43))
    chans := chn.map (fun x => (bits x 11 0, bits x 22 12, bits x 24 23))
    comms := (List.range ncomm).map (fun i => s.homeWord (c0 + 32 * i) 32)
    ctiles := ctiles
    bad := (badWord h [(decide (nt < 1) || decide (1504 < nt), 0), spare h 31 11, spare h 95 72, spare h 159 140, spare h 223 204, spare h 511 320,
          (decide (32 < nj + np), 64), sect 63 32 (8 * nt), sect 127 96 (64 * nj), sect 191 160 (8 * nr), sect 255 224 (4 * nc),
          sect 319 288 csize, (csize != 0 && decide (csize < 64 + 32 * ncomm + 104 * nctile), 256)])
      |>.or (dir.zipIdx.findSome? (fun (d, i) => badWord d [(twice i d || decide (w ≤ bits d 5 0), 0), (decide (y ≤ bits d 10 6), 6),
          (bit d 11 != (bits d 5 0 % 3 == bits r.hdr 45 44), 11), spare d 31 12, (block d, 32)]))
      |>.or (jnt.findSome? (fun j => badWord j (spare j 511 384 :: formatConds (bits j 127 0) false
          ++ (portConds w y (BitVec.ofNat 256 (bits j 383 128))).map (fun c => (c.1, c.2 + 128))
          ++ [(!placed (BitVec.ofNat 256 (bits j 383 128)), 348)])))
      |>.or (rel.findSome? (fun x => badWord x [(memAt (bits x 42 32) != some true, 32), spare x 63 45]))
      |>.or (chn.zipIdx.findSome? (fun (x, i) => badWord x [(bits x 11 0 == 0 || chTwice i x, 0), (memAt (bits x 22 12) != some false, 12), spare x 31 25]))
      |>.or (if csize = 0 then none else let c := s.homeWord cs 64; badWord c [spare c 15 8, spare c 511 32])
      |>.or (ctiles.findSome? (fun (e, ws) => (badWord e (ctileConds e)).or (ctileWords e ws))) }

/-! ## Configuration blocks (R88, R118) -/

/-- An element's block. -/
structure EBlock where
  slots : Vector (BitVec 32) 32
  sides : Vector (BitVec 16) 32
  comps : Vector (BitVec 16) 16
  consts : Vector Word 8
  routes : Vector (BitVec 32) 16
  ctrl : BitVec 64
  table : BitVec 64
  rest : Nat
  init : List (Nat × Nat)

/-- A memory tile's block. -/
structure MBlock where
  ctrl : BitVec 64
  bind : BitVec 64
  rest : Nat
  recs : Vector (BitVec 512) 4
  routes : Vector (BitVec 32) 16

/-- An element's block read; the initial-register blocks follow in ascending context order (R91). -/
def State.readElem (s : State) (a : Nat) : EBlock :=
  let ctrl := s.homeWord (a + 0x160) 8
  let cs := (List.range 4).filter (fun c => bit ctrl (27 + c))
  { slots := Vector.ofFn (fun n => BitVec.ofNat 32 (s.homeWord (a + 4 * n.val) 4))
    sides := Vector.ofFn (fun n => BitVec.ofNat 16 (s.homeWord (a + 0x80 + 2 * n.val) 2))
    comps := Vector.ofFn (fun n => BitVec.ofNat 16 (s.homeWord (a + 0xC0 + 2 * n.val) 2))
    consts := Vector.ofFn (fun n => BitVec.ofNat 64 (s.homeWord (a + 0xE0 + 8 * n.val) 8))
    routes := Vector.ofFn (fun n => BitVec.ofNat 32 (s.homeWord (a + 0x120 + 4 * n.val) 4))
    ctrl := BitVec.ofNat 64 ctrl
    table := BitVec.ofNat 64 (s.homeWord (a + 0x168) 8)
    rest := s.homeWord (a + 0x170) 16
    init := cs.zipIdx.map (fun (c, k) => (c, s.homeWord (a + 384 + 136 * k) 136)) }

/-- A memory tile's block read. -/
def State.readMemBlock (s : State) (a : Nat) : MBlock where
  ctrl := BitVec.ofNat 64 (s.homeWord a 8)
  bind := BitVec.ofNat 64 (s.homeWord (a + 8) 8)
  rest := s.homeWord (a + 16) 48
  recs := Vector.ofFn (fun n => BitVec.ofNat 512 (s.homeWord (a + 0x40 + 64 * n.val) 64))
  routes := Vector.ofFn (fun n => BitVec.ofNat 32 (s.homeWord (a + 0x140 + 4 * n.val) 4))

/-! ## Checks (R96 to R98) -/

/-- An illegal word: cause, WHAT, INDEX, and the 32-bit word that holds the lowest offending bit. -/
structure Illegal where
  cause : Nat
  what : Nat
  index : Nat
  word : Nat
deriving DecidableEq, Repr

/-- Conditions on one item, each a cause and its lowest offending bit where it holds: the lowest cause is reported (R96), with the lowest bit that
offends by it (R98). -/
def judge (what index x : Nat) (cs : List (Bool × Nat × Nat)) : Option Illegal :=
  match cs.filter Prod.fst with
  | [] => none
  | c :: rest =>
    let (_, cause, low) := rest.foldl (fun a b => if b.2.1 < a.2.1 ∨ (b.2.1 = a.2.1 ∧ b.2.2 < a.2.2) then b else a) c
    some ⟨cause, what, index, bits x (low / 32 * 32 + 31) (low / 32 * 32)⟩

/-- The first of several findings with the lowest cause (R96). -/
def worst (xs : List (Option Illegal)) : Option Illegal :=
  xs.foldl (fun a b => match a, b with | some x, some y => if y.cause < x.cause then some y else some x | none, y => y | x, none => x) none

/-- The ConfigIllegal detail of what belongs to no tile (R98): its two halves. -/
def Illegal.d0 (w : Illegal) : Word := BitVec.ofNat 64 (w.cause + w.what * 2 ^ 8)
/-- The word that offends. -/
def Illegal.d1 (w : Illegal) : Word := BitVec.ofNat 64 w.word

/-- A reserved field is not zero: cause 4. -/
def reservedSet (x hi lo : Nat) : Bool × Nat × Nat := (bits x hi lo != 0, 4, lowBit x hi lo)

/-- An enabled slot (R87): the trigger is not never. -/
def slotOn (w : BitVec 32) : Bool := (w.extractLsb' 26 6).toNat != 57

/-- The cause of a slot word, with the kinds of the element's queues and ports (R22, R87, R96). -/
def slotCause (w : BitVec 32) (iq op : BitVec 4) : Nat :=
  if slotOn w then
    match decodeSlot w with
    | .error c => c
    | .ok i => if i.kinds.any (fun (port, q, vec) => (if port then op else iq).getLsbD q.val != vec) then 6 else 0
  else if w = disabledWord then 0
  else match decodeSlot w with
    | .error c => if c < 9 then c else 9
    | .ok _ => 9

/-- The cause of a side halfword (R84, R85, R87). -/
def sideCause (w : BitVec 32) (h : BitVec 16) : Nat :=
  let tagged := slotOn w && match decodeWord w with | some i => i.tagged | none => true
  if h.toNat / 2 ^ 11 != 0 || (sidePeff h == 0 && sidePidx h != 0) || (sideTag h != 0 && !tagged) then 4
  else if slotOn w || h = 0 then 0 else 9

/-- The cause of a compound trigger entry (R83). -/
def compCause (w : BitVec 16) : Nat :=
  let one (c : Nat) : Nat := if 58 ≤ c then 3 else if c = 57 ∨ (32 ≤ c ∧ c < 48) then 9 else 0
  let cs := [one (w.extractLsb' 0 6).toNat, one (w.extractLsb' 6 6).toNat, if w.getLsbD 13 then 3 else 0, if w.toNat / 2 ^ 14 = 0 then 0 else 4]
  (cs.filter (· != 0)).foldl (fun a b => if a = 0 then b else min a b) 0

/-- The cause of a route entry (R25). `sends` are the ports that the fragment sends from this tile. -/
def routeCause (w : BitVec 32) (sends : List Nat) (np nj : Nat) (used : Bool) : Nat :=
  let n := w.toNat
  let port := bits n 15 11
  if bits n 31 29 != 0 then 4
  else if bits n 28 16 != 0 then 7
  else if bit n 10 then (if sends.contains port || (decide (np ≤ port) && decide (port < np + nj)) then 0 else 7)
  else if port != 0 || (used && bits n 4 0 == 0 && !bit n 5) then 7
  else 0

/-- One word with a cause. -/
def wordBad (what index x cause : Nat) : Option Illegal := if cause = 0 then none else some ⟨cause, what, index, x⟩

/-- The contexts that own an enabled slot (R18). -/
def EBlock.owned (b : EBlock) : List Nat :=
  (((List.finRange 32).filter (fun n => slotOn (b.slots.get n))).map (fun n => (sideOwner (b.sides.get n)).val)).eraseDups

/-- The instructions of a block's enabled slots. -/
def EBlock.instrs (b : EBlock) : List Instr := ((List.finRange 32).filter (fun n => slotOn (b.slots.get n))).filterMap (fun n => decodeWord (b.slots.get n))

/-- IQKIND. -/
def EBlock.iq (b : EBlock) : BitVec 4 := b.ctrl.extractLsb' 3 4
/-- OPKIND. -/
def EBlock.op (b : EBlock) : BitVec 4 := b.ctrl.extractLsb' 7 4
/-- The route class of an output port. -/
def EBlock.cls (b : EBlock) (q : Nat) : Nat := bits b.ctrl.toNat (14 + 4 * q) (11 + 4 * q)

/-- The ports that a block's slots use; XREQ alone uses none (R25). -/
def EBlock.used (b : EBlock) : List Nat :=
  (b.instrs.filterMap (fun i => match i with | .xreq _ _ _ => none | _ => i.shape.port)).map Fin.val

/-- The ports of a record that its tile at a place sends (R25). -/
def Rec.sendsAt (r : Rec) (fx fy : Nat) : List Nat :=
  (r.ports.zipIdx.filter (fun (e, _) => pSends e && pBfx e == fx && pBfy e == fy)).map Prod.snd

/-- The neighbour in a direction, in fragment coordinates shifted by one. -/
def stepFrom (fx fy d : Nat) : Nat × Nat :=
  match d with
  | 0 => (fx, fy - 1)
  | 1 => (fx + 1, fy)
  | 2 => (fx, fy + 1)
  | _ => (fx - 1, fy)

/-- The leader of a follower's chain, if the chain is straight, unbroken and no longer than 16 (R33). -/
def leaderWalk (elems : List (Nat × Nat × EBlock)) (d : Nat) : Nat → Nat → Nat → Option (Nat × Nat)
  | 0, _, _ => none
  | k + 1, fx, fy =>
    if (d = 0 && fy == 0) || (d = 3 && fx == 0) then none
    else
      let (nx, ny) := stepFrom fx fy d
      match elems.find? (fun (x, y, _) => x == nx && y == ny) with
      | none => none
      | some (_, _, b) => if b.ctrl.getLsbD 0 then (if bits b.ctrl.toNat 2 1 = d then leaderWalk elems d k nx ny else none) else some (nx, ny)

/-- The leader of an element, if it follows one by a legal chain. One leader has its followers in one direction alone (R33). -/
def leaderAt (elems : List (Nat × Nat × EBlock)) (fx fy : Nat) (b : EBlock) : Option (Nat × Nat) :=
  let d := bits b.ctrl.toNat 2 1
  match leaderWalk elems d 15 fx fy with
  | none => none
  | some l =>
    let others := elems.filter (fun (_, _, c) => c.ctrl.getLsbD 0)
    if others.any (fun (x, y, c) => bits c.ctrl.toNat 2 1 != d && leaderWalk elems (bits c.ctrl.toNat 2 1) 15 x y == some l) then none else some l

/-- An element's words in ascending offset (R88, R97): the first that is illegal. -/
def checkElem (r : Rec) (nj : Nat) (elems : List (Nat × Nat × EBlock)) (fx fy : Nat) (b : EBlock) : Option Illegal :=
  let follow := b.ctrl.getLsbD 0
  let leader := if follow then (leaderAt elems fx fy b).bind (fun l => elems.find? (fun (x, y, _) => x == l.1 && y == l.2)) else none
  let slot (n : Fin 32) : Option Illegal :=
    let w := b.slots.get n
    let missing := (leader.map (fun (_, _, l) => slotOn (l.slots.get n))).getD false && !slotOn w
    let c := slotCause w b.iq b.op
    wordBad 0 n.val w.toNat (if missing && (c == 0 || decide (8 < c)) then 8 else c)
  let c := b.ctrl.toNat
  let t := b.table.toNat
  let owned := b.owned
  let initBad := (List.range 4).filter (fun k => bit c (27 + k) && !owned.contains k)
  let ents := (List.range 16).map (fun n => (n, bits t (3 * n + 2) (3 * n)))
  let resv := ents.find? (fun (_, e) => decide (1 ≤ e) && decide (e ≤ 3))
  let unown := ents.find? (fun (_, e) => decide (4 ≤ e) && !owned.contains (e - 4))
  ((List.finRange 32).findSome? slot)
    |>.or ((List.finRange 32).findSome? (fun n => wordBad 1 n.val (b.sides.get n).toNat (sideCause (b.slots.get n) (b.sides.get n))))
    |>.or ((List.finRange 16).findSome? (fun n => wordBad 2 n.val (b.comps.get n).toNat (compCause (b.comps.get n))))
    |>.or ((List.finRange 16).findSome? (fun n => wordBad 4 n.val (b.routes.get n).toNat
        (routeCause (b.routes.get n) (r.sendsAt fx fy) r.ports.length nj ((b.used.map b.cls).contains n.val))))
    |>.or (judge 5 0 c [reservedSet c 63 31, (!follow && bits c 2 1 != 0, 4, 1), (follow && leader.isNone, 8, 0),
        (!initBad.isEmpty, 10, 27 + initBad.headD 0)])
    |>.or (judge 6 0 t [reservedSet t 63 48, (resv.isSome, 3, 3 * (resv.map Prod.fst).getD 0), (unown.isSome, 10, 3 * (unown.map Prod.fst).getD 0)])
    |>.or (judge 5 1 (bits b.rest 63 0) [reservedSet b.rest 63 0])
    |>.or (judge 5 2 (b.rest / 2 ^ 64) [reservedSet (b.rest / 2 ^ 64) 63 0])
    |>.or (b.init.findSome? (fun (k, x) => judge 7 k x [reservedSet x 1087 1032]))

/-! ## Memory tiles (R118 to R122, R128, R130, R410 to R412) -/

/-- KIND of a stream record. -/
def sKind (r : BitVec 512) : Nat := bits r.toNat 3 0
/-- FMT. -/
def sFmt (r : BitVec 512) : Nat := bits r.toNat 7 4
/-- SR. -/
def sSr (r : BitVec 512) : Bool := r.getLsbD 8
/-- MXAXIS. -/
def sAxis (r : BitVec 512) : Nat := bits r.toNat 10 9
/-- EDGE_REP. -/
def sRep (r : BitVec 512) : Bool := r.getLsbD 11
/-- NDIM: dimensions less one. -/
def sNdim (r : BitVec 512) : Nat := bits r.toNat 13 12
/-- FEWAIT. -/
def sWait (r : BitVec 512) : Bool := r.getLsbD 14
/-- FECLR. -/
def sClr (r : BitVec 512) : Bool := r.getLsbD 15
/-- BASE. -/
def sBase (r : BitVec 512) : Nat := bits r.toNat 71 16
/-- COUNTd. -/
def sCount (r : BitVec 512) (d : Nat) : Nat := bits r.toNat (87 + 16 * d) (72 + 16 * d)
/-- STRIDEd. -/
def sStride (r : BitVec 512) (d : Nat) : Int := sfield r.toNat (159 + 24 * d) (136 + 24 * d)
/-- ORGd, for d = 0 and 1. -/
def sOrg (r : BitVec 512) (d : Nat) : Int := if d < 2 then sfield r.toNat (247 + 16 * d) (232 + 16 * d) else 0
/-- EXTd, for d = 0 and 1. -/
def sExt (r : BitVec 512) (d : Nat) : Nat := if d < 2 then bits r.toNat (279 + 16 * d) (264 + 16 * d) else 0
/-- SCALE_OFF. -/
def sScale (r : BitVec 512) : Nat := bits r.toNat 327 296
/-- COMP. -/
def sComp (r : BitVec 512) : Bool := r.getLsbD 328
/-- COMP_PORT. -/
def sCompPort (r : BitVec 512) : Fin 4 := ⟨bits r.toNat 330 329 % 4, Nat.mod_lt _ (by decide)⟩
/-- EOR. -/
def sEor (r : BitVec 512) : Bool := r.getLsbD 331
/-- PTILE. -/
def sPtile (r : BitVec 512) : Nat := bits r.toNat 336 332
/-- SPORT. -/
def sSport (r : BitVec 512) : Nat := bits r.toNat 338 337
/-- DIRECT. -/
def sDirect (r : BitVec 512) : Bool := r.getLsbD 339

/-- The coordinates that mirroring cannot bring into range (R130). -/
def mirrorBad (r : BitVec 512) (d : Nat) : Bool :=
  let ext : Int := sExt r d
  let cnt : Int := sCount r d
  let rep : Int := if sRep r then 1 else 0
  ext != 0 && cnt != 0 && decide (d ≤ sNdim r) && (decide (sOrg r d < 1 - ext - rep) || decide (2 * ext - 2 + rep < sOrg r d + cnt - 1))

/-- The conditions on a stream record, of an address generator that is enabled or not; `queueVec` is the kind of its bound queue, `writes` the
formats of the tile's mode writes. -/
def streamBad (r : BitVec 512) (on : Bool) (mode : Nat) (queueVec : Bool) (writes : List Nat) (g : Nat) : Option Illegal :=
  let n := r.toNat
  let k := sKind r
  let f := sFmt r
  let bypass := sDirect r || (k != 1 && k != 2)
  let fifo := mode == 1 && !bypass
  judge 8 (4 + g) n
    [reservedSet n 511 340, (decide (9 < k), 3, 0), (decide (11 < f), 3, 4), (f == 9 && k != 9, 5, 4), (sClr r && !sWait r, 5, 15),
      (mode == 3 && !bypass, 5, 0), (on && fifo && k == 1 && writes.any (· != f), 5, 4),
      ((f == 6 || f == 9) && !fifo && sStride r (sAxis r) != 1, 5, 136 + 24 * sAxis r),
      (mirrorBad r 0, 5, 232), (mirrorBad r 1, 5, 248), (on && k == 8 && !queueVec, 6, 0)]

/-- AGQ of a generator. -/
def agQueue (ctrl : BitVec 64) (g : Nat) : Fin 4 := ⟨bits ctrl.toNat (29 + 2 * g) (28 + 2 * g) % 4, Nat.mod_lt _ (by decide)⟩
/-- AGO of a generator. -/
def agPort (ctrl : BitVec 64) (g : Nat) : Fin 4 := ⟨bits ctrl.toNat (37 + 2 * g) (36 + 2 * g) % 4, Nat.mod_lt _ (by decide)⟩
/-- A generator is enabled. -/
def agOn (ctrl : BitVec 64) (g : Nat) : Bool := bit ctrl.toNat (24 + g)

/-- A memory tile's words in ascending offset (R97, R118). -/
def checkMem (r : Rec) (nj : Nat) (fx fy : Nat) (b : MBlock) : Option Illegal :=
  let c := b.ctrl.toNat
  let mode := bits c 2 0
  let nb := bits c 5 3
  let size := bits c 21 6
  let on := (List.range 4).filter (agOn b.ctrl)
  let two := mode == 0 || mode == 2
  let rec' (g : Nat) : BitVec 512 := Vector.at (n := 3) b.recs g
  let writes := (on.filter (fun g => sKind (rec' g) == 2 && !sDirect (rec' g))).map (fun g => sFmt (rec' g))
  let sends := (on.filter (fun g => [1, 3, 5, 8, 9].contains (sKind (rec' g)))).map (fun g => (agPort b.ctrl g).val)
  let comps := (on.filter (fun g => sComp (rec' g))).map (fun g => (sCompPort (rec' g)).val)
  let cls (q : Nat) : Nat := bits b.bind.toNat (4 * q + 3) (4 * q)
  let clash (f : Nat → Fin 4) : Option Nat := on.find? (fun g => on.any (fun h => h != g && f h == f g))
  let cq := clash (agQueue b.ctrl)
  let cp := clash (agPort b.ctrl)
  (judge 8 0 c [reservedSet c 63 52, (decide (3 < mode), 3, 0), (bits c 23 22 == 3, 3, 22),
      ((two && (nb == 0 || decide (32768 < (nb + 1) * size))) || (!two && nb != 0), 5, 3), (size == 0 || decide (32768 < size), 5, 6),
      (cq.isSome, 5, 28 + 2 * cq.getD 0), (cp.isSome, 5, 36 + 2 * cp.getD 0)])
    |>.or (judge 8 1 b.bind.toNat [reservedSet b.bind.toNat 63 16])
    |>.or (judge 8 2 b.rest [reservedSet b.rest 383 0])
    |>.or ((List.range 4).findSome? (fun g => streamBad (rec' g) (agOn b.ctrl g) mode (bit c (44 + (agQueue b.ctrl g).val)) writes g))
    |>.or ((List.finRange 16).findSome? (fun n => wordBad 8 (16 + n.val) (b.routes.get n).toNat
        (routeCause (b.routes.get n) (r.sendsAt fx fy) r.ports.length nj (((sends ++ comps).map cls).contains n.val))))

/-! ## Collective sections (R226, R228) -/

/-- The word of a communicator record that breaks its ranges. -/
def commBad (c : Nat) : Option Nat :=
  badWord c [spare c 63 55, spare c 255 80, (decide (bits c 44 35 < 1) || decide (640 < bits c 44 35), 35), (decide (bits c 44 35 ≤ bits c 54 45), 45)]

/-- What makes a tile-table entry illegal (R228): each cause with its lowest bit; `comms` is the number of communicators of its image. -/
def ctileJudge (c comms : Nat) : List (Bool × Nat × Nat) :=
  let op := bits c 9 6
  let f := bits c 13 10
  let nch := bits c 27 17
  let sum := [1, 2, 3, 4, 5].contains f
  [(decide (5 < op), 3, 6), (decide (11 < f), 3, 10), reservedSet c 63 38, reservedSet c 127 114, reservedSet c 511 384]
    ++ (List.range 4).map (fun d => reservedSet c (64 * d + 191) (64 * d + 178))
    ++ [(decide (comms ≤ bits c 5 0), 5, 0), ((op == 1 || op == 2) && !sum, 5, 10), ((op == 3 || op == 4) && !(sum || f == 10), 5, 10),
      (op == 5 && f != 0, 5, 10), ((op == 5 && nch != 4) || nch == 0 || decide (1024 < nch), 5, 17),
      ((bit c 14 && bits c 37 28 == 0) || decide (640 < bits c 37 28), 5, 28)]

end Sys2Proof.Machine
end

