-- ==== Sys2Proof/Machine/TileOps.lean ====
section
/-!
DEFINITION. LDS, STS, FEOP and their service by a memory tile (R124 to R127, R310, R311, R323, R324, R373, R374).
-/
namespace Sys2Proof.Machine


/-- LDS with one of its qualifiers (R323). -/
def sendLds (i : Instr) (q : Fin 4) (a : SSrc) (s : State) : Host.Outcome State Fault Refusal :=
  fire i s (fun e s =>
    let vec := e.tile.iqKind.getLsbD q.val
    match e.region.localAddr e.ctx.leaf (e.s a) (accessSize vec) (accessAlign vec) with
    | .error f => s.issueFault e i f
    | .ok (tile, _) => .done (s.issue e i (e.s a) 0 0 (.s 0) (s.cycle + transit e.site.tile tile)) 0)

/-- LDS.N (R323). -/
def execLdsN (t : Trig) (q : Fin 4) (a : SSrc) (s : State) : Host.Outcome State Fault Refusal := sendLds (.ldsN t q a) q a s
/-- LDS.W (R323). -/
def execLdsW (t : Trig) (q : Fin 4) (a : SSrc) (s : State) : Host.Outcome State Fault Refusal := sendLds (.ldsW t q a) q a s
/-- LDS.WC (R323). -/
def execLdsWc (t : Trig) (q : Fin 4) (a : SSrc) (s : State) : Host.Outcome State Fault Refusal := sendLds (.ldsWc t q a) q a s

/-- STS (R373). -/
def execSts (t : Trig) (r : RDst) (a : SSrc) (b : ASrc) (s : State) : Host.Outcome State Fault Refusal :=
  fire (.sts t r a b) s (fun e s =>
    let pay := e.a b
    let n := pay.bytes.length
    match e.region.localAddr e.ctx.leaf (e.s a) n (if n = 80 then 16 else 8) with
    | .error f => s.issueFault e (.sts t r a b) f
    | .ok (tile, _) => .done (s.issue e (.sts t r a b) (e.s a) 0 0 pay (s.cycle + transit e.site.tile tile)) 0)

/-- FEOP (R310). -/
def sendFeop (i : Instr) (n : Fin 8) (s : State) : Host.Outcome State Fault Refusal :=
  fire i s (fun e s =>
    let (a, g) := e.pair n
    let off := bits a.toNat 18 0
    match e.region.localTile e.ctx.leaf a.toNat with
    | none => s.issueFault e i ⟨kProt, 1, a⟩
    | some tile =>
      if bits a.toNat 63 30 != 0 then s.issueFault e i ⟨kProt, 1, a⟩
      else if off % 16 != 0 || g == 0 || decide (32768 < g.toNat) || decide (2 ^ 19 < off + 16 * g.toNat) then s.issueFault e i ⟨kProt, 3, a⟩
      else .done (s.issue e i a g 0 (.s 0) (s.cycle + transit e.site.tile tile)) 0)

/-- FEOP.CLR (R310). -/
def execFeopClr (t : Trig) (r : RDst) (n : Fin 8) (s : State) : Host.Outcome State Fault Refusal := sendFeop (.feopClr t r n) n s
/-- FEOP.SET (R310). -/
def execFeopSet (t : Trig) (r : RDst) (n : Fin 8) (s : State) : Host.Outcome State Fault Refusal := sendFeop (.feopSet t r n) n s

/-! ## Service by a bank (R126, R127) -/

/-- The memory tile of a request. -/
def State.reqTile (s : State) (r : Req) : Option Nat := (s.region? r.region).bind (fun g => g.localTile r.leaf r.x.toNat)

/-- The size of the reply of an LDS. -/
def State.ldsSize (s : State) (r : Req) : Nat := accessSize (s.vectorQueue r.tile r.q)

/-- An LDS is answered from the tile; LDS.WC empties its granules in the cycle of the read (R125). -/
def State.serveLds (s : State) (r : Req) (t off : Nat) (clear : Bool) : State :=
  let n := s.ldsSize r
  let bs := s.sramBytes t off n
  let s := s.useBanks t (banksOf off n)
  let s := if clear then s.setFulls t off n false else s
  s.answer r.id (bytesPay (s.vectorQueue r.tile r.q) bs) none {} (s.cycle + transit r.tile t)

/-- A step of a FEOP: the next granule of each bank of the range that is free in this cycle, in ascending order (R126, R127); the reply is sent in the
cycle after the last (R311). -/
def State.stepFeop (s : State) (r : Req) (t off : Nat) (b : Bool) : State :=
  let g0 := off / 16
  let g1 := g0 + r.y.toNat
  let step (k : Nat) : Nat × Nat × Nat × Bool :=
    let lo := max g0 (2048 * k)
    let hi := min g1 (2048 * (k + 1))
    let j := r.banked.getD k 0
    (k, lo + j, hi, decide (lo + j < hi) && s.banksFree t [k])
  let steps := (List.range 16).map step
  let s := steps.foldl (fun s (k, g, _, go) => if go then (s.setFull t g b).useBanks t [k] else s) s
  let after := steps.map (fun (k, g, hi, go) => (k, (if go then g + 1 else g), hi))
  if after.all (fun (_, g, hi) => decide (hi ≤ g)) then s.answer r.id (.s r.y) none {} (s.cycle + 1 + transit r.tile t)
  else s.modReq r.id (fun x => { x with z := 1, due := s.cycle + 1, banked := after.map (fun (k, g, _) => g - max g0 (2048 * k)) })

/-- A tile's bank serves a request of the request path, if the banks it needs are free in this cycle. -/
def serveTile (s : State) (r : Req) : State :=
  match s.reqTile r with
  | none => s
  | some t =>
    let off := bits r.x.toNat 18 0
    match r.op with
      | .ldsN _ _ _ => if s.banksFree t (banksOf off (s.ldsSize r)) then s.serveLds r t off false else s
      | .ldsW _ _ _ | .ldsWc _ _ _ =>
        let n := s.ldsSize r
        let clear : Bool := match r.op with | .ldsWc _ _ _ => true | _ => false
        if s.banksFree t (banksOf off n) then
          if s.allFull t off n then s.serveLds r t off clear
          else (s.useBanks t (banksOf off n)).modReq r.id (fun x => { x with st := .waiting })
        else s
      | .sts _ _ _ _ =>
        let bs := r.pay.bytes
        if s.banksFree t (banksOf off bs.length) then
          ((s.storeSram t off bs).useBanks t (banksOf off bs.length)).answer r.id (.s 0) none {} (s.cycle + transit r.tile t)
        else s
      | .feopClr _ _ _ => s.stepFeop r t off false
      | .feopSet _ _ _ => s.stepFeop r t off true
      | _ => s

/-- LDS_RELEASE: a waiting LDS.W or LDS.WC is served in the cycle after its granules became full (R125, R126). -/
def execLdsRelease (rq : Nat) (s : State) : Host.Outcome State Fault Refusal :=
  match s.req? rq with
  | none => .next s
  | some r =>
    match s.reqTile r with
    | none => .next s
    | some t =>
      let off := bits r.x.toNat 18 0
      let n := s.ldsSize r
      if r.st == .waiting && s.allFull t off n && s.banksFree t (banksOf off n) then
        match r.op with
        | .ldsW _ _ _ => .next (s.serveLds r t off false)
        | .ldsWc _ _ _ => .next (s.serveLds r t off true)
        | _ => .next s
      else .next s

end Sys2Proof.Machine
end

