-- ==== Sys2Proof/Machine/SummaryOps.lean ====
section
/-!
DEFINITION. The summary and top-k instructions and their service by the units of a memory tile (R179 to R182, R221 to R224, R303 to R305,
R318, R359, R368 to R370, R380).
-/
namespace Sys2Proof.Machine

/-- A request that fails at its unit: its fault returns (R156, R209). -/
def State.failReq (s : State) (r : Req) (f : FaultInfo) (due : Nat) : State := (s.modReq r.id (fun x => { x with due := due })).replyFault r f

/-! ## The instructions -/

/-- A request on one object of `size` bytes at an address in a register pair, with its argument (R303). -/
def sendObj (i : Instr) (n : Fin 8) (size : Nat) (bad : Word → Bool) (s : State) : Host.Outcome State Fault Refusal :=
  fire i s (fun e s =>
    let (a, arg) := e.pair n
    match e.region.localAddr e.ctx.leaf a size 256 with
    | .error f => s.issueFault e i f
    | .ok (tile, _) =>
      if bad arg then s.issueFault e i ⟨kProt, 3, a⟩
      else .done (s.issue e i a arg 0 (.s 0) (s.cycle + transit e.site.tile tile)) 0)

/-- SINIT.QS (R368). -/
def execSinitQs (t : Trig) (r : RDst) (n : Fin 8) (s : State) : Host.Outcome State Fault Refusal :=
  sendObj (.sinitQs t r n) n 4096 (fun _ => false) s
/-- SINIT.HH (R368). -/
def execSinitHh (t : Trig) (r : RDst) (n : Fin 8) (s : State) : Host.Outcome State Fault Refusal :=
  sendObj (.sinitHh t r n) n 4096 (fun _ => false) s
/-- SINIT.DC (R368). -/
def execSinitDc (t : Trig) (r : RDst) (n : Fin 8) (s : State) : Host.Outcome State Fault Refusal :=
  sendObj (.sinitDc t r n) n 4096 (fun _ => false) s
/-- QREAD (R359). -/
def execQread (t : Trig) (q : Fin 4) (n : Fin 8) (s : State) : Host.Outcome State Fault Refusal :=
  sendObj (.qread t q n) n 4096 (fun _ => false) s
/-- QRANK (R359). -/
def execQrank (t : Trig) (q : Fin 4) (n : Fin 8) (s : State) : Host.Outcome State Fault Refusal :=
  sendObj (.qrank t q n) n 4096 (fun _ => false) s
/-- HHGET: an index above 255 is a ProtectionFault, cause 3 (R318). -/
def execHhget (t : Trig) (q : Fin 4) (n : Fin 8) (s : State) : Host.Outcome State Fault Refusal :=
  sendObj (.hhget t q n) n 4096 (fun i => decide (255 < i.toNat)) s
/-- DCEST (R303). -/
def execDcest (t : Trig) (q : Fin 4) (n : Fin 8) (s : State) : Host.Outcome State Fault Refusal :=
  sendObj (.dcest t q n) n 4096 (fun _ => false) s
/-- TKINIT (R224). -/
def execTkinit (t : Trig) (r : RDst) (n : Fin 8) (s : State) : Host.Outcome State Fault Refusal :=
  sendObj (.tkinit t r n) n 4672 (fun _ => false) s
/-- TKOUT: a rank above 255 is a ProtectionFault (R224). -/
def execTkout (t : Trig) (q : Fin 4) (n : Fin 8) (s : State) : Host.Outcome State Fault Refusal :=
  sendObj (.tkout t q n) n 4672 (fun i => decide (255 < i.toNat)) s

/-- SMERGE: both addresses are checked at the firing; the request goes to the source's tile first (R369, R370). -/
def execSmerge (t : Trig) (r : RDst) (a b : SSrc) (s : State) : Host.Outcome State Fault Refusal :=
  fire (.smerge t r a b) s (fun e s =>
    match e.region.localAddr e.ctx.leaf (e.s a) 4096 256, e.region.localAddr e.ctx.leaf (e.s b) 4096 256 with
    | .error f, _ => s.issueFault e (.smerge t r a b) f
    | _, .error f => s.issueFault e (.smerge t r a b) f
    | .ok _, .ok (src, _) => .done (s.issue e (.smerge t r a b) (e.s a) (e.s b) 0 (.s 0) (s.cycle + transit e.site.tile src)) 0)

/-- A SINS form: one vector token with the insert kind in its side-band (R304). -/
def sendIns (i : Instr) (o : Fin 4) (a : VSrc) (kind : Nat) (s : State) : Host.Outcome State Fault Refusal :=
  fire i s (fun e s => .done (s.send e o (sideTag e.side) (.v (e.v a)) (.ins kind)) 0)

/-- QSINS (R304). -/
def execQsins (t : Trig) (o : Fin 4) (a : VSrc) (s : State) : Host.Outcome State Fault Refusal := sendIns (.qsins t o a) o a 0 s
/-- HHINS (R304). -/
def execHhins (t : Trig) (o : Fin 4) (a : VSrc) (s : State) : Host.Outcome State Fault Refusal := sendIns (.hhins t o a) o a 1 s
/-- DCINS (R304). -/
def execDcins (t : Trig) (o : Fin 4) (a : VSrc) (s : State) : Host.Outcome State Fault Refusal := sendIns (.dcins t o a) o a 2 s

/-- TKINS: the score in lane 0, the ID in lane 1 (R224, R380). -/
def execTkins (t : Trig) (o : Fin 4) (a b : SSrc) (s : State) : Host.Outcome State Fault Refusal :=
  fire (.tkins t o a b) s (fun e s =>
    let x := Vec.build (fun n => if n = 0 then (e.s a).setWidth 40 else if n = 1 then ((e.s b).setWidth 32).setWidth 40 else 0)
    .done (s.send e o (sideTag e.side) (.v x) .none) 0)

/-! ## The summary unit -/

/-- The bytes of a summary. -/
def State.sumBytes (s : State) (t off : Nat) : List Byte := s.sramBytes t off 4096

/-- The bytes of `n` granules. -/
def splitGranules : Nat → List Byte → List (List Byte)
  | 0, _ => []
  | n + 1, bs => bs.take 16 :: splitGranules n (bs.drop 16)

/-- A summary's bytes written by an operation on it: the granules that it changes are those that it writes, and they become full (R179; log 96). -/
def State.putSum (s : State) (t off : Nat) (bs : List Byte) : State :=
  ((splitGranules 256 (s.sumBytes t off)).zip (splitGranules 256 bs)).zipIdx.foldl (fun (s : State) ((old, new), i) =>
    if old = new then s else s.storeSram t (off + 16 * i) new) s

/-- The banks that an operation on a summary takes in the cycle of its service (R126, R182). -/
def sumBanks (off : Nat) : List Nat := banksOf off 4096

/-- The kind of a request on a summary, if it must match byte 0. -/
def sumWants (i : Instr) : Option SumKind :=
  match i with
  | .qread _ _ _ | .qrank _ _ _ => some .qs
  | .hhget _ _ _ => some .hh
  | .dcest _ _ _ => some .dc
  | _ => none

/-- The unit is held until a cycle; a merge holds its destination (R182, R370). -/
def State.holdUnit (s : State) (t cycles : Nat) (on : Option Nat) : State :=
  s.modMem t (fun m => { m with unitBusy := s.cycle + cycles, unitOn := on })

/-- The unit is free to begin an operation. -/
def State.unitFree (s : State) (t : Nat) : Bool := ((s.mem? t).map (fun m => decide (m.unitBusy ≤ s.cycle))).getD true

/-- The unit is merging into the summary at an offset (R370). -/
def State.mergingOn (s : State) (t off : Nat) : Bool :=
  ((s.mem? t).map (fun m => decide (s.cycle < m.unitBusy) && m.unitOn == some off)).getD false

/-- Flags set in the status record of the region that holds a tile (R359). -/
def State.tileFlags (s : State) (t : Nat) (f : Flags) : State :=
  match s.tile? t with
  | none => s
  | some x => s.modRegion x.region (fun r => { r with setNow := r.setNow ||| f })

/-- The two tiles and offsets of an SMERGE: destination, source. -/
def State.mergeTiles (s : State) (r : Req) : Option (Nat × Nat × Nat × Nat) :=
  match s.region? r.region with
  | none => none
  | some g =>
    match g.localTile r.leaf r.x.toNat, g.localTile r.leaf r.y.toNat with
    | some d, some o => some (d, bits r.x.toNat 18 0, o, bits r.y.toNat 18 0)
    | _, _ => none

/-- The tiles that a request of the request path still has to reach (R182, R324). -/
def State.pathTiles (s : State) (r : Req) : List Nat :=
  match r.op with
  | .smerge _ _ _ _ => match s.mergeTiles r with
    | some (d, _, o, _) => if r.z = 0 then [d, o] else [d]
    | none => []
  | .ldsN _ _ _ | .ldsW _ _ _ | .ldsWc _ _ _ | .sts _ _ _ _ | .feopClr _ _ _ | .feopSet _ _ _
  | .sinitQs _ _ _ | .sinitHh _ _ _ | .sinitDc _ _ _ | .qread _ _ _ | .qrank _ _ _ | .hhget _ _ _ | .dcest _ _ _
  | .tkinit _ _ _ | .tkout _ _ _ => if r.z = 0 then (s.reqTile r).toList else []
  | _ => []

/-- The tiles of the rows that an element's MGATH still has to read (R333). -/
def State.gatherTiles (s : State) (tile : Nat) : List Nat :=
  match s.tile? tile, s.elem? tile with
  | some x, some e =>
    match s.region? x.region with
    | some g => (e.mat.gaddr.drop (e.mat.garrived + (if e.mat.gheld.isSome then 1 else 0))).filterMap (g.localTile x.leaf)
    | none => []
  | _, _ => []

/-- An older request of an element to tile `t` has not been served: a request of the request path, or a row of an MGATH (R126, R182, R324). -/
def State.olderOnPath (s : State) (tile id t : Nat) : Bool :=
  s.reqs.any (fun o => o.tile == tile && decide (o.id < id) && o.st == .sent && (s.pathTiles o).contains t)
    || (((s.elem? tile).map (fun e => decide (e.mat.gid < id))).getD false && (s.gatherTiles tile).contains t)

/-- A request of the request path waits for an older one to tile `t`. -/
def State.pathBlocked (s : State) (r : Req) (t : Nat) : Bool := s.olderOnPath r.tile r.id t

/-- The bytes of a summary of an expected kind, if they are one (R179). -/
def State.sumOf (s : State) (t off : Nat) (k : SumKind) : Option (List Byte) :=
  let bs := s.sumBytes t off
  if sumKind bs = some k && sumValid bs k then some bs else none

/-- A read of a summary: the reply, the flags and the cycles that hold the unit. -/
def State.sumRead (s : State) (r : Req) (bs : List Byte) : Payload × Flags × Nat :=
  match r.op with
  | .qread _ _ _ => let x := (QS.read bs).quantile (r.y.setWidth 40); (.s (x.1.setWidth 64), x.2, 48)
  | .qrank _ _ _ => let x := (QS.read bs).rank (r.y.setWidth 40) (Config.freeWord s.freeCtr); (.s x.1, x.2, 24)
  | .hhget _ _ _ => (.v ((HH.read bs).get r.y.toNat), 0, 1)
  | .dcest _ _ _ => (.s (dcEstimate bs), 0, 32)
  | _ => (.s 0, 0, 1)

/-- SINIT served: the object is written in 16 cycles; the reply is sN (R180, R368). -/
def State.serveInit (s : State) (r : Req) (t off : Nat) (k : SumKind) : State :=
  (((s.storeSram t off (sumInit k r.y)).useBanks t (sumBanks off)).holdUnit t 16 none).answer r.id (.s r.x) none {} (s.cycle + 16 + transit r.tile t)

/-- The second step of SMERGE: the snapshot is merged into the destination, whose unit it holds until it ends (R191, R370). -/
def State.mergeInto (s : State) (r : Req) (d doff : Nat) (snap : List Byte) : State :=
  match (sumKind snap).bind (fun k => (s.sumOf d doff k).map (fun bs => sumMerge k bs snap)) with
  | none => s.failReq r ⟨kFormat, 0, 0⟩ (s.cycle + transit r.tile d)
  | some m => (((s.putSum d doff m.1).useBanks d (sumBanks doff)).holdUnit d m.2.2 (some doff)).answer r.id (.s m.2.1) none {} (s.cycle + m.2.2 + transit r.tile d)

/-- SMERGE in its two steps (R370): the snapshot of the source, then the merge into the destination; back to back in one tile. -/
def State.serveMerge (s : State) (r : Req) : State :=
  match s.mergeTiles r with
  | none => s
  | some (d, doff, o, ooff) =>
    if r.z = 0 then
      if s.pathBlocked r o || s.pathBlocked r d || s.mergingOn o ooff || (d == o && !s.unitFree d) || !s.banksFree o (sumBanks ooff) || (d == o && !s.banksFree d (sumBanks doff)) then s
      else
        let s := s.useBanks o (sumBanks ooff)
        let bs := s.sumBytes o ooff
        let overlap := d == o && decide (doff < ooff + 4096) && decide (ooff < doff + 4096)
        if overlap || !((sumKind bs).map (sumValid bs)).getD false then s.failReq r ⟨kFormat, 0, 0⟩ (s.cycle + transit r.tile o)
        else if d = o then s.mergeInto r d doff bs
        else (s.modReq r.id (fun x => { x with z := 1, snap := bs, due := s.after 1 })).tick
    else if s.unitFree d && s.banksFree d (sumBanks doff) then s.mergeInto r d doff r.snap
    else s

/-- SUMMARY_OP_SERVE (R182). -/
def execSummaryOpServe (rq : Nat) (s : State) : Host.Outcome State Fault Refusal :=
  match s.req? rq with
  | none => .next s
  | some r =>
    if r.st != .sent || decide (s.cycle < r.due) then .next s
    else
      match r.op with
      | .smerge _ _ _ _ => .next (s.serveMerge r)
      | .sinitQs _ _ _ | .sinitHh _ _ _ | .sinitDc _ _ _ | .qread _ _ _ | .qrank _ _ _ | .hhget _ _ _ | .dcest _ _ _ =>
        match s.reqTile r with
        | none => .next s
        | some t =>
          let off := bits r.x.toNat 18 0
          if s.pathBlocked r t || !s.unitFree t || !s.banksFree t (sumBanks off) then .next s
          else
            match r.op with
            | .sinitQs _ _ _ => .next (s.serveInit r t off .qs)
            | .sinitHh _ _ _ => .next (s.serveInit r t off .hh)
            | .sinitDc _ _ _ => .next (s.serveInit r t off .dc)
            | _ =>
              match (sumWants r.op).bind (s.sumOf t off) with
              | none => .next (s.failReq r ⟨kFormat, 0, 0⟩ (s.cycle + transit r.tile t))
              | some bs =>
                let (p, f, n) := s.sumRead r bs
                .next ((((((s.tileFlags t f).useBanks t (sumBanks off)).holdUnit t n none).answer r.id p none {} (s.cycle + n + transit r.tile t))).tick)
      | _ => .next s

/-! ## The top-k unit (R221 to R223) -/

/-- The order of scores as W40 numbers, -0 below +0. -/
def scoreBelow (a b : Lane) : Bool := Num.below (unpack a) (unpack b)

/-- The order of entries: score descending, then ID ascending (R223). -/
def tkBefore (a b : Lane × Nat) : Bool := scoreBelow b.1 a.1 || (!scoreBelow a.1 b.1 && decide (a.2 < b.2))

/-- K and the valid entries of a record (R221). -/
def State.tkEntries (s : State) (t off : Nat) : Nat × List (Lane × Nat) :=
  let ctl := leNat (s.sramBytes t (off + 512) 4)
  (bits ctl 8 0, (List.range (min (bits ctl 17 9) 256)).map (fun e =>
    let w := leNat (s.sramBytes t (off + 576 + 16 * e) 16)
    (BitVec.ofNat 40 w, bits w 71 40)))

/-- FILLED and the entries of a record written. -/
def State.putTk (s : State) (t off : Nat) (xs : List (Lane × Nat)) : State :=
  let ctl := leNat (s.sramBytes t (off + 512) 4)
  let s := s.putSram t (off + 512) (leBytes 4 (ctl - bits ctl 17 9 * 512 + xs.length * 512))
  s.putSram t (off + 576) (xs.flatMap (fun (sc, id) => leBytes 16 (sc.toNat + id * 2 ^ 40)))

/-- An insert into the bound record (R223, R380), with its flags. -/
def State.tkInsert (s : State) (t off : Nat) (score : Lane) (id : Nat) : State :=
  if nonCanonical score || (unpack score).isNan then s.tileFlags t NV
  else
    let (k, xs) := s.tkEntries t off
    if xs.any (fun x => x.2 == id) then
      s.putTk t off (sortBy tkBefore (xs.map (fun x => if x.2 = id && scoreBelow x.1 score then (score, id) else x)))
    else if xs.length < k then s.putTk t off (sortBy tkBefore (xs ++ [(score, id)]))
    else
      match xs.getLast? with
      | none => s
      | some l => if tkBefore (score, id) l then s.putTk t off (sortBy tkBefore (xs.dropLast ++ [(score, id)])) else s

/-- NORM: the square root of the exact sum of squares, rounded once (R222). -/
def tkNorm (q : List Nat) : Lane × Flags :=
  let sum := numSum (q.map (fun p => (Num.mul (fp32.unpack p) (fp32.unpack p)).1))
  match sum.1 with
  | .nan => (nanW, 0)
  | .inf _ => (infW, 0)
  | .num _ m e =>
    if m = 0 then (0, 0)
    else
      let (m, e) : Nat × Int := if e % 2 = 0 then (m, e) else (2 * m, e - 1)
      let m := m * 2 ^ 128
      let r := isqrtGo m 400 0
      w40 (.num false (2 * r + (if r * r = m then 0 else 1)) ((e - 128) / 2 - 1))

/-- The banks of a top-k record (R126, R221). -/
def tkBanks (off : Nat) : List Nat := banksOf off 4672

/-- TKINIT served (R224): the record is bound, the query and NORM are taken, K is written and FILLED is 0. -/
def State.serveTkinit (s : State) (r : Req) (t off : Nat) : State :=
  if r.y = 0 || decide (256 < r.y.toNat) then s.failReq r ⟨kFormat, 0, 0⟩ (s.cycle + transit r.tile t)
  else
    let raw := s.sramBytes t off 512
    let n := tkNorm ((List.range 128).map (fun c => fieldAt raw (4 * c) 4))
    let s := s.putSram t (off + 512) (leBytes 10 (r.y.toNat + n.1.toNat * 2 ^ 40))
    let s := s.modMem t (fun m => { m with topk := some ⟨off, n.1, BitVec.ofNat 4096 (leNat raw)⟩, tkBusy := s.cycle + 1 })
    (s.tileFlags t n.2).answer r.id (.s (n.1.setWidth 64)) none {} (s.cycle + 1 + transit r.tile t)

/-- TKOUT served (R224). -/
def State.serveTkout (s : State) (r : Req) (t off : Nat) (bound : Option TopK) : State :=
  if (bound.map TopK.off) != some off then s.failReq r ⟨kFormat, 0, 0⟩ (s.cycle + transit r.tile t)
  else
    let (_, xs) := s.tkEntries t off
    let x := match xs[r.y.toNat]? with
      | some (sc, id) => Vec.build (fun n => if n = 0 then sc else if n = 1 then BitVec.ofNat 40 id else if n = 2 then 1 else 0)
      | none => Vec.zero
    (s.modMem t (fun m => { m with tkBusy := s.cycle + 1 })).answer r.id (.v x) none {} (s.cycle + 1 + transit r.tile t)

/-- The top-k unit serves TKINIT and TKOUT in the order of R182, one operation per cycle (R223). -/
def serveTopk (s : State) (r : Req) : State :=
  match s.reqTile r with
  | none => s
  | some t =>
    let off := bits r.x.toNat 18 0
    match s.mem? t with
    | none => s.failReq r ⟨kFormat, 0, 0⟩ (s.cycle + transit r.tile t)
    | some m =>
      if s.pathBlocked r t || decide (s.cycle < m.tkBusy) || !s.banksFree t (tkBanks off) then s
      else
        let s := s.useBanks t (tkBanks off)
        match r.op with
        | .tkinit _ _ _ => s.serveTkinit r t off
        | .tkout _ _ _ => s.serveTkout r t off m.topk
        | _ => s

/-- TILE_REQUEST_SERVE: a bank serves LDS, STS or FEOP; the top-k unit serves TKINIT or TKOUT (R126, R223). -/
def execTileRequestServe (rq : Nat) (s : State) : Host.Outcome State Fault Refusal :=
  match s.req? rq with
  | none => .next s
  | some r =>
    if r.st != .sent || decide (s.cycle < r.due) then .next s
    else
      match r.op with
      | .tkinit _ _ _ | .tkout _ _ _ => .next (serveTopk s r)
      | _ =>
        match s.reqTile r with
        | none => .next s
        | some t => if s.pathBlocked r t then .next s else .next (serveTile s r)

end Sys2Proof.Machine
end

