-- ==== Sys2Proof/Machine/Objects.lean ====
section
/-!
DEFINITION. Objects, handles and Pewter (R147 to R162, R178, R313 to R317, R325).
-/
namespace Sys2Proof.Machine

/-! ## The object table (R148) -/

/-- The key of an entry. -/
def State.objKey (s : State) (i : Nat) : Nat := s.regs.objtab.toNat + 32 * i

/-- An entry as 256 bits. -/
def State.obj (s : State) (i : Nat) : Nat := s.homeWord (s.objKey i) 32

/-- An entry written. -/
def State.putObj (s : State) (i e : Nat) : State := (s.putHome (s.objKey i) 32 e).watchSys (s.objKey i) 32 1

/-- BASE. -/
def oBase (e : Nat) : Nat := bits e 49 0
/-- SIZE. -/
def oSize (e : Nat) : Nat := bits e 103 64
/-- SCOUNT. -/
def oCount (e : Nat) : Nat := bits e 127 104
/-- STATE: 0 free, 1 live, 2 dying. -/
def oState (e : Nat) : Nat := bits e 129 128
/-- PRIO. -/
def oPrio (e : Nat) : Nat := bits e 133 130
/-- KIND. -/
def oKind (e : Nat) : Nat := bits e 141 134
/-- GEN. -/
def oGen (e : Nat) : Nat := bits e 159 144
/-- AGE. -/
def oAge (e : Nat) : Nat := bits e 191 160

/-- A field replaced. -/
def oSet (e hi lo v : Nat) : Nat := e - bits e hi lo * 2 ^ lo + v % 2 ^ (hi + 1 - lo) * 2 ^ lo

/-- The live and dying objects with their indices. -/
def State.objects (s : State) : List (Nat × Nat) :=
  if s.regs.objcnt = 0 then []
  else ((List.range (s.regs.objcnt - 1)).map (fun i => (i + 1, s.obj (i + 1)))).filter (fun (_, e) => oState e == 1 || oState e == 2)

/-- Free bytes of the pool (R159). -/
def State.freeBytes (s : State) : Nat := s.regs.pwsize.toNat - (s.objects.map (fun (_, e) => oSize e)).foldl (· + ·) 0

/-- The lowest free index that has not been retired (R315). -/
def State.freeObj (s : State) : Nat → Nat → Option Nat
  | 0, _ => none
  | k + 1, i => if oState (s.obj i) = 0 && !s.retiredIdx.contains i then some i else State.freeObj s k (i + 1)

/-- The gaps of the pool: start and length. -/
def State.gaps (s : State) : List (Nat × Nat) :=
  let lo := s.regs.pwbase.toNat
  let hi := lo + s.regs.pwsize.toNat
  let used := sortBy (fun (a b : Nat × Nat) => decide (a.1 < b.1)) (s.objects.map (fun (_, e) => (oBase e % 2 ^ 40, oSize e)))
  let (at', gs) := used.foldl (fun (a : Nat × List (Nat × Nat)) (b, n) => (max a.1 (b + n), if a.1 < b then a.2 ++ [(a.1, b - a.1)] else a.2)) (lo, [])
  if at' < hi then gs ++ [(at', hi - at')] else gs

/-- The n-th place at which an object of that size fits. -/
def nthPlace (gs : List (Nat × Nat)) (size n : Nat) : Option Nat :=
  match gs with
  | [] => none
  | (b, l) :: rest =>
    if l < size then nthPlace rest size n
    else
      let c := (l - size) / 256 + 1
      if n < c then some (b + 256 * n) else nthPlace rest size (n - c)

/-- How many places there are. -/
def places (gs : List (Nat × Nat)) (size : Nat) : Nat := (gs.map (fun (_, l) => if l < size then 0 else (l - size) / 256 + 1)).foldl (· + ·) 0

/-- Memory zeroed; no port cache of the package keeps a line of it. -/
def State.zeroHome (s : State) (k n : Nat) : State :=
  State.watchSys { s with
    hbm := SMap.clear s.hbm k (k + n)
    lines := s.lines.filter (fun e => !(decide (k / 256 ≤ e.1 % 2 ^ 44) && decide (e.1 % 2 ^ 44 < (k + n + 255) / 256))) } k n 1

/-- A strong handle of an entry (R147). -/
def handleOf (i e : Nat) (strong : Bool) : Word := BitVec.ofNat 64 (i % 2 ^ 32 + oGen e * 2 ^ 32 + oKind e * 2 ^ 48 + strong.toNat * 2 ^ 56)

/-- What an allocation gives (R159, R315): an object, nothing because memory is short and reclaim may help, or nothing at all. -/
inductive Alloc where
  | made (i : Nat) (s : State)
  | short
  | never

/-- An allocation: the lowest free index, a place in the pool, the entry written. -/
def State.alloc (s : State) (size kind prio : Nat) (zero : Bool) : Alloc :=
  if s.regs.objcnt = 0 || s.regs.pwsize == 0 then .never
  else
    let n := (size + 255) / 256 * 256
    match s.freeObj (s.regs.objcnt - 1) 1 with
    | none => .short
    | some i =>
      let gs := s.gaps
      match nthPlace gs n (Config.place s.freeCtr % places gs n) with
      | none => .short
      | some b =>
        let e := b + Config.ownPackage % 1024 * 2 ^ 40 + n * 2 ^ 64 + 1 * 2 ^ 104 + 1 * 2 ^ 128 + prio % 16 * 2 ^ 130 + kind % 256 * 2 ^ 134
          + oGen (s.obj i) * 2 ^ 144 + s.epoch.toNat * 2 ^ 160
        let s := (s.tick).putObj i e
        .made i (if zero then s.zeroHome b n else s)

/-- Reclaim starts when free bytes fall below PWLOW (R159). -/
def State.checkLow (s : State) : State := if s.freeBytes < s.regs.pwlow.toNat then { s with reclaiming := true } else s

/-- SCOUNT of an object lowered by a holder of the front end or of the library (R162, R347). -/
def State.releaseObj (s : State) (i : Nat) : State :=
  let e := s.obj i
  s.putObj i (oSet (oSet e 127 104 (oCount e - 1)) 191 160 s.epoch.toNat)

/-! ## Victims (R159) -/

/-- An object holds a line that is pending for an uncommitted ordered task. -/
def State.objPending (s : State) (e : Nat) : Bool :=
  let k := domKey (oBase e)
  s.pend.any (fun p => decide (k / 64 ≤ p.sec) && decide (p.sec * 64 < k + oSize e))

/-- The victims, in order. -/
def State.victims (s : State) : List (Nat × Nat) :=
  let vs := s.objects.filter (fun (_, e) => oState e == 1 && oCount e == 0 && decide (oPrio e < 15) && !s.objPending e)
  let age (e : Nat) : Nat := (s.epoch - BitVec.ofNat 32 (oAge e)).toNat
  sortBy (fun (a b : Nat × Nat) => decide (oPrio a.2 < oPrio b.2) || (oPrio a.2 == oPrio b.2 && decide (age b.2 < age a.2))) vs

/-- An allocation has found too little, or no contiguous stretch, or no index: reclaim runs for it, if a victim is left (R159). -/
def State.starve (s : State) : State := if s.victims.isEmpty && s.dying.isNone then s else { s with reclaiming := true, short := true }

/-- OBJECT_DESTROY_BEGIN: steps 1 and 2 of R160, where reclaim runs and no object is being destroyed: STATE becomes dying, and no handle cache holds
the entry. Reclaim stops when the free bytes have reached PWHIGH and no allocation lacks anything; while there is no victim it waits for one. -/
def execObjectDestroyBegin (s : State) : Host.Outcome State Fault Refusal :=
  if s.reclaiming && s.dying.isNone then
    if !s.short && decide (s.regs.pwhigh.toNat ≤ s.freeBytes) then .next { s with reclaiming := false }
    else
      match s.victims with
      | [] => .next { s with short := false }
      | (i, e) :: _ =>
        .next (State.at { (s.putObj i (oSet e 129 128 2)) with
          dying := some i
          ports := s.ports.map (fun (n, p) => (n, { p with handles := p.handles.filter (· != i) })) } (s.after 1) .destructionPoint).tick
  else .next s

/-- A weak LDW of an object has passed its check and has still to return its data (R160). -/
def State.weakOut (s : State) (i : Nat) : Bool :=
  s.reqs.any (fun r => (match r.op with | .ldw _ _ _ _ => true | _ => false) && (match r.st with | .done _ => true | .sent | .waiting => false)
    && !bit r.x.toNat 56 && bits r.x.toNat 31 0 == i)

/-- DESTRUCTION_POINT: steps 3 to 5 of R160: it waits for every acknowledgement; an index whose GEN would wrap is retired (R151); an allocation that
waits tries again. -/
def execDestructionPoint (s : State) : Host.Outcome State Fault Refusal :=
  match s.dying with
  | none => .next s
  | some i =>
    if s.weakOut i then .next (s.at (s.cycle + 1) .destructionPoint)
    else
      let e := s.obj i
      let s : State := { s with dying := none, short := false }
      if oGen e = 0xFFFF then .next { (s.putObj i (oSet e 129 128 0)) with retiredIdx := i :: s.retiredIdx }
      else .next (s.putObj i (oSet (oSet e 129 128 0) 159 144 (oGen e + 1)))

/-- PEWTER_EPOCH_TICK (R149). -/
def execPewterEpochTick (s : State) : Host.Outcome State Fault Refusal := .next { s with epoch := s.epoch + 1 }

/-! ## Handles (R151) -/

/-- What a handle is found to be. -/
inductive HandleIs where
  | invalid
  | gone
  | dying
  | current (i e : Nat)
deriving DecidableEq, Repr

/-- A handle checked against its entry (R151). -/
def State.handleIs (s : State) (h : Word) : HandleIs :=
  let n := h.toNat
  let i := bits n 31 0
  if i = 0 || decide (s.regs.objcnt ≤ i) || bits n 63 57 != 0 then .invalid
  else
    let e := s.obj i
    let same := oGen e == bits n 47 32
    if bit n 56 then if oState e == 1 && same && oKind e == bits n 55 48 then .current i e else .invalid
    else if oState e == 2 then .dying
    else if oState e == 1 && same then if oKind e == bits n 55 48 then .current i e else .invalid
    else .gone

/-- HandleInvalid, with the handle as its detail (R210). -/
def badHandle (h : Word) : FaultInfo := ⟨kHandle, 0, h⟩

/-! ## The instructions -/

/-- A request to a home port: served after 12 cycles, answered in 24 on a hit and in 320 at most (R156). -/
def sendHome (i : Instr) (x y : Env → Word) (s : State) : Host.Outcome State Fault Refusal :=
  fire i s (fun e s => .done (s.issue e i (x e) (y e) 0 (.s 0) (s.cycle + 12)) 0)

/-- HNEW (R315). -/
def execHnew (t : Trig) (q : Fin 4) (a b : SSrc) (z : Bool) (s : State) : Host.Outcome State Fault Refusal :=
  sendHome (.hnew t q a b z) (fun e => e.s a) (fun e => e.s b) s
/-- HDUP (R153). -/
def execHdup (t : Trig) (r : RDst) (a : SSrc) (s : State) : Host.Outcome State Fault Refusal :=
  sendHome (.hdup t r a) (fun e => e.s a) (fun _ => 0) s
/-- HREL (R153, R316). -/
def execHrel (t : Trig) (r : RDst) (a : SSrc) (s : State) : Host.Outcome State Fault Refusal :=
  sendHome (.hrel t r a) (fun e => e.s a) (fun _ => 0) s
/-- HWEAK completes in its firing: bit 56 cleared (R316). -/
def execHweak (t : Trig) (d : SDst) (a : SSrc) (s : State) : Host.Outcome State Fault Refusal :=
  fire (.hweak t d a) s (fun e s => .done (s.writeS e d (e.s a &&& 0xFEFFFFFFFFFFFFFF)) 0)
/-- HUPG (R154). -/
def execHupg (t : Trig) (q : Fin 4) (a : SSrc) (n : Fin 8) (s : State) : Host.Outcome State Fault Refusal :=
  sendHome (.hupg t q a n) (fun e => e.s a) (fun _ => 0) s
/-- HINFO (R153, R316). -/
def execHinfo (t : Trig) (q : Fin 4) (a : SSrc) (s : State) : Host.Outcome State Fault Refusal :=
  sendHome (.hinfo t q a) (fun e => e.s a) (fun _ => 0) s
/-- HPRIO (R153, R316). -/
def execHprio (t : Trig) (r : RDst) (a : SSrc) (n : Fin 16) (s : State) : Host.Outcome State Fault Refusal :=
  sendHome (.hprio t r a n) (fun e => e.s a) (fun _ => 0) s
/-- LDW (R155, R325). -/
def execLdw (t : Trig) (q : Fin 4) (n m : Fin 8) (s : State) : Host.Outcome State Fault Refusal :=
  sendHome (.ldw t q n m) (fun e => (e.pair n).1) (fun e => (e.pair n).2) s

/-! ## Service at the home port (R150) -/

/-- When the reply of a request served now enters its queue (R156). -/
def State.homeReply (s : State) : Nat := s.cycle + 12 + Config.latency s.freeCtr % 297

/-- The home port of an entry for a request (R150). -/
def State.entryPort (s : State) (r : Req) (i : Nat) : Nat := portNo (tileDie r.tile) (s.homePort (tileDie r.tile) (s.objKey i))

/-- When the reply of an operation on an entry enters its queue: 24 cycles after the firing on a hit in the handle cache (R156). -/
def State.entryReply (s : State) (r : Req) (i : Nat) : Nat := if (s.portTile (s.entryPort r i)).handles.contains i then s.cycle + 12 else s.homeReply

/-- The home port's handle cache takes an entry, and gives up another where it is full (R132, log 7). -/
def State.cacheEntry (s : State) (r : Req) (i : Nat) : State :=
  (s.watchSys (s.objKey i) 32 0).modPort (s.entryPort r i) (fun p =>
    let l := p.handles.filter (· != i)
    { p with handles := i :: (if Config.handleRoom < l.length then l.eraseIdx (Config.victim s.freeCtr % l.length) else l) })

/-- An operation on an entry answered (R150). -/
def State.entryAnswer (s : State) (r : Req) (i : Nat) (w : Word) (pred : Option Bool) : State :=
  ((s.cacheEntry r i).answer r.id (.s w) pred {} (s.entryReply r i)).tick

/-- An answer of the home port. -/
def State.homeAnswer (s : State) (r : Req) (w : Word) (pred : Option Bool) : State := (s.answer r.id (.s w) pred {} s.homeReply).tick

/-- A fault of the home port. -/
def State.homeFault (s : State) (r : Req) (f : FaultInfo) : State := (s.failReq r f s.homeReply).tick

/-- The bytes that an access acts on, by their keys (R170): none while its address cannot be translated. -/
def State.accessKeys (s : State) (r : Req) : List (Nat × Nat) :=
  match r.op, r.pa with
  | .ldw _ _ _ _, _ => match s.handleIs r.x with | .current _ e => [(domKey (oBase e) + r.y.toNat, accessSize (s.vectorQueue r.tile r.q))] | .invalid | .gone | .dying => []
  | _, some k => [(k, (accessOf s r).1)]
  | _, none =>
    match s.region? r.region with
    | none => []
    | some g =>
      let (n, align, need) := accessOf s r
      match s.pieces none (g.entries (rowPort r.tile) 0) r.x.toNat n align need with
      | .ok ps => ps.map (fun (k, m, _) => (k, m))
      | .error _ => []

/-- A request whose order with others of its context to the same address counts: neither commutative, non-ordering nor quantum (R170). -/
def ordersAtAddress (i : Instr) : Bool :=
  match i with
  | .ldg _ _ _ | .stg _ _ _ _ | .ldw _ _ _ _ => true
  | .aadd _ _ _ o | .afadd _ _ _ o | .amin _ _ _ o | .amax _ _ _ o | .aand _ _ _ o | .aor _ _ _ o | .axor _ _ _ o | .aswp _ _ _ o
  | .acas _ _ _ o =>
    (match o with
    | .relaxed .commutative | .relaxed .nonOrdering | .relaxed .quantum => false
    | .relaxed .unpaired | .relaxed .speculative | .sync _ _ => true)
  | _ => false

/-- An older access of the context, to bytes that overlap, must be performed first (R170). -/
def State.olderFirst (s : State) (r : Req) : Bool :=
  ordersAtAddress r.op && s.reqs.any (fun q => decide (q.id < r.id) && q.tile == r.tile && q.ctx == r.ctx && q.st == .sent && ordersAtAddress q.op
    && (s.accessKeys r).any (fun (a, n) => (s.accessKeys q).any (fun (b, m) => decide (a < b + m) && decide (b < a + n))))

/-- HNEW served (R315): the checks of R153, then the allocation; it waits while reclaim can still help. -/
def serveHnew (s : State) (r : Req) (z : Bool) : State :=
  let size := r.x.toNat
  let k := bits r.y.toNat 7 0
  if size = 0 || decide (2 ^ 40 - 256 < size) || bits r.y.toNat 63 12 != 0 || (decide (6 ≤ k) && decide (k ≤ 15)) then s.homeFault r (cfgFault 5)
  else
    match s.alloc size k (bits r.y.toNat 11 8) z with
    | .made i s' =>
      let due := s.homeReply + (if z then (oSize (s'.obj i) + 127) / 128 else 0)
      ((s'.checkLow).answer r.id (.s (handleOf i (s'.obj i) true)) none {} due).tick
    | .short => if s.victims.isEmpty && s.dying.isNone then s.homeAnswer r 0 none else s.starve
    | .never => s.homeAnswer r 0 none

/-- LDW of a current object (R155), after the older accesses of its context to the same bytes (R170). -/
def serveLdw (s : State) (r : Req) (i e : Nat) : State :=
  let vec := s.vectorQueue r.tile r.q
  let n := accessSize vec
  let off := r.y.toNat
  if off % accessAlign vec != 0 || decide (oSize e < off + n) then s.homeFault r ⟨kProt, 3, r.y⟩
  else if s.olderFirst r then s
  else
    let due := s.entryReply r i
    let k := domKey (oBase e) + off
    let die := tileDie r.tile
    let (s, bs) := s.readAccess r.region die (s.orderedTask r.task) k n 0
    let s := s.modRegion r.region (fun g => g.widen die (s.homePort die k) false (rngOf k n))
    ((s.cacheEntry r i).answer r.id (bytesPay vec bs) (some false) {} due).tick

/-- HOME_PORT_SERVE: one operation on an entry (R150 to R155). -/
def execHomePortServe (rq : Nat) (s : State) : Host.Outcome State Fault Refusal :=
  match s.req? rq with
  | none => .next s
  | some r =>
    if r.st != .sent || decide (s.cycle < r.due) then .next s
    else
      match r.op with
      | .hnew _ _ _ _ z => .next (serveHnew s r z)
      | .hdup _ _ _ =>
        match s.handleIs r.x with
        | .current i e =>
          if bit r.x.toNat 56 && decide (oCount e < 16777215) then .next ((s.putObj i (oSet e 127 104 (oCount e + 1))).entryAnswer r i r.x none)
          else .next (s.homeFault r (badHandle r.x))
        | _ => .next (s.homeFault r (badHandle r.x))
      | .hrel _ _ _ =>
        match s.handleIs r.x with
        | .current i e =>
          if bit r.x.toNat 56 && oCount e != 0 then .next ((s.releaseObj i).entryAnswer r i (BitVec.ofNat 64 (oCount e - 1)) none)
          else .next (s.homeFault r (badHandle r.x))
        | _ => .next (s.homeFault r (badHandle r.x))
      | .hupg _ _ _ _ =>
        match s.handleIs r.x with
        | .current i e =>
          if oCount e < 16777215 then
            .next ((s.putObj i (oSet (oSet e 127 104 (oCount e + 1)) 191 160 s.epoch.toNat)).entryAnswer r i (handleOf i e true) (some false))
          else .next (s.homeFault r (badHandle r.x))
        | .dying => .next s
        | .gone => .next (s.homeAnswer r 0 (some true))
        | .invalid => .next (s.homeFault r (badHandle r.x))
      | .hinfo _ _ _ =>
        match s.handleIs r.x with
        | .current i e => .next (s.entryAnswer r i (BitVec.ofNat 64 (oSize e / 256 + oCount e * 2 ^ 36 + oPrio e * 2 ^ 60)) none)
        | .dying => .next s
        | .gone => .next (s.homeAnswer r 0 none)
        | .invalid => .next (s.homeFault r (badHandle r.x))
      | .hprio _ _ _ n =>
        match s.handleIs r.x with
        | .current i e => .next ((s.putObj i (oSet e 133 130 n.val)).entryAnswer r i 1 none)
        | .dying | .gone => .next (s.homeAnswer r 0 none)
        | .invalid => .next (s.homeFault r (badHandle r.x))
      | .ldw _ _ _ _ =>
        match s.handleIs r.x with
        | .current i e => .next (serveLdw s r i e)
        | .dying => .next s
        | .gone => .next ((s.answer r.id (bytesPay (s.vectorQueue r.tile r.q) []) (some true) {} s.homeReply).tick)
        | .invalid => .next (s.homeFault r (badHandle r.x))
      | _ => .next s

end Sys2Proof.Machine
end

