-- ==== Sys2Proof/Machine/Build.lean ====
section
/-!
DEFINITION. What a launch makes of a plan: the launch header (R200), the images of its leaves, the loader's checks over them (R63, R97), the
resolution of external classes (R64 to R66), and the tiles of the region.
-/
namespace Sys2Proof.Machine

/-! ## Launch headers (R135, R200) -/

/-- A range entry (R135) with the symbol of its binding. -/
def readRange (n : Nat) (sym : BitVec 32) (soff : Nat) : RangeEnt where
  vbase := bits n 55 0
  size := bits n 95 64
  pbase := bits n 145 96
  rd := bit n 146
  wr := bit n 147
  atom := bit n 148
  paged := bit n 149
  valid := bit n 150
  dom := bit n 151
  sym := sym
  soff := soff

/-- What makes a binding entry of 40 bytes illegal (R135, R200). -/
def bindBad (w : Nat) : Option Illegal :=
  let top := if bit w 213 then 162 else 175
  judge 9 0 w [reservedSet w 63 48, reservedSet w 127 120, reservedSet w 319 216, (bits w 79 64 != 0, 5, lowBit w 79 64), (bits w 159 128 == 0, 5, 128),
    (bits w top 160 != 0, 5, lowBit w top 160), (!bit w 215 && bits w 209 200 != 0, 5, lowBit w 209 200)]

/-- A launch header from its 1,024 bits, with what makes it illegal (R36, R200): of the header, its binding entries and its link entries in this
order the first with the lowest cause (log 91). -/
def State.parseHeader (s : State) (h : Nat) : LHeader × Option Illegal :=
  let nb := bits h 583 576
  let nl := bits h 652 648
  let bs := (List.range (min nb 64)).map (fun i => s.homeWord (domKey (bits h 575 512) + 40 * i) 40)
  let ls := (List.range (min nl 16)).map (fun i => s.homeWord (domKey (bits h 647 584) + 8 * i) 8)
  let widths := (List.range 6).map (fun n => bits h (261 + 6 * n) (256 + 6 * n))
  let f := bits h 497 496
  let own := judge 9 0 h [reservedSet h 319 312, reservedSet h 511 499, reservedSet h 1023 653, (decide (64 < widths.foldl (· + ·) 0), 5, 256),
    (decide (4096 < bits h 306 294), 5, 294), (decide (16 < bits h 311 307), 5, 307), (f == 3, 5, 496), (decide (64 < nb), 5, 576),
    (decide (16 < nl), 5, 648), (bits h 647 584 % 8 != 0, 5, 584), (bit h 498 && bits h 479 448 == 0, 5, 448), (bit h 498 && bits h 495 480 == 0, 5, 480)]
  let c := worst (own :: bs.map bindBad ++ ls.map (fun l => judge 9 0 l [reservedSet l 31 5]))
  ({ plan := BitVec.ofNat 64 (bits h 63 0)
     wid := BitVec.ofNat 64 (bits h 127 64)
     seed := BitVec.ofNat 64 (bits h 191 128)
     ts := BitVec.ofNat 64 (bits h 255 192)
     widths := widths
     ordered := bit h 292
     altok := bit h 293
     quantum := bits h 306 294
     shareK := bits h 311 307
     rstart := bits h 383 320
     rend := bits h 447 384
     minChunk := bits h 479 448
     consumers := bits h 495 480
     f := 2 ^ f
     ruen := bit h 498
     binds := bs.map (fun b => readRange (b / 2 ^ 64) (BitVec.ofNat 32 (bits b 31 0)) (bits b 47 32))
     links := ls.map (fun l => (bits l 4 0, BitVec.ofNat 32 (bits l 63 32))) }, c)

/-- A launch header at a key. -/
def State.readHeader (s : State) (a : Nat) : LHeader × Option Illegal := s.parseHeader (s.homeWord a 128)

/-- A launch that breaks a limit (R98): WHAT 9, cause 5, with the word that offends; 0 where the limit is broken by no one word (log 91). -/
def broken (word : Nat) : Illegal := ⟨5, 9, 0, word⟩

/-- The binding of a symbol. -/
def LHeader.bind (h : LHeader) (sym : BitVec 32) : Option RangeEnt := h.binds.find? (fun b => b.sym == sym)

/-! ## Leaves with their images -/

/-- A leaf of a plan with its record and its image. -/
structure Leaf where
  num : Nat
  leaf : PlanLeaf
  record : Rec
  img : Image

/-- The leaves of a plan read from memory. -/
def State.readLeaves (s : State) (p : Plan) : List Leaf :=
  p.leaves.zipIdx.map (fun (l, i) => let r := s.readRec l.addr; ⟨i, l, r, s.readImage r⟩)

/-- The bytes from a record's first to the last of its image (R67, R88, R91, R118). -/
def State.recordSize (s : State) (addr : Nat) (r : Rec) : Nat :=
  let h := s.homeWord r.image 64
  let img := s.readImage r
  let tile (t : ImgTile) : Nat :=
    if t.isMem then t.addr + 0x180
    else t.addr + 384 + 136 * ((List.range 4).filter (fun c => bit (s.homeWord (t.addr + 0x160) 8) (27 + c))).length
  let ends := [r.image + 64, r.image + bits h 63 32 + 8 * img.tiles.length, r.image + bits h 127 96 + 64 * bits h 71 64,
    r.image + bits h 191 160 + 8 * bits h 139 128, r.image + bits h 255 224 + 4 * bits h 203 192,
    r.image + bits h 319 288 + bits h 287 256] ++ img.tiles.map tile
  ends.foldl max addr - addr

/-- The front end reads a fragment's record and image (R264). -/
def State.watchImage (s : State) (addr : Nat) (r : Rec) : State := s.watchSys addr (s.recordSize addr r) 0

/-- The leaf is one that a PSEQ runs now, or that no PSEQ holds: `turn` has the bit of every PSEQ whose B has been loaded (R64). -/
def PlanLeaf.active (l : PlanLeaf) (turn : Nat) : Bool := l.turn.all (fun (i, b) => bit turn i == (b == 1))

/-- The leaf has run: it stood before a PSEQ that has gone on. -/
def PlanLeaf.past (l : PlanLeaf) (turn : Nat) : Bool := l.turn.any (fun (i, b) => b == 0 && bit turn i)

/-- The symbols that a plan's memory effects and a leaf's relocations name. -/
def symbolsOf (p : Plan) (ls : List Leaf) : List (BitVec 32) :=
  p.mems.map mSym ++ ls.flatMap (fun l => l.img.relocs.map Prod.fst)
    ++ ls.flatMap (fun l => l.img.ctiles.flatMap (fun (e, ws) =>
        (BitVec.ofNat 32 (bits (ws.headD 0) 31 0)) ::
          (if bit e 14 then [] else (List.range (bits e 16 15 + 1)).map (fun d => BitVec.ofNat 32 (bits (ws.getD (d + 1) 0) 31 0)))))

/-- The elements of a leaf with their places, for the chains of R33. -/
def State.leafElems (s : State) (l : Leaf) : List (Nat × Nat × EBlock) :=
  (l.img.tiles.filter (fun t => !t.isMem)).map (fun t => (t.fx, t.fy, s.readElem t.addr))

/-! ## The loader's checks (R63, R97, R98) -/

/-- The tiles of a plan in the order in which the loader checks them: ascending fy, then fx. -/
def checkOrder (ls : List Leaf) : List (Leaf × ImgTile) :=
  sortBy (fun (a b : Leaf × ImgTile) =>
    let ka := (a.1.leaf.oy + a.2.fy) * 64 + a.1.leaf.ox + a.2.fx
    let kb := (b.1.leaf.oy + b.2.fy) * 64 + b.1.leaf.ox + b.2.fx
    decide (ka < kb)) (ls.flatMap (fun l => l.img.tiles.map (fun t => (l, t))))

/-- The first illegal word of a tile. -/
def State.checkTile (s : State) (l : Leaf) (t : ImgTile) : Option Illegal :=
  if t.isMem then checkMem l.record l.img.joints.length t.fx t.fy (s.readMemBlock t.addr)
  else checkElem l.record l.img.joints.length (s.leafElems l) t.fx t.fy (s.readElem t.addr)

/-- The ConfigIllegal detail of a tile's word (R98): its two halves. -/
def illegalDetail (w : Illegal) (die x y fx fy blocked : Nat) : Word × Word :=
  (BitVec.ofNat 64 (w.cause + w.what * 2 ^ 8 + w.index % 32 * 2 ^ 12 + die % 4 * 2 ^ 17 + x % 64 * 2 ^ 19 + y % 32 * 2 ^ 25 + fx % 64 * 2 ^ 30
    + fy % 32 * 2 ^ 36 + blocked % 4096 * 2 ^ 42), BitVec.ofNat 64 w.word)

/-- What the checks of the tiles at an origin find: nothing, or the detail of the first illegal word with the number of tiles blocked. -/
def State.checkTiles (s : State) (ls : List Leaf) (die x0 y0 : Nat) : Option (Word × Word) :=
  let bad := (checkOrder ls).filterMap (fun (l, t) => (s.checkTile l t).map (fun w => (l, t, w)))
  match bad with
  | [] => none
  | (l, t, w) :: _ => some (illegalDetail w die (x0 + l.leaf.ox + t.fx) (y0 + l.leaf.oy + t.fy) t.fx t.fy bad.length)

/-- The first joint of a list that disagrees (R63): DETAIL0 of the record. -/
def checkJointList (ls : List Leaf) : Option Word :=
  ls.findSome? (fun l => l.img.joints.zipIdx.findSome? (fun ((f, c), j) => (disagree f (pFormat c)).map (fun d => BitVec.ofNat 64 (j % 256 + d * 256))))

/-- A slot of RNEXT without a range unit (R364). -/
def State.strayRnext (s : State) (ls : List Leaf) : Bool :=
  ls.any (fun l => (s.leafElems l).any (fun (_, _, b) => b.instrs.any (fun i => match i with | .rnext _ _ _ => true | _ => false)))

/-- What identifies a range entry as a distinct range (R250): not the symbol of its binding. -/
def RangeEnt.plain (r : RangeEnt) : RangeEnt := { r with sym := 0, soff := 0 }

/-- The range entries of some symbols, each once, in the order of the binding table. -/
def gatherEnts (h : LHeader) (syms : List (BitVec 32)) : List RangeEnt := ((h.binds.filter (fun b => syms.contains b.sym)).map RangeEnt.plain).eraseDups

/-- A condition that no one word breaks, or that a given word breaks. -/
def brokenIf (b : Bool) (word : Nat := 0) : Option Nat := if b then some word else none

/-- What a plan fails to launch for before a rectangle is sought (R36, R56, R58, R67, R200, R250, R321, R364): the word of the first item that
breaks a range, all reported with WHAT 9 and cause 5. A reserved bit of a record, an image header, a directory or list entry or a communicator
record is a range of R67 too: its cause is 5, not the 4 of a configuration word's reserved bit (log 90). -/
def State.planCause (s : State) (p : Plan) (ls : List Leaf) (h : LHeader) : Option Illegal :=
  let elemSyms := (p.mems.filter (fun m => mRd m || mWr m || mAt m)).map mSym
  let foreign := ls.findSome? (fun l => l.img.ctiles.findSome? (fun (_, ws) =>
    let sym := bits (ws.headD 0) 31 0
    match h.bind (BitVec.ofNat 32 sym) with
    | none => none
    | some b => brokenIf (b.dom && b.pbase / 2 ^ 40 != Config.ownPackage) sym))
  ((ls.findSome? (fun l => l.record.bad.or (l.img.bad.or (l.img.comms.findSome? commBad))))
    |>.or (brokenIf (!p.holes.isEmpty || p.preps.any (fun x => decide (2 ^ h.widths.getD x.field 0 < x.n))))
    |>.or ((symbolsOf p ls).findSome? (fun y => brokenIf (h.bind y).isNone y.toNat))
    |>.or (brokenIf (decide (8 < (gatherEnts h elemSyms).length)))
    |>.or foreign
    |>.or (brokenIf (!h.ruen && s.strayRnext ls))
    |>.or (h.links.findSome? (fun (i, _) => brokenIf (decide (p.ports.length ≤ i)) i))).map broken

/-! ## Resolution of external classes (R64 to R66) -/

/-- The leaf of copy 0 that corresponds to a leaf of any copy. -/
def PlanPrep.zero (x : PlanPrep) (leaf : Nat) : Nat := x.first + (leaf - x.first) % x.count

/-- The PREPs that hold a leaf with their numbers, innermost first. -/
def Plan.prepsOf (p : Plan) (leaf : Nat) : List (PlanPrep × Nat) := p.preps.zipIdx.filter (fun (x, _) => x.holds leaf)

/-- What a port of a leaf is joined to. -/
inductive ExtRef where
  | joint (j : PlanJoint)
  | gather (prep leaf port : Nat)
  | region (port : Nat)
  | none
deriving DecidableEq, Repr

/-- The walk from a sending port outward through the PREPs that hold it: a joint inside the innermost, else its gather register; outside them
all, a joint of the plan or a region port. -/
def Plan.walk (p : Plan) (leaf port : Nat) : List (PlanPrep × Nat) → ExtRef
  | [] =>
    match p.joints.find? (fun j => j.pl == leaf && j.pp == port) with
    | some j => .joint j
    | .none =>
      match p.ports.findIdx? (fun x => x.leaf == leaf && x.port == port) with
      | some i => .region i
      | .none => .none
  | (x, n) :: _ =>
    match p.joints.find? (fun j => j.pl == leaf && j.pp == port && x.holds j.pl && x.holds j.cl) with
    | some j => .joint j
    | .none => .gather n (x.zero leaf) port

/-- What a class with EXT = 1 of a leaf's tile leads to. -/
def Plan.extRef (p : Plan) (leaf port : Nat) : ExtRef := p.walk leaf port (p.prepsOf leaf)

/-- What the gather register of a PREP for a port leads to. -/
def Plan.gatherRef (p : Plan) (prep leaf port : Nat) : ExtRef := p.walk leaf port ((p.prepsOf leaf).filter (fun (_, n) => decide (prep < n)))

/-- The ports that a PREP's operand shows: of copy 0 of every PREP inside it, not joined inside it. -/
def Plan.shown (p : Plan) (x : PlanPrep) (n : Nat) : List (Nat × Nat × BitVec 256) :=
  (List.range x.count).flatMap (fun i =>
    let leaf := x.first + i
    let inner := (p.prepsOf leaf).filter (fun (_, m) => decide (m < n))
    if inner.all (fun (y, _) => y.zero leaf == leaf) then
      match p.leaves[leaf]? with
      | Option.none => []
      | some l => (l.ports.zipIdx.filter (fun (_, q) =>
          !p.joints.any (fun j => x.holds j.pl && x.holds j.cl && ((j.pl == leaf && j.pp == q) || (j.cl == leaf && j.cp == q))))).map
            (fun (e, q) => (leaf, q, e))
    else [])

/-- The place of a port's bound tile in the plan. -/
def Plan.boundAt (p : Plan) (leaf : Nat) (e : BitVec 256) : Nat × Nat :=
  match p.leaves[leaf]? with
  | Option.none => (0, 0)
  | some l => (l.ox + pBfx e, l.oy + pBfy e)

/-- The gather registers of the router at a place: (PREP, leaf, port), in the order of their numbers. -/
def Plan.gathersAt (p : Plan) (x y : Nat) : List (Nat × Nat × Nat) :=
  p.preps.zipIdx.flatMap (fun (r, n) => (p.shown r n).filterMap (fun (leaf, q, e) => if pSends e && p.boundAt leaf e == (x, y) then some (n, leaf, q) else Option.none))

/-- The scatter registers of the router at a place: (PREP, port entry), outermost first. -/
def Plan.scattersAt (p : Plan) (x y : Nat) : List (PlanPrep × BitVec 256) :=
  (p.preps.zipIdx.flatMap (fun (r, n) => (p.shown r n).filterMap (fun (leaf, _, e) => if !pSends e && p.boundAt leaf e == (x, y) then some (r, e) else Option.none))).reverse

/-- A place whose router would need more registers than it has (R65). -/
def Plan.crowded (p : Plan) : Bool :=
  let places := (p.preps.zipIdx.flatMap (fun (r, n) => (p.shown r n).map (fun (leaf, _, e) => p.boundAt leaf e))).eraseDups
  places.any (fun (x, y) => decide (4 < (p.gathersAt x y).length) || decide (4 < (p.scattersAt x y).length))

/-- Data tokens count as runs where TAGS bit 0 is clear (R65). -/
def perToken (e : BitVec 256) : Bool := !e.getLsbD 36

/-- The entry of a leaf's port. -/
def Plan.portOf (p : Plan) (leaf port : Nat) : Option (BitVec 256) := (p.leaves[leaf]?).bind (fun l => l.ports[port]?)

/-- The destination that a port of a leaf receives at, in a region. -/
def Region.portDest (r : Region) (leaf port : Nat) : Option Dest :=
  (r.plan.portOf leaf port).map (fun e => let (x, y) := r.plan.boundAt leaf e; ⟨tileNo r.die (r.x0 + x) (r.y0 + y), pBq e, none⟩)

/-- The staging tile of a joint, in the row of the producer's bound tile (R64). -/
def Region.stagingTile (r : Region) (j : PlanJoint) : Option (Nat × Nat) :=
  match j.staging, r.plan.portOf j.pl j.pp with
  | some c, some e => some (c, (r.plan.boundAt j.pl e).2)
  | _, _ => none

/-- What a gather register of a region at a tile stands for: (PREP, leaf, port). -/
def Region.gatherOf (r : Region) (tile key : Nat) : Option (Nat × Nat × Nat) := (r.plan.gathersAt (tileX tile - r.x0) (tileY tile - r.y0))[key % 4]?

/-- What a gather register of a region at a tile leads to. -/
def Region.gatherRefAt (r : Region) (tile key : Nat) : Option ExtRef := (r.gatherOf tile key).map (fun (n, leaf, port) => r.plan.gatherRef n leaf port)

/-- The regions whose links take part: armed and not yet retired (R66). -/
def Region.linked (r : Region) : Bool := r.phase == .armed || r.phase == .halting || r.phase == .retiring

/-- The armed region port of the other direction that names a tag. -/
def State.partner (s : State) (tag : BitVec 32) : Option Dest :=
  s.regions.findSome? (fun (_, g) =>
    if g.linked then
      g.links.findSome? (fun (i, t) =>
        match g.plan.ports[i]? with
        | none => none
        | some x => if t == tag && !pSends x.entry then g.portDest x.leaf x.port else none)
    else none)

/-- A reference resolved. -/
def State.resolveRef (s : State) (r : Region) (e : ExtRef) : ExtTo :=
  let wire (d : Option Dest) : ExtTo := match d with | some d => .to d | none => .drop
  match e with
  | .joint j =>
    match r.stagingTile j with
    | some (x, y) => .to ⟨tileNo r.die (r.x0 + x) (r.y0 + y), 0, none⟩
    | none => wire (r.portDest j.cl j.cp)
  | .gather n leaf port =>
    match r.plan.portOf leaf port with
    | none => .drop
    | some e =>
      let (x, y) := r.plan.boundAt leaf e
      match (r.plan.gathersAt x y).findIdx? (fun g => g == (n, leaf, port)) with
      | some i => .to ⟨tileNo r.die (r.x0 + x) (r.y0 + y), 0, some (r.num * 4 + i)⟩
      | none => .drop
  | .region i =>
    match r.links.find? (fun l => l.1 == i) with
    | none => .drop
    | some (_, tag) => match s.partner tag with | some d => .to d | none => .wait
  | .none => .drop

/-- What the classes with EXT = 1 of a leaf's tile lead to; a PORT beyond the record's names a joint of the image (R67). -/
def State.resolveTile (s : State) (r : Region) (leaf np : Nat) (joints : List (Nat × BitVec 256)) (routes : Vector (BitVec 32) 16) : SMap ExtTo :=
  (List.finRange 16).filterMap (fun n =>
    let w := (routes.get n).toNat
    if bit w 10 then
      let port := bits w 15 11
      if port < np then some (n.val, s.resolveRef r (r.plan.extRef leaf port))
      else
        match joints[port - np]? with
        | none => some (n.val, .drop)
        | some (_, e) =>
          let (x, y) := r.plan.boundAt leaf e
          some (n.val, .to ⟨tileNo r.die (r.x0 + x) (r.y0 + y), pBq e, none⟩)
    else none)

/-- Every class and every gather register that leads to a region port resolved again: links form and break as regions arm and leave (R66). -/
def State.refreshLinks (s : State) : State :=
  let again (t : Tile) (e : Nat × ExtTo) : Nat × ExtTo :=
    let (n, leaf) := t.classOwner e.1
    match s.region? n with
    | none => e
    | some r =>
      let port := bits (Vector.at (n := 15) t.routes e.1).toNat 15 11
      let np := ((r.plan.leaves[leaf]?).map (fun l => l.ports.length)).getD 0
      if port < np then
        match r.plan.extRef leaf port with
        | .region i => (e.1, s.resolveRef r (.region i))
        | _ => e
      else e
  let gat (n : Nat) (g : Gather) : Gather :=
    match s.region? (g.key / 4) with
    | none => g
    | some r =>
      match r.gatherRefAt n g.key with
      | some (.region i) => { g with dest := s.resolveRef r (.region i) }
      | _ => g
  { s with tiles := s.tiles.map (fun (n, t) => (n, { t with ext := t.ext.map (again t), gather := t.gather.map (gat n) })) }

/-! ## Tiles -/

/-- A queue number as a bit. -/
def qMask (qs : List (Fin 4)) : BitVec 4 := qs.foldl (fun m q => m ||| (1 <<< q.val)) 0

/-- What an element of an image uses, as an instance that may share the element (R205). -/
def EBlock.share (b : EBlock) (region leaf : Nat) : Share :=
  let is := b.instrs
  let e := { Elem.arming region leaf with comps := b.comps }
  let qs := is.flatMap (fun i => i.shape.takes.map Prod.fst ++ i.shape.peeks ++ trigTested e i.shape.trig ++ i.shape.reply.toList)
  let os := is.filterMap (fun i => i.shape.port)
  { region := region
    leaf := leaf
    iq := qMask qs
    op := qMask os
    cls := (List.finRange 16).foldl (fun m n => if b.routes.get n != 0 then m ||| (1 <<< n.val) else m) 0
    slots := (List.finRange 32).foldl (fun m n => if slotOn (b.slots.get n) then m ||| (1 <<< n.val) else m) 0 }

/-- A context with the initial values of its image (R18, R91). -/
def initCtx (region leaf x : Nat) : Ctx :=
  { Ctx.arming region leaf with
    s := Vector.ofFn (fun n => BitVec.ofNat 64 (bits x (64 * n.val + 63) (64 * n.val)))
    p := BitVec.ofNat 8 (bits x 1031 1024) }

/-- An element's tile at arming. -/
def EBlock.tile (b : EBlock) (region leaf : Nat) : Tile :=
  let owned := b.owned
  let ctx (c : Fin 4) : Ctx :=
    match b.init.find? (fun i => i.1 == c.val) with
    | some (_, x) => initCtx region leaf x
    | none => if owned.contains c.val then Ctx.arming region leaf else Ctx.none region leaf
  let table := b.table.setWidth 48
  let named := entriesOf table [0, 1, 2, 3]
  { Tile.arming region leaf with
    routes := b.routes
    opClass := BitVec.ofNat 16 ((List.range 4).foldl (fun n q => n + b.cls q * 16 ^ q) 0)
    iqKind := b.iq
    opKind := b.op
    elem := some { Elem.arming region leaf with
      slots := b.slots, sides := b.sides, comps := b.comps, consts := b.consts, ctrl := b.ctrl, table := table
      ctx := Vector.ofFn ctx, freeEnts := ~~~ named }
    shared := [b.share region leaf] }

/-- A stream record relocated and placed (R67, R250): BASE, PTILE and SPORT. -/
def relocate (w : BitVec 512) (add : Nat) (x g : Nat) : BitVec 512 :=
  let n := w.toNat
  let n := setBits n 71 16 (bits n 71 16 + add)
  if sKind w == 3 || sKind w == 4 || sKind w == 8 then BitVec.ofNat 512 (setBits (setBits n 336 332 ((x - 2) / 3)) 338 337 g) else BitVec.ofNat 512 n

/-- A memory tile at arming, in absolute column `x`; `add` is what the relocation list adds to each BASE. -/
def MBlock.tile (b : MBlock) (region leaf x : Nat) (add : Nat → Nat) : Tile :=
  let recs : Vector (BitVec 512) 4 := Vector.ofFn (fun g => relocate (b.recs.get g) (add g.val) x g.val)
  let gen (g : Fin 4) : Gen := if agOn b.ctrl g.val && sKind (recs.get g) != 0 then { Gen.closed with st := .running } else Gen.closed
  { Tile.arming region leaf with
    routes := b.routes
    opClass := b.bind.setWidth 16
    iqKind := b.ctrl.extractLsb' 44 4
    opKind := b.ctrl.extractLsb' 48 4
    mem := some { MTile.arming with ctrl := b.ctrl, bind := b.bind, recs := recs, gens := Vector.ofFn gen } }

/-- The staging tile of a PSEQ: a FIFO over its whole SRAM (R64); `vector` is the kind of the joint's port. -/
def stagingTileOf (region leaf : Nat) (vector : Bool) : Tile :=
  { Tile.arming region leaf with
    iqKind := if vector then 1 else 0
    mem := some { MTile.arming with ctrl := BitVec.ofNat 64 (1 + 32768 * 2 ^ 6), staging := some ⟨false, .drop, []⟩ } }

/-- A new instance joins an element that is armed (R31, R205): its slots, contexts, queues, ports and classes, and the k lowest free entries of
the slot table; the other free entries name the lowest context of the instance placed first. -/
def Elem.join (e f : Elem) (x : Share) (k : Nat) (first : Nat) : Elem :=
  let mine := (List.range 4).filter (fun c => (Vector.at (n := 3) f.ctx c).st != .absent)
  let free := ((List.range 16).filter (fun n => e.freeEnts.getLsbD n)).take k
  let old := e.pendTable.getD e.table
  let table := free.zipIdx.foldl (fun (t : BitVec 48) (n, i) => fillEntries t (1 <<< n) (mine.getD (i % mine.length) 0)) old
  let left := free.foldl (fun (m : BitVec 16) n => m &&& ~~~ ((1 : BitVec 16) <<< n)) e.freeEnts
  let low := (List.range 4).find? (fun c => (Vector.at (n := 3) e.ctx c).region == first && (Vector.at (n := 3) e.ctx c).st != .absent)
  { e with
    slots := Vector.ofFn (fun n => if x.slots.getLsbD n.val then f.slots.get n else e.slots.get n)
    sides := Vector.ofFn (fun n => if x.slots.getLsbD n.val then f.sides.get n else e.sides.get n)
    counts := Vector.ofFn (fun n => if x.slots.getLsbD n.val then f.counts.get n else e.counts.get n)
    ctx := Vector.ofFn (fun c => if mine.contains c.val then f.ctx.get c else e.ctx.get c)
    spilled := e.spilled ++ f.spilled
    freeEnts := left
    pendTable := some (match low with | none => table | some c => fillEntries table left c) }

/-- A tile with the part of a new instance. -/
def Tile.join (t u : Tile) (k : Nat) : Tile :=
  match t.elem, u.elem, u.shared with
  | some e, some f, x :: _ =>
    { t with
      iq := Vector.ofFn (fun q => if x.iq.getLsbD q.val then u.iq.get q else t.iq.get q)
      op := Vector.ofFn (fun q => if x.op.getLsbD q.val then u.op.get q else t.op.get q)
      iqKind := (t.iqKind &&& ~~~ x.iq) ||| (u.iqKind &&& x.iq)
      opKind := (t.opKind &&& ~~~ x.op) ||| (u.opKind &&& x.op)
      opClass := BitVec.ofNat 16 ((List.range 4).foldl (fun n q =>
        n + (if x.op.getLsbD q then bits u.opClass.toNat (4 * q + 3) (4 * q) else bits t.opClass.toNat (4 * q + 3) (4 * q)) * 16 ^ q) 0)
      routes := Vector.ofFn (fun c => if x.cls.getLsbD c.val then u.routes.get c else t.routes.get c)
      ext := u.ext.foldl (fun m (c, d) => SMap.put m c d) t.ext
      elem := some (e.join f x k t.region)
      shared := t.shared ++ [x] }
  | _, _, _ => t

/-- The matrix unit is used. -/
def usesMatrix (i : Instr) : Bool :=
  match i with
  | .mcfg _ _ | .mldb _ _ | .mrow _ _ _ | .mrowG _ _ | .mgath _ _ | .mdrain _ _ _ | .mdrainR _ _ _ _ _ | .mzero _ => true
  | _ => false

/-- The instructions of an element. -/
def Elem.instrs (e : Elem) : List Instr := ((List.finRange 32).filter (fun n => slotOn (e.slots.get n))).filterMap (fun n => decodeWord (e.slots.get n))

/-- A new instance may use an element that is armed (R205): its contexts are disjoint from those there and enough entries of the slot table
name no context; and no word of the element's configuration, no queue and no unit would have to serve both. -/
def Tile.canJoin (t u : Tile) (k : Nat) : Bool :=
  match t.elem, u.elem, u.shared with
  | some e, some f, [x] =>
    let apart {w : Nat} (g : Share → BitVec w) : Bool := t.shared.all (fun y => g y &&& g x == 0)
    0 < k && !t.shared.isEmpty && t.mem.isNone && !e.follows && !f.follows
      && (List.range 4).all (fun c => (Vector.at (n := 3) e.ctx c).st == .absent || (Vector.at (n := 3) f.ctx c).st == .absent)
      && decide (k ≤ ((List.range 16).filter (fun n => e.freeEnts.getLsbD n)).length)
      && apart Share.iq && apart Share.op && apart Share.cls && apart Share.slots
      && e.consts == f.consts && e.comps == f.comps && !e.instrs.any usesMatrix && !f.instrs.any usesMatrix
  | _, _, _ => false

end Sys2Proof.Machine
end

