-- ==== Sys2Proof/Machine/Place.lean ====
section
/-!
DEFINITION. Placement, loading and arming (R10, R16, R40, R46, R64 to R66, R139, R143, R146, R195, R200, R204 to R206, R226, R228, R283).
-/
namespace Sys2Proof.Machine

/-! ## Rectangles (R10, R46, R195, R204, R205) -/

/-- A region occupies its rectangle: it is placed, or a debug stop holds it where it is (R204, R263). -/
def State.occupies (s : State) (r : Region) : Bool := r.placed || (r.phase == .checkpointed && s.dbg.dbgHeld.contains r.num)

/-- The tile belongs to no region's rectangle and is not marked. -/
def State.freeTile (s : State) (t : Nat) : Bool := !s.regs.defects.contains (tileMark t) && s.regions.all (fun (_, r) => !(s.occupies r && r.holds t))

/-- A rectangle at an origin can be taken; `share` says of a place in it that is not free whether it can be shared. -/
def State.fits (s : State) (w h : Nat) (share : Nat → Nat → Nat → Bool) (die x0 y0 : Nat) : Bool :=
  (List.range h).all (fun dy => (List.range w).all (fun dx =>
    let t := tileNo die (x0 + dx) (y0 + dy)
    s.freeTile t || (!s.regs.defects.contains (tileMark t) && share dx dy t)))

/-- The origins at which a rectangle can stand, in the order of R204. -/
def origins (w h xphase : Nat) : List (Nat × Nat × Nat) :=
  (List.range 4).flatMap (fun die => (List.range (33 - h)).flatMap (fun y0 => ((List.range (49 - w)).filter (fun x0 =>
    (x0 + xphase) % 3 == 2 && (die != 0 || x0 != 0))).map (fun x0 => (die, x0, y0))))

/-- The first origin that a rectangle can take. -/
def State.origin (s : State) (w h xphase : Nat) (share : Nat → Nat → Nat → Bool) : Option (Nat × Nat × Nat) :=
  (origins w h xphase).find? (fun (die, x0, y0) => s.fits w h share die x0 y0)

/-- An element's tile stands in a follower chain. -/
def State.chained (s : State) (t : Nat) : Bool := !(s.chain t).isEmpty

/-- Whether the tiles of a new instance (by place) may share what stands on a tile (R205). -/
def State.shareable (s : State) (k : Nat) (news : List (Nat × Nat × Tile)) (dx dy t : Nat) : Bool :=
  match s.tile? t, news.find? (fun (x, y, _) => x == dx && y == dy) with
  | some old, some (_, _, new) => old.canJoin new k && !s.chained t
      && (match s.region? old.region with | some r => r.phase == .armed | none => false)
  | _, _ => false

/-! ## Resources of a die (R15, R40, R143, R226, R228) -/

/-- The placed regions of a die. -/
def State.onDie (s : State) (die : Nat) : List Region := (s.regions.filter (fun e => e.2.placed && e.2.die == die)).map Prod.snd

/-- The die has the channels and the range unit that an instance needs. -/
def State.dieHas (s : State) (die chans : Nat) (ru : Bool) : Bool :=
  let rs := s.onDie die
  decide ((rs.map (fun r => r.chans.length)).foldl (· + ·) 0 + chans ≤ 4096) && (!ru || decide ((rs.filter (fun r => r.ru.isSome)).length < 16))

/-- The lowest base from which a die's tile table has `n` free entries. -/
def State.tableBase (s : State) (die n : Nat) : Option Nat :=
  (List.range (1025 - n)).find? (fun b => (List.range n).all (fun i => (SMap.find? s.tables (die * 1024 + b + i)).isNone))

/-- A communicator record as it is held (R226). -/
def readComm (n : Nat) : Comm := ⟨BitVec.ofNat 32 (bits n 31 0), bits n 33 32, bit n 34, bits n 44 35, bits n 54 45, bits n 79 64, [], []⟩

/-- What loading a communicator comes to: its index and the map with the new user, a record that differs, or no free index. -/
inductive CommIs where
  | at (i : Nat) (m : SMap Comm)
  | differs
  | full

/-- A communicator loaded for a region (R226). -/
def loadComm (m : SMap Comm) (n region : Nat) : CommIs :=
  let c := readComm n
  match m.find? (fun e => e.2.tag == c.tag) with
  | some (i, d) =>
    if { d with users := [], pool := [] } = c then .at i (SMap.put m i { d with users := region :: d.users.filter (· != region) }) else .differs
  | none =>
    match (List.range 64).find? (fun i => (SMap.find? m i).isNone) with
    | some i => .at i (SMap.put m i { c with users := [region] })
    | none => .full

/-- The communicators of images loaded in order: their indices. -/
def loadComms (m : SMap Comm) (region : Nat) : List Nat → Except Bool (SMap Comm × List Nat)
  | [] => .ok (m, [])
  | c :: cs =>
    match loadComm m c region with
    | .differs => .error true
    | .full => .error false
    | .at i m =>
      match loadComms m region cs with
      | .error e => .error e
      | .ok (m, is) => .ok (m, i :: is)

/-- The local part of a symbol and an offset (R283). -/
def LHeader.localPart (h : LHeader) (w : Nat) : Nat :=
  match h.bind (BitVec.ofNat 32 (bits w 31 0)) with
  | none => 0
  | some b => (b.pbase + b.soff + bits w 63 32) % 2 ^ 40

/-- A tile-table entry with its addresses filled in and its communicator's index (R283). -/
def fillEntry (h : LHeader) (comms : List Nat) (e : Nat) (ws : List Nat) : BitVec 512 :=
  let e := setBits e 5 0 (comms.getD (bits e 5 0) 0)
  let e := setBits e 113 64 (Config.ownPackage * 2 ^ 40 + h.localPart (ws.headD 0))
  if bit e 14 then BitVec.ofNat 512 e
  else BitVec.ofNat 512 ((List.range (bits e 16 15 + 1)).foldl (fun e d =>
    setBits e (64 * d + 177) (64 * d + 128) (bits e (64 * d + 177) (64 * d + 168) * 2 ^ 40 + h.localPart (ws.getD (d + 1) 0))) e)

/-- A package that no tile-table entry may name as a destination (R228, R239): one that is not of the domain, or a host code. -/
def badDest (p : Nat) : Bool := p == hostPkg || p == ioPkg || (p != Config.ownPackage && decide (Config.domainPackages ≤ p))

/-- What makes a tile-table entry illegal: a value of the image's entry, or an address that R228 refuses in the filled one. `comms` is the number of
communicators of its image. -/
def fillBad (c comms : Nat) (e : BitVec 512) : Option Illegal :=
  let n := e.toNat
  let addr (hi lo : Nat) : Nat := bits n hi lo
  (judge 8 0 c (ctileJudge c comms)).or (judge 8 0 n ((addr 73 64 != 0, 5, lowBit n 73 64) ::
    (if bit n 14 then [] else (List.range (bits n 16 15 + 1)).flatMap (fun d =>
      [(addr (64 * d + 137) (64 * d + 128) != 0, 5, lowBit n (64 * d + 137) (64 * d + 128)), (badDest (addr (64 * d + 177) (64 * d + 168)), 5, 64 * d + 168)]))))

/-- An entry with no operation. -/
def TEntry.idle (word : BitVec 512) (region : Nat) : TEntry where
  word := word
  region := region
  rq := none
  parked := []
  accepted := 0
  ranks := []
  written := []
  exact := []
  sticky := []
  acc := []
  parts := []
  merged := none
  hold := []
  spoilt := false

/-- The tile-table entries of a plan's leaves with their relocation words, each with the first and the number of its image's communicators. -/
def ctilesOf (ls : List Leaf) : List (Nat × List Nat × Nat × Nat) :=
  let starts := ls.foldl (fun (a : List Nat × Nat) l => (a.1 ++ [a.2], a.2 + l.img.comms.length)) ([], 0)
  (ls.zip starts.1).flatMap (fun (l, c0) => l.img.ctiles.map (fun (e, ws) => (e, ws, c0, l.img.comms.length)))

/-! ## Loading (R64, R67, R97) -/

/-- The registers of R65 in the router at a place of a region. -/
def State.routerRegs (s : State) (r : Region) (dx dy : Nat) : List Scatter × List Gather :=
  ((r.plan.scattersAt dx dy).map (fun (x, e) => ⟨pBq e, x.n, x.stride, 0, perToken e, none⟩),
    (r.plan.gathersAt dx dy).zipIdx.map (fun ((n, leaf, port), i) =>
      let x := (r.plan.preps[n]?).getD ⟨1, 0, 1, 0, 1⟩
      { key := r.num * 4 + i, leaf := leaf, port := port, n := x.n, stride := x.stride, k := 0
        perToken := ((r.plan.portOf leaf port).map perToken).getD false
        bufs := List.replicate x.n []
        dest := s.resolveRef r (r.plan.gatherRef n leaf port) }))

/-- The tiles of a leaf at their places in a region's rectangle. -/
def State.leafTiles (s : State) (r : Region) (l : Leaf) : List (Nat × Nat × Tile) :=
  l.img.tiles.zipIdx.map (fun (t, i) =>
    let x := l.leaf.ox + t.fx
    let y := l.leaf.oy + t.fy
    let add (g : Nat) : Nat := (l.img.relocs.filter (fun (_, d, k) => d == i && k == g)).foldl (fun n (sym, _, _) =>
      match r.hdr.bind sym with
      | none => n
      | some b => n + b.vbase + b.soff) 0
    let u := if t.isMem then (s.readMemBlock t.addr).tile r.num l.num (r.x0 + x) add else (s.readElem t.addr).tile r.num l.num
    (x, y, { u with ext := s.resolveTile r l.num l.record.ports.length l.img.joints u.routes }))

/-- A tile stands at a place with the registers of its router: alone, or with what another instance has there. -/
def State.standTile (s : State) (r : Region) (dx dy : Nat) (u : Tile) : State :=
  let t := tileNo r.die (r.x0 + dx) (r.y0 + dy)
  let (sc, ga) := s.routerRegs r dx dy
  match s.tile? t with
  | some old =>
    if old.has r.num then s.setTile t { u with scatter := old.scatter, gather := old.gather }
    else s.setTile t { old.join u r.hdr.shareK with scatter := old.scatter ++ sc, gather := old.gather ++ ga }
  | none => s.setTile t { u with scatter := sc, gather := ga }

/-- Every place of a rectangle that no other instance holds becomes a tile of the region without configuration (R409). -/
def State.clearRect (s : State) (r : Region) : State :=
  (List.range r.h).foldl (fun s dy => (List.range r.w).foldl (fun (s : State) dx =>
    let t := tileNo r.die (r.x0 + dx) (r.y0 + dy)
    if (s.tile? t).isSome then s else s.standTile r dx dy (Tile.arming r.num 0)) s) s

/-- The joints with a staging tile of their own: of those that would stage in one tile, the first of those of the turn that runs (log 20). -/
def Region.staged (r : Region) : List PlanJoint :=
  let runs (j : PlanJoint) : Bool := [j.pl, j.cl].any (fun n => ((r.plan.leaves[n]?).map (fun l => l.active r.turn)).getD false)
  (r.plan.joints.filter runs ++ r.plan.joints.filter (fun j => !runs j)).foldl (fun js j =>
    if (r.stagingTile j).isSome && !js.any (fun i => r.stagingTile i == r.stagingTile j) then js ++ [j] else js) []

/-- The staging tiles of a plan's PSEQ joints: in place from the first load, their route active once the consumer's leaf has been loaded. -/
def State.standStaging (s : State) (r : Region) : State :=
  r.staged.foldl (fun (s : State) j =>
    match r.stagingTile j with
    | none => s
    | some (x, y) =>
      let t := tileNo r.die (r.x0 + x) (r.y0 + y)
      let live := ((r.plan.leaves[j.cl]?).map (fun l => l.active r.turn)).getD false
      let ext : ExtTo := match r.portDest j.cl j.cp with | some d => .to d | none => .drop
      let vec := ((r.plan.portOf j.pl j.pp).map (fun e => e.getLsbD 7)).getD false
      match s.mem? t with
      | some m => if m.staging.isSome then s.modMem t (fun m => { m with staging := m.staging.map (fun g => { g with active := live, dest := ext }) }) else s
      | none => (s.standTile r x y (stagingTileOf r.num j.pl vec)).modMem t (fun m => { m with staging := some ⟨live, ext, []⟩ })) s

/-- The leaves that run now are loaded. -/
def State.loadActive (s : State) (r : Region) (ls : List Leaf) (new : PlanLeaf → Bool) : State :=
  let s := (ls.filter (fun l => l.leaf.active r.turn && new l.leaf)).foldl (fun s l =>
    (s.leafTiles r l).foldl (fun s (x, y, u) => s.standTile r x y u) s) s
  s.standStaging r

/-! ## What a region holds from its images and its header -/

/-- The channels of a plan (R403): the key is leaf * 4096 + number, the tile is relative to the region's origin. -/
def chansOf (ls : List Leaf) : SMap Chan :=
  ls.foldl (fun m l => l.img.chans.foldl (fun m (n, d, q) =>
    match l.img.tiles[d]? with
    | none => m
    | some t => SMap.put m (l.num * 4096 + n) ⟨(l.leaf.oy + t.fy) * 48 + l.leaf.ox + t.fx, ⟨q % 4, Nat.mod_lt _ (by decide)⟩, 0, 0, {}⟩) m) []

/-- The stream ports of a region with the symbols that they serve (R250, R290, R321). -/
def State.portSyms (s : State) (p : Plan) (ls : List Leaf) (x0 y0 : Nat) : SMap (List (BitVec 32)) :=
  let add (m : SMap (List (BitVec 32))) (k : Nat) (ys : List (BitVec 32)) : SMap (List (BitVec 32)) := SMap.put m k (((SMap.find? m k).getD []) ++ ys)
  let rows := (List.range 32).filter (fun y => decide (y0 ≤ y) && decide (y < y0 + p.hdr.h))
  let elems := (p.mems.filter (fun m => mRd m || mWr m || mAt m)).map mSym
  let m := rows.foldl (fun m y => SMap.put m ((16 + y / 2) * 4) elems) []
  ls.foldl (fun m l => l.img.tiles.zipIdx.foldl (fun m (t, i) =>
    if t.isMem then
      let b := s.readMemBlock t.addr
      (List.finRange 4).foldl (fun m g =>
        let k := sKind (b.recs.get g)
        if agOn b.ctrl g.val && (k == 3 || k == 4 || k == 8) then
          let syms := (l.img.relocs.filter (fun (_, d, j) => d == i && j == g.val)).map Prod.fst
          let syms := if k == 8 then syms ++ (l.record.mems.filter mRd).map mSym else syms
          add m ((x0 + l.leaf.ox + t.fx - 2) / 3 * 4 + g.val) syms
        else m) m
    else m) m) m

/-- The range entries of a region's stream ports. -/
def portEnts (h : LHeader) (m : SMap (List (BitVec 32))) : SMap (List RangeEnt) := m.map (fun (k, ys) => (k, gatherEnts h ys))

/-- A second armed port of one direction with one tag (R66). -/
def State.tagClash (s : State) (p : Plan) (links : List (Nat × BitVec 32)) : Bool :=
  let ends (p : Plan) (ls : List (Nat × BitVec 32)) : List (Bool × BitVec 32) :=
    ls.filterMap (fun (i, t) => (p.ports[i]?).map (fun x => (pSends x.entry, t)))
  let mine := ends p links
  let theirs := s.regions.flatMap (fun (_, r) => if r.linked then ends r.plan r.links else [])
  decide (mine.eraseDups.length != mine.length) || mine.any theirs.contains

/-- The first link of a new instance whose formats disagree, with a port of an armed region or with one of its own: the payload of R62, FORM 2
(R66). -/
def State.linkMismatch (s : State) (p : Plan) (links : List (Nat × BitVec 32)) : Option Word :=
  let ends := links.map (fun l => (p, l)) ++ s.regions.flatMap (fun (_, r) => if r.linked then r.links.map (fun l => (r.plan, l)) else [])
  links.findSome? (fun (i, t) =>
    match p.ports[i]? with
    | none => none
    | some x =>
      ends.findSome? (fun (g, j, u) =>
        match g.ports[j]? with
        | none => none
        | some y =>
          if u == t && pSends x.entry != pSends y.entry then
            let (a, ai, b, bi) := if pSends x.entry then (x, i, y, j) else (y, j, x, i)
            (disagree (pFormat a.entry) (pFormat b.entry)).map (fun f => misWord 2 0 ⟨f, ai, bi, 1⟩)
          else none))

/-! ## Launches -/

/-- The plan of a launch: with ALTOK under an active power cap, a single fragment's alternate where every port agrees (R205, R266). -/
def State.launchPlan (s : State) (l : Launch) : Option (Plan × Option Nat × Bool) :=
  let base : Option (Plan × Option Nat) := match l.plan with
    | .entry i => ((SMap.find? s.plans i).bind PlanEnt.plan).map (fun p => (p, some i))
    | .image a => some ((s.readRec a).plan a, none)
  base.map (fun (p, i) =>
    let alt := if l.hdr.altok && s.dbg.cap && p.leaves.length == 1 && p.hdr.altFrag != 0 then
        (SMap.find? s.library p.hdr.altFrag).bind (fun k => ((SMap.find? s.plans k).bind PlanEnt.plan).bind (fun q =>
          let agree := p.ports.length == q.ports.length && (p.ports.zip q.ports).all (fun (x, y) =>
            pName x.entry == pName y.entry && pOut x.entry == pOut y.entry && (disagree (pFormat x.entry) (pFormat y.entry)).isNone)
          if agree then some (q, k) else none))
      else none
    match alt with
    | some (q, k) => (q, some k, true)
    | none => (p, i, false))

/-- The plan-table entry of a plan reference. -/
def PlanRef.entry? (p : PlanRef) : Option Nat := match p with | .entry i => some i | .image _ => none

/-- A launch takes a reference to a plan-table entry (R52). -/
def State.refPlan (s : State) (plan : Option Nat) : State :=
  match plan with
  | none => s
  | some i => s.modPlan i (fun e => { e with refs := e.refs + 1 })

/-- What objects of the library a plan's release gives back, released. -/
def State.unref (s : State) (plan : Option Nat) : State :=
  match plan with
  | none => s
  | some i => let (s, objs) := s.dropPlan i; objs.foldl State.releaseObj s

/-- A launch fails before any element is armed: STATUS 3 (R16, R213, R350). -/
def State.launchFail (s : State) (l : Launch) (kind : Nat) (d0 d1 : Word) : State :=
  let s := match l.pkt with
    | some p => s.endPacket p { status := 3, kind := kind, ts := l.hdr.ts, d0 := d0, d1 := d1 }
    | none => s
  let s : State := match l.req with
    | some q => State.tick (s.modReq q (fun x => { x with st := .done (Reply.mk (.s (recordWord 3 kind false 0 0 0)) false none {}), due := s.after 1 }))
    | none => s
  let s : State := { s with launches := s.launches.filter (fun x => x.id != l.id) }
  let s := l.made.foldl State.releaseObj s
  s.unref l.plan.entry?

/-- The lowest region number that is not in use (R204). -/
def State.freeRegion (s : State) : Nat := ((List.range 4096).find? (fun n => (s.region? n).isNone)).getD 0

/-- The task of a launch, made at its first arming (R163). -/
def State.taskFor (s : State) (l : Launch) (n : Nat) : Nat × State :=
  match s.task? l.task with
  | some t => (t.id, s.modTask t.id (fun x => { x with region := some n }))
  | none =>
    let t : Task := {
      id := s.nextId, ordered := l.hdr.ordered, ts := l.hdr.ts, key := none, irrev := false, complete := false, aborts := 0, mchecks := 0
      region := some n, parent := l.parent, pkt := l.pkt, launch := some l.id, atomics := [], wr := [], rd := [], rels := [], frees := []
      bars := hex Bar.zero }
    (s.nextId, (State.fresh { s with tasks := s.tasks ++ [t] }).takeKey t)

/-- What a checkpoint holds of a region's rectangle: tiles, SRAM, full-empty bits, packets, requests and the region's own counters (R139). -/
def State.snapshot (s : State) (r : Region) : Snapshot where
  turn := r.turn
  seqSeen := r.seqSeen
  x0 := r.x0
  y0 := r.y0
  die := r.die
  tiles := r.tilesOf s
  sram := s.sram.filter (fun e => r.holds (e.1 / 2 ^ 19))
  full := s.full.filter (fun e => r.holds (e.1 / 2 ^ 15))
  flights := s.flights.filter (fun f => (s.ownFlight r f || s.inbound r f) && f.hold.isNone)
  reqs := s.reqs.filter (fun q => q.region == r.num)
  faultToks := s.faultToks.filter (fun f => f.region == r.num)
  transfers := s.transfers.filter (fun x => x.isCopy.isNone && x.region == r.num)
  flags := r.mergeFlags.flags
  frec := r.frec
  ru := r.ru
  chans := r.chans
  bars := r.bars

/-- The backing and checkpoint object (R146, R162), of kind 4 and priority 15: its index and base. The checkpoint area has a free size, less than the
package's memory (log 58). While memory is short the launch waits, and reclaim runs (R159). -/
def State.backing (s : State) (w h : Nat) : Except State (Nat × Nat × State) :=
  match s.alloc (w * h * 10240 + Config.checkpointBytes (w * h) % 2 ^ 38) 4 15 false with
  | .made i s => .ok (i, domKey (oBase (s.obj i)), s.checkLow)
  | .never => .error s
  | .short => .error s.starve

/-! ## The objects of a launch section (R280) -/

/-- The objects that a launch's section names. -/
def State.objectList (s : State) (l : Launch) : List Config.ObjectDir :=
  match l.pkt.bind s.packet? with
  | none => []
  | some k => let w (i : Nat) : Nat := (k.words.getD i 0).toNat; if bits (w 0) 7 0 = 1 then Config.objectList (w 2) else []

/-- The objects that are still to be allocated, in the order of the directives: what has been made is kept while an allocation gives nothing, and
the launch waits (R280). The indexes made, and whether all are. -/
def State.allocList (s : State) : List Config.ObjectDir → List Nat × Bool × State
  | [] => ([], true, s)
  | d :: ds =>
    match s.alloc d.size d.kind d.prio false with
    | .made i s1 => let (is, ok, s2) := s1.checkLow.allocList ds; (i :: is, ok, s2)
    | .short => ([], false, s.starve)
    | .never => ([], false, s)

/-- The bytes of an object's image: those that a directive has placed, the others zero. -/
def State.imageBytes (s : State) (d : Config.ObjectDir) : List Byte :=
  (s.homeBytes (domKey d.src) d.size).zipIdx.map (fun (b, i) => if d.placed.any (fun (lo, hi) => decide (lo ≤ i) && decide (i < hi)) then b else 0)

/-- A handle word of the image; a strong handle of 8 bytes counts. -/
def State.putHandle (s : State) (i : Nat) (x : Nat × Nat) : State :=
  let e := s.obj i
  let k := domKey x.1
  match x.2 with
  | 0 => (s.putObj i (oSet e 127 104 (oCount e + 1))).putWatched k (leBytes 8 (handleOf i e true).toNat)
  | 1 => s.putWatched k (leBytes 8 (handleOf i e false).toNat)
  | 2 => s.putWatched k (leBytes 5 ((handleOf i e true).toNat % 2 ^ 40))
  | _ => s.putWatched k (leBytes 5 ((handleOf i e true).toNat / 2 ^ 40))

/-- The handle words and the bytes of the objects of a launch. The handle of a weak one is released as soon as it is copied; the region holds
the others'. -/
def State.fillObjects (s : State) (xs : List (Nat × Config.ObjectDir)) : State × List Nat :=
  let s := xs.foldl (fun s (i, d) => d.words.foldl (fun s w => s.putHandle i w) s) s
  let s := xs.foldl (fun s (i, d) => s.putWatched (domKey (oBase (s.obj i))) (s.imageBytes d)) s
  (xs.foldl (fun s (i, d) => if d.weak then s.releaseObj i else s) s, (xs.filter (fun x => !x.2.weak)).map Prod.fst)

/-- What an attempt to place a launch comes to. -/
inductive Placing where
  | wait (s : State)
  | fail (kind : Nat) (d0 d1 : Word)
  | armed (s : State)

/-- A region armed at an origin for a launch (R16, R18, R204). -/
def State.arm (s : State) (l : Launch) (p : Plan) (idx : Option Nat) (alt : Bool) (ls : List Leaf) (die x0 y0 : Nat) (coll : Option RColl)
    (objs : List Nat) (base : Nat) : State :=
  let n := s.freeRegion
  let ver := (SMap.find? s.versions n).getD 0 + 1
  let (task, s) := s.taskFor l n
  let r0 := Region.arming n die x0 y0 p.hdr.w p.hdr.h l.hdr p
  let r : Region := { r0 with
    ver := ver, launch := l.id, queue := l.queue, task := task, since := s.cycle, planIdx := idx, alt := alt, backing := base, coll := coll
    links := l.hdr.links, armedAt := s.cycle
    ru := if l.hdr.ruen then some ⟨l.hdr.rstart, l.hdr.rend, l.hdr.minChunk, l.hdr.consumers, l.hdr.f, []⟩ else none
    chans := chansOf ls
    ports := portEnts l.hdr (s.portSyms p ls x0 y0)
    objs := objs }
  let s : State := { s with versions := SMap.put s.versions n ver, regions := SMap.put s.regions n r }
  let s := ls.foldl (fun s l => s.watchImage l.leaf.addr l.record) s
  let s := (s.loadActive r ls (fun _ => true)).clearRect r
  let s := s.modRegion n (fun r => { r with starts := [(task, s.snapshot r)] })
  let place (x : Launch) : Launch := { x with region := some n, task := task, waited := s.cycle - x.since, made := [] }
  let s : State := { s with launches := mapIf (fun x => x.id == l.id) place s.launches }
  let s := if alt then (s.refPlan idx).unref l.plan.entry? else s
  let s := match l.pkt with
    | some k => s.modPacket k (fun x => { x with st := .started })
    | none => s
  s.refreshLinks

/-- The collective section of a plan loaded for a region (R226, R228): the communicators and the entries, or what is illegal, with WHAT 9 a
communicator that differs and with WHAT 8 an entry, or nothing where the die has no room. -/
def State.loadColl (s : State) (ls : List Leaf) (h : LHeader) (region die : Nat) : Except (Option Illegal) (Option RColl × State) :=
  let cs := ls.flatMap (fun l => l.img.comms)
  let ents := ctilesOf ls
  if cs.isEmpty && ents.isEmpty then .ok (none, s)
  else
    match loadComms s.comms region cs with
    | .error true => .error (some (broken 0))
    | .error false => .error none
    | .ok (comms, idx) =>
      let filled := ents.map (fun (e, ws, c0, n) => (e, n, fillEntry h (idx.drop c0) e ws))
      match filled.findSome? (fun (e, n, f) => fillBad e n f) with
      | some w => .error (some w)
      | none =>
        match s.tableBase die filled.length with
        | none => .error none
        | some base =>
          let put (m : SMap TEntry) (x : (Nat × Nat × BitVec 512) × Nat) : SMap TEntry :=
            SMap.put m (die * 1024 + base + x.2) (TEntry.idle x.1.2.2 region)
          .ok (some ⟨idx.eraseDups, die, base, filled.length⟩, { s with comms := comms, tables := filled.zipIdx.foldl put s.tables })

/-- The router of a shared element has the scatter and gather registers that a plan needs there beside those in use (R65). -/
def State.regsFit (s : State) (p : Plan) (dx dy t : Nat) : Bool :=
  match s.tile? t with
  | none => true
  | some x => decide (x.scatter.length + (p.scattersAt dx dy).length ≤ 4) && decide (x.gather.length + (p.gathersAt dx dy).length ≤ 4)

/-- An attempt to place, load and arm a launch (R16, R204, R205). Where the die of the first free rectangle lacks another resource the launch waits, and
tries no other die (R15; log 101). -/
def State.tryPlace (s : State) (l : Launch) : Placing :=
  match s.launchPlan l with
  | none => .fail kHandle (faultWord (badHandle l.hdr.plan) 0 0 0 0 false 0) l.hdr.plan
  | some (p, idx, alt) =>
    let ls := s.readLeaves p
    match (s.planCause p ls l.hdr).or ((brokenIf (p.crowded || s.tagClash p l.hdr.links)).map broken) with
    | some w => .fail kConfig w.d0 w.d1
    | none =>
      match s.linkMismatch p l.hdr.links, checkJointList ls with
      | some w, _ => .fail kJoint w 0
      | none, some d => .fail kFormat d 0
      | none, none =>
        let news := (ls.filter (fun x => x.leaf.active 0)).flatMap (fun x => (x.img.tiles.filter (fun t => !t.isMem)).map (fun t =>
          (x.leaf.ox + t.fx, x.leaf.oy + t.fy, (s.readElem t.addr).tile 0 x.num)))
        let follows := news.any (fun (_, _, t) => (t.elem.map Elem.follows).getD false)
        let share (dx dy t : Nat) : Bool := decide (0 < l.hdr.shareK) && !follows && s.shareable l.hdr.shareK news dx dy t && s.regsFit p dx dy t
        match s.origin p.hdr.w p.hdr.h p.hdr.xphase share with
        | none => .wait s
        | some (die, x0, y0) =>
          let syms := s.portSyms p ls x0 y0
          if (portEnts l.hdr syms).any (fun (_, es) => decide (8 < es.length)) then .fail kConfig (broken 0).d0 0
          else
            match s.checkTiles ls die x0 y0 with
            | some (d0, d1) => .fail kConfig d0 d1
            | none =>
              if s.dieHas die (chansOf ls).length l.hdr.ruen then
                match s.loadColl ls l.hdr s.freeRegion die with
                | .error none => .wait s
                | .error (some w) => .fail kConfig w.d0 w.d1
                | .ok (coll, s1) =>
                  let ds := s.objectList l
                  let (new, all, s2) := s1.allocList (ds.drop l.made.length)
                  let made := l.made ++ new
                  let wait (s2 : State) : Placing := .wait { s2 with
                    comms := s.comms, tables := s.tables
                    launches := mapIf (fun x => x.id == l.id) (fun x => { x with made := made }) s2.launches }
                  if all then
                    match s2.backing p.hdr.w p.hdr.h with
                    | .error s3 => wait s3
                    | .ok (obj, base, s3) =>
                      let (s4, held) := s3.fillObjects (made.zip ds)
                      .armed (s4.arm l p idx alt ls die x0 y0 coll (obj :: held) base)
                  else wait s2
              else .wait s

/-- A checkpointed region waits for a rectangle: no page of it is missing, its queue is not held, and no debug stop holds it (R139, R206,
R263). -/
def State.wantsReplace (s : State) (r : Region) : Bool :=
  r.phase == .checkpointed && r.pageWait.isNone && !(s.queue r.queue).held && !s.dbg.dbgHeld.contains r.num

/-- The place of a launch in the order of the slot grants (R205): its packet's name, given at the grant, or its own. -/
def Launch.rank (l : Launch) : Nat := l.pkt.getD l.id

/-- The rank of the launch of a region. -/
def State.rankOf (s : State) (r : Region) : Nat := ((s.launches.find? (fun l => l.id == r.launch)).map Launch.rank).getD r.launch

/-- A launch waits to be placed: for the first time, or again from a checkpoint. -/
def State.unplaced (s : State) (l : Launch) : Bool :=
  match l.region.bind s.region? with
  | none => l.region.isNone
  | some r => r.phase == .checkpointed

/-- A launch cannot be placed whatever is free: its queue is held, or a region of its queue that came before it waits to be placed again (R206). -/
def State.barred (s : State) (l : Launch) : Bool :=
  (s.queue l.queue).held || s.regions.any (fun (_, r) => s.wantsReplace r && r.queue == l.queue && decide (s.rankOf r < l.rank))

/-- A launch of rank `n` must let another go first: one with an earlier slot grant that has reserved its turn, or that has not looked for a rectangle
yet though it may; a packet with an earlier grant that is still to start its launch (R205). -/
def State.yields (s : State) (n : Nat) : Bool :=
  s.launches.any (fun x => decide (x.rank < n) && s.unplaced x && (x.reserved || (x.region.isNone && !x.tried && !s.barred x)))
    || s.packets.any (fun p => decide (p.id < n) && p.st == .fetched && (bits (p.words.headD 0).toNat 7 0 == 1 || bits (p.words.headD 0).toNat 7 0 == 2))

/-- A launch may be placed now (R205, R206). -/
def State.mayPlace (s : State) (l : Launch) : Bool := l.region.isNone && decide (l.due ≤ s.cycle) && !s.barred l && !s.yields l.rank

/-- A region that an armed debug stop names stops at its arming, before any firing (R263). -/
def State.armedStop (s : State) (l : Nat) : State :=
  match (s.launches.find? (fun x => x.id == l)).bind Launch.region with
  | some n => if s.dbg.dbgArm && s.dbg.dbgRegion.toNat == n then s.first (.ev (.debugStop n)) else s
  | none => s

/-- REGION_PLACE (R16, R204, R205). -/
def execRegionPlace (l : Nat) (s : State) : Host.Outcome State Fault Refusal :=
  match s.launches.find? (fun x => x.id == l) with
  | none => .next s
  | some x =>
    if s.mayPlace x then
      match s.tryPlace x with
      | .wait s => .next { s with launches := mapIf (fun x => x.id == l) (fun x => { x with tried := true }) s.launches }
      | .fail k d0 d1 => .next (s.launchFail x k d0 d1)
      | .armed s => .next (s.armedStop l)
    else .next s

/-- LAUNCH_RESERVE_TURN (R205, R206): a launch that has waited 2^20 cycles reserves its turn, one that waits to be placed again among them. -/
def execLaunchReserveTurn (l : Nat) (s : State) : Host.Outcome State Fault Refusal :=
  .next { s with launches := mapIf (fun x => x.id == l && s.unplaced x && decide (x.since + 2 ^ 20 ≤ s.cycle)) (fun x => { x with reserved := true }) s.launches }

end Sys2Proof.Machine
end

