-- ==== Sys2Proof/Machine/Snap.lean ====
section
/-!
DEFINITION. Halting, checkpoints, placing again and aborts (R139, R165, R168, R204, R206, R207, R297, R344).
-/
namespace Sys2Proof.Machine

/-! ## Moving what a snapshot holds -/

/-- Arrivals of a token's log that lie in the old rectangle, moved. -/
def Token.shift (f : Nat → Nat) (k : Token) : Token :=
  { k with
    log := k.log.map (fun l => { l with hops := l.hops.map (fun h => { h with tile := f h.tile }) })
    side := match k.side with | .acc row sender => .acc row (f sender) | x => x }

/-- A destination moved. -/
def Dest.shift (f : Nat → Nat) (d : Dest) : Dest := { d with tile := f d.tile }

/-- A resolved class moved. -/
def ExtTo.shift (f : Nat → Nat) (e : ExtTo) : ExtTo := match e with | .to d => .to (d.shift f) | .drop => .drop | .wait => .wait

/-- An output slot moved. -/
def OutSlot.shift (f : Nat → Nat) (o : OutSlot) : OutSlot := match o with | .full t l c => .full (t.shift f) (l.map (fun (p, r, b) => (p, (match r with | .table c => .table c | .dest d => .dest (d.shift f)), b))) c | .reserved i => .reserved i

/-- A packet moved. -/
def Flight.shift (f : Nat → Nat) (x : Flight) : Flight :=
  { x with
    src := f (x.src / 4) * 4 + x.src % 4
    tile := f x.tile
    tok := x.tok.shift f
    route := match x.route with | .table c => .table c | .dest d => .dest (d.shift f) }

/-- A walk's position moved. -/
def WalkPos.shift (f : Nat → Nat) (w : WalkPos) : WalkPos := { w with pend := w.pend.map (Token.shift f) }

/-- A generator moved. -/
def Gen.shift (f : Nat → Nat) (g : Gen) : Gen := { g with pendTok := g.pendTok.map (Token.shift f), flying := g.flying.map (fun x => (x.1.shift f, x.2)), walk := g.walk.map (WalkPos.shift f) }

/-- A memory tile moved by `cols` memory columns: its records name another port tile (R250). -/
def MTile.shift (f : Nat → Nat) (x : Nat) (m : MTile) : MTile :=
  { m with
    recs := m.recs.map (fun w => if sKind w == 3 || sKind w == 4 || sKind w == 8 then BitVec.ofNat 512 (setBits w.toNat 336 332 ((x - 2) / 3)) else w)
    gens := m.gens.map (Gen.shift f)
    staging := m.staging.map (fun g => { g with dest := g.dest.shift f, toks := g.toks.map (Token.shift f) }) }

/-- The matrix unit's results moved. -/
def Matrix.shift (f : Nat → Nat) (m : Matrix) : Matrix := { m with outs := m.outs.map (fun o => { o with tok := o.tok.shift f }) }

/-- A tile moved to the tile `t`. -/
def Tile.shift (f : Nat → Nat) (t : Nat) (x : Tile) : Tile :=
  { x with
    ext := x.ext.map (fun (c, e) => (c, e.shift f))
    iq := x.iq.map (fun q => q.map (Token.shift f))
    op := x.op.map (fun q => q.map (OutSlot.shift f))
    elem := x.elem.map (fun e => { e with mat := e.mat.shift f })
    mem := x.mem.map (MTile.shift f (tileX t))
    scatter := x.scatter.map (fun c => { c with held := c.held.map (fun (k, l) => (k.shift f, l)) })
    gather := x.gather.map (fun g => { g with bufs := g.bufs.map (fun b => b.map (Token.shift f)), dest := g.dest.shift f }) }

/-- A request moved. -/
def Req.shift (f : Nat → Nat) (q : Req) : Req := { q with tile := f q.tile }

/-- The tile numbers of a rectangle moved to another origin. -/
def moveTile (die x0 y0 w h base : Nat) (t : Nat) : Nat :=
  let old := tileNo die x0 y0
  if tileDie t == die && decide (x0 ≤ tileX t) && decide (tileX t < x0 + w) && decide (y0 ≤ tileY t) && decide (tileY t < y0 + h)
  then t - old + base else t

/-! ## Registers in the backing area (R19, R139, R146) -/

/-- Vector registers of an element written to the backing area. -/
def State.spillRegs (s : State) (r : Region) (t : Nat) (e : Elem) (regs : List (Nat × Nat)) : State :=
  regs.foldl (fun s (c, n) => s.watch (tileDie t) (r.regAddr t c n) 80 1 4) { s with hbm := regs.foldl (fun m (c, n) =>
    writeBytes m (r.regAddr t c n) (vecBytes (Vector.at (n := 31) (Vector.at (n := 3) e.ctx c).v n))) s.hbm }

/-- An element as a checkpoint holds it: its registers count as spilled; a halt and what it had under way with entries are over. -/
def Elem.stored (e : Elem) : Elem :=
  { e with resident := [], spilled := e.resident ++ e.spilled.filter (fun r => !e.resident.contains r), moves := [], haltAt := none }

/-- The part of a tile that a region has. -/
def Tile.part (t : Tile) (region : Nat) : Tile := (t.shared.filter (fun x => x.region != region)).foldl (fun t x => t.leave x.region) t

/-- The region's own parts, with the registers as a checkpoint holds them. -/
def Snapshot.own (p : Snapshot) (region : Nat) : Snapshot :=
  { p with tiles := p.tiles.map (fun (n, t) => let u := t.part region; (n, { u with elem := u.elem.map Elem.stored })) }

/-- The tiles, bytes and packets of a snapshot put into the rectangle at a region's origin. -/
def State.standSnapshot (s : State) (r : Region) (p : Snapshot) : State :=
  let f := moveTile p.die p.x0 p.y0 r.w r.h r.base
  let s := p.tiles.foldl (fun (s : State) (n, t) =>
    let u := t.shift f (f n)
    match s.tile? (f n) with
    | some old => s.setTile (f n) (old.join u r.hdr.shareK)
    | none => s.setTile (f n) u) s
  { s with
    sram := p.sram.foldl (fun m (k, b) => SMap.write 0 m (f (k / 2 ^ 19) * 2 ^ 19 + k % 2 ^ 19) b) s.sram
    full := p.full.foldl (fun m (k, b) => SMap.write false m (f (k / 2 ^ 15) * 2 ^ 15 + k % 2 ^ 15) b) s.full
    flights := s.flights ++ p.flights.map (Flight.shift f) }

/-- A transfer of a region moved: a request that no unit has taken goes to the unit that faces its new row (R407). -/
def Transfer.shift (f : Nat → Nat) (x : Transfer) : Transfer :=
  let t := f x.tile
  if x.accepted then { x with tile := t } else { x with tile := t, die := tileDie t, port := rowPort t }

/-- What else names a tile of a region, moved: requests, fault tokens, transfers. -/
def State.moveRest (s : State) (r : Region) (f : Nat → Nat) : State :=
  { s with
    reqs := mapIf (fun q => q.region == r.num) (Req.shift f) s.reqs
    faultToks := mapIf (fun q => q.region == r.num) (fun q => { q with tile := f q.tile, froze := q.froze.map (fun (t, c) => (f t, c)) }) s.faultToks
    transfers := mapIf (fun x => x.region == r.num) (Transfer.shift f) s.transfers }

/-! ## Halting and checkpoints (R139, R206, R207) -/

/-- A region begins to halt: the halt reaches each element so that all are at a boundary within 472 cycles. -/
def State.haltRegion (s : State) (n : Nat) : State :=
  match s.region? n with
  | none => s
  | some r =>
    if r.phase == .armed then (s.haltElems r).modRegion n (fun x => { x with phase := .halting, since := s.cycle }) else s

/-- An element stands at an instruction boundary: the halt has reached it, no follower's slot is due, no result of its matrix unit is under way. A
panel that is being cleared and a register that is on its way are no firing in progress. -/
def Elem.bounded (e : Elem) (now : Nat) : Bool := e.haltedBy now && e.due.isEmpty && e.mat.outs.isEmpty

/-- Every element of a region stands at a boundary, and none has a collective slot. -/
def State.atBoundary (s : State) (r : Region) : Bool :=
  (r.tilesOf s).all (fun (_, t) => match t.elem with | none => true | some e => e.bounded s.cycle && e.cslot.isNone)

/-- The checkpoint of a region is written and its rectangle is given up (R139); requests of transfers that no unit has taken are in it (R407). Its launch
waits again with the wait count that it had (R206). -/
def State.checkpoint (s : State) (r : Region) : State :=
  let n := r.num
  let snap := s.snapshot r
  let s := snap.tiles.foldl (fun (s : State) (t, x) =>
    let u := x.part n
    match u.elem with | some e => s.spillRegs r t e e.resident | none => s) s
  let waits (x : Transfer) : Bool := x.isCopy.isNone && x.region == n && !x.accepted
  let s := (s.dropRect r).unhalt r
  let s : State := { s with transfers := s.transfers.filter (fun x => !waits x) }
  let snap' : Snapshot := { snap with reqs := [], faultToks := [], transfers := snap.transfers.filter waits }
  let s := s.modRegion n (fun x => { x with phase := .checkpointed, save := some (snap'.own n) })
  State.refreshLinks { s with launches := mapIf (fun l => l.id == r.launch) (fun l => { l with since := s.cycle - l.waited }) s.launches }

/-- REGION_CHECKPOINT (R139): the checkpoint of a halted region is written and its rectangle is free. -/
def execRegionCheckpoint (n : Nat) (s : State) : Host.Outcome State Fault Refusal :=
  match s.region? n with
  | none => .next s
  | some r => if r.phase == .halting && s.atBoundary r then .next (s.checkpoint r) else .next s

/-! ## Placing again (R139, R204) -/

/-- A region's range entries after its rectangle has moved: the column ports move with their columns, the row ports face the new rows. -/
def Region.movePorts (r : Region) (x0 y0 : Nat) : SMap (List RangeEnt) :=
  let row := ((r.ports.find? (fun e => decide (64 ≤ e.1))).map Prod.snd).getD []
  let cols := (r.ports.filter (fun e => decide (e.1 < 64))).foldl (fun (m : SMap (List RangeEnt)) e =>
    SMap.put m (e.1 + x0 / 3 * 4 - r.x0 / 3 * 4) e.2) []
  ((List.range 32).filter (fun y => decide (y0 ≤ y) && decide (y < y0 + r.h))).foldl (fun m y => SMap.put m ((16 + y / 2) * 4) row) cols

/-- A snapshot of a region stands at an origin, and the region is armed there. -/
def State.rearm (s : State) (r : Region) (p : Snapshot) (die x0 y0 : Nat) : State :=
  let g := moveTile r.die r.x0 r.y0 r.w r.h (tileNo die x0 y0)
  let s := s.moveRest r g
  let r' := { r with
    die := die, x0 := x0, y0 := y0, phase := .armed, save := none, turn := p.turn, ports := r.movePorts x0 y0
    pairs := r.pairs }
  let f := moveTile p.die p.x0 p.y0 r.w r.h r'.base
  let s : State := { s with regions := SMap.put s.regions r.num r', transfers := s.transfers ++ p.transfers.map (Transfer.shift f) }
  ((s.standSnapshot r' p).clearRect r').refreshLinks

/-- The registers that a snapshot holds as spilled, written to the backing area of the region (R139). -/
def State.restoreRegs (s : State) (r : Region) (own : Snapshot) : State :=
  own.tiles.foldl (fun (s : State) (t, x) =>
    match x.elem with
    | some e => s.spillRegs r (moveTile own.die own.x0 own.y0 r.w r.h r.base t) e e.spilled
    | none => s) s

/-- What a region holds beyond its rectangle, held again: one whose task is aborted after it has retired has given back its backing object and its
communicators, and runs once more (R146, R168, R226). Nothing while these cannot be had. -/
def State.reequip (s : State) (r : Region) (p : Snapshot) (die : Nat) : Except State (Region × State) :=
  if r.backing != 0 then .ok (r, s)
  else
    match s.loadColl (s.readLeaves r.plan) r.hdr r.num die with
    | .error _ => .error s
    | .ok (coll, s1) =>
      match s1.backing r.w r.h with
      | .error s2 => .error { s2 with comms := s.comms, tables := s.tables }
      | .ok (obj, base, s2) => let r := { r with backing := base, objs := [obj], coll := coll }; .ok (r, s2.restoreRegs r p)

/-- REGION_REPLACE (R139, R204, R206): a checkpointed region takes the first rectangle that fits; its number stays and its version advances. -/
def execRegionReplace (n : Nat) (s : State) : Host.Outcome State Fault Refusal :=
  match s.region? n with
  | none => .next s
  | some r =>
    match r.save with
    | none => .next s
    | some p =>
      let news := p.tiles.filterMap (fun (t, x) => if x.shared.isEmpty then none else some (tileX t - p.x0, tileY t - p.y0, x))
      let share (dx dy t : Nat) : Bool := decide (0 < r.hdr.shareK) && s.shareable r.hdr.shareK news dx dy t && s.regsFit r.plan dx dy t
      if s.wantsReplace r && !s.yields (s.rankOf r) then
        match s.origin r.w r.h r.plan.hdr.xphase share with
        | none => .next s
        | some (die, x0, y0) =>
          if s.dieHas die r.chans.length r.ru.isSome then
            match s.reequip r p die with
            | .error s => .next s
            | .ok (r, s) =>
              let ver := r.ver + 1
              let r' := { r with ver := ver, replaced := true, since := s.cycle }
              let placed (l : Launch) : Launch := { l with reserved := false, waited := s.cycle - l.since }
              .next (State.rearm { s with versions := SMap.put s.versions n ver, launches := mapIf (fun l => l.id == r.launch) placed s.launches } r' p die x0 y0)
          else .next s
      else .next s

/-! ## Aborts (R168, R344) -/

/-- The tasks of a persistent instance that come after one: they run from the same launch. -/
def State.laterTasks (s : State) (t : Task) : List Nat :=
  match t.launch with
  | none => []
  | some l => (s.tasks.filter (fun u => u.launch == some l && decide (t.id < u.id))).map Task.id

/-- The plan-table entries that a task has made are freed (R344). -/
def State.freePlansOf (s : State) (task : Nat) : State :=
  (s.plans.filter (fun e => e.2.task == some task && e.2.plan.isSome && e.2.own)).foldl (fun (s : State) (i, _) =>
    let (s, objs) := s.freePlan i
    objs.foldl State.releaseObj s) s

/-- What a task leaves when it is aborted or dies: pending versions, buffered atomics, logs, plan entries, barrier counts. -/
def State.undoTask (s : State) (task : Nat) : State :=
  ((s.discardTask task).freePlansOf task).modTask task (fun t => { t with bars := hex Bar.zero, complete := false })

/-- The region of a task as the task's launch state or commit-point checkpoint has it (R42, R102, R165, R168). -/
def Region.undone (r : Region) (task : Nat) (p : Snapshot) : Region :=
  { r with
    task := task, turn := p.turn, seqSeen := p.seqSeen, flags := p.flags, setNow := 0, clrNow := 0, frec := p.frec, ru := p.ru, chans := p.chans, bars := p.bars
    wlog := [], rlog := [], pairs := [], spairs := [], compSeen := false, compTokens := 0, faulted := none, proposals := []
    pageWait := none, starts := r.starts.filter (fun x => decide (x.1 ≤ task)) }

/-- The task of a region that has stopped, which counts as committed (R212). -/
def State.stoppedTask (s : State) (u : Task) : Bool := ((u.region.bind s.region?).map (fun r => r.phase == .stopped && r.task == u.id)).getD false

/-- No context of a snapshot is marked (R381). -/
def Snapshot.unmarked (p : Snapshot) : Snapshot :=
  { p with tiles := p.tiles.map (fun (n, t) => (n, { t with elem := t.elem.map (fun e => { e with ctx := e.ctx.map (fun c => { c with mark := false }) }) })) }

/-- An ordered task is aborted and re-runs (R168). An irrevocable task is never aborted, nor one that counts as committed. The later tasks of its
instance are aborted with it; they begin again with the keys that they have (R164). -/
def State.abortTask (s : State) (task : Nat) : State :=
  match s.task? task with
  | none => s
  | some t =>
    if !t.ordered || t.irrev || s.stoppedTask t then s
    else
      let later := s.laterTasks t
      let kept := (sortBy (fun (a b : Task) => decide (a.id < b.id)) (s.tasks.filter (fun u => later.contains u.id))).map (fun u => (u.key, u.aborts + 1))
      let s := later.foldl State.undoTask s
      let s : State := { s with tasks := s.tasks.filter (fun u => !later.contains u.id) }
      let s := (s.undoTask task).modTask task (fun t => { t with aborts := t.aborts + 1 })
      match t.region.bind s.region? with
      | none => s
      | some r =>
        match r.starts.find? (fun x => x.1 == task) with
        | none => s
        | some (_, p) =>
          let own := (p.own r.num).unmarked
          let old := r.die
          let s : State := { s with
            reqs := s.reqs.filter (fun q => q.region != r.num) ++ p.reqs
            faultToks := s.faultToks.filter (fun f => f.region != r.num) ++ p.faultToks
            transfers := s.transfers.filter (fun x => x.isCopy.isSome || x.region != r.num) }
          let r' := { r.undone task p with kept := kept ++ r.kept }
          if r.placed then
            let s : State := { s with regions := SMap.put s.regions r.num r' }
            let s := State.moveRest (s.dropRect r) r (moveTile p.die p.x0 p.y0 r.w r.h (tileNo old r.x0 r.y0))
            (State.rearm s r' own r.die r.x0 r.y0).restoreRegs r' own
          else
            let f := moveTile p.die p.x0 p.y0 r.w r.h (tileNo old r.x0 r.y0)
            let s := State.moveRest s r f
            let s := if r.backing = 0 then s else s.restoreRegs r' own
            let runs := (own.transfers.filter Transfer.accepted).map (Transfer.shift f)
            { s with
              transfers := s.transfers ++ runs
              regions := SMap.put s.regions r.num { r' with phase := .checkpointed, save := some { own with transfers := own.transfers.filter (fun x => !x.accepted) } }
              launches := mapIf (fun l => l.id == r.launch) (fun l => { l with since := s.cycle - l.waited }) s.launches }

end Sys2Proof.Machine
end

