-- ==== Sys2Proof/Machine/Access.lean ====
section
/-!
DEFINITION. Element accesses to global memory: LDG, STG, atomics, FENCE, BAR, TSET, TCOMMIT, and their service by port tiles and atomic homes
(R131 to R138, R156, R166, R170 to R175, R240, R288 to R293, R295 to R297, R307 to R309, R321, R322, R371, R372, R377 to R379).
-/
namespace Sys2Proof.Machine

/-! ## The firings -/

/-- LDG (R321). -/
def execLdg (t : Trig) (q : Fin 4) (a : SSrc) (s : State) : Host.Outcome State Fault Refusal :=
  fire (.ldg t q a) s (fun e s => .done (s.issue e (.ldg t q a) (e.s a) 0 0 (.s 0) (s.after 12)).tick 0)

/-- STG (R371). -/
def execStg (t : Trig) (r : RDst) (a : SSrc) (b : ASrc) (s : State) : Host.Outcome State Fault Refusal :=
  fire (.stg t r a b) s (fun e s => .done (s.issue e (.stg t r a b) (e.s a) 0 0 (e.a b) (s.after 12)).tick 0)

/-- A scope that reaches parties on other dies (R174, R175): a task of this model has one region, and so one die. -/
def crossDie (sc : Scope) : Bool :=
  match sc with
  | .package | .domain | .system => true
  | .context | .element | .region | .task | .die => false

/-- A FENCE's or an atomic's release. -/
def SyncOrd.releases (o : SyncOrd) : Bool := match o with | .rel | .ar => true | .acq => false
/-- A FENCE's or an atomic's acquire. -/
def SyncOrd.acquires (o : SyncOrd) : Bool := match o with | .acq | .ar => true | .rel => false

/-- The pairs that an atomic records at its home (R175, R309): those of the writes with arcs to a release that reaches other dies, or the
release set of the context's last release FENCE whose reply was seen. -/
def releasePairs (e : Env) (o : AtOrd) : Option (List Rng) :=
  match o with
  | .sync o sc => if SyncOrd.releases o && crossDie sc then some (addRngs 8 [] e.arcs.writes) else none
  | .relaxed .unpaired | .relaxed .nonOrdering | .relaxed .speculative =>
    match e.ctx.relSet with
    | some (f, rs) => if e.arcs.fences.contains f then some rs else none
    | none => none
  | .relaxed .commutative | .relaxed .quantum => none

/-- An atomic's firing (R288). -/
def sendAtomic (i : Instr) (n : Fin 8) (o : AtOrd) (s : State) : Host.Outcome State Fault Refusal :=
  fire i s (fun e s =>
    let (a, b) := e.pair n
    .done (s.ask { s.request e i a b (e.sreg (2 * n.val + 2)) (.s 0) (s.after 12) with rel := releasePairs e o }).tick 0)

/-- AADD (R288). -/
def execAadd (t : Trig) (r : RDst) (n : Fin 8) (o : AtOrd) (s : State) : Host.Outcome State Fault Refusal := sendAtomic (.aadd t r n o) n o s
/-- AFADD (R288). -/
def execAfadd (t : Trig) (r : RDst) (n : Fin 8) (o : AtOrd) (s : State) : Host.Outcome State Fault Refusal := sendAtomic (.afadd t r n o) n o s
/-- AMIN (R288). -/
def execAmin (t : Trig) (r : RDst) (n : Fin 8) (o : AtOrd) (s : State) : Host.Outcome State Fault Refusal := sendAtomic (.amin t r n o) n o s
/-- AMAX (R288). -/
def execAmax (t : Trig) (r : RDst) (n : Fin 8) (o : AtOrd) (s : State) : Host.Outcome State Fault Refusal := sendAtomic (.amax t r n o) n o s
/-- AAND (R288). -/
def execAand (t : Trig) (r : RDst) (n : Fin 8) (o : AtOrd) (s : State) : Host.Outcome State Fault Refusal := sendAtomic (.aand t r n o) n o s
/-- AOR (R288). -/
def execAor (t : Trig) (r : RDst) (n : Fin 8) (o : AtOrd) (s : State) : Host.Outcome State Fault Refusal := sendAtomic (.aor t r n o) n o s
/-- AXOR (R288). -/
def execAxor (t : Trig) (r : RDst) (n : Fin 8) (o : AtOrd) (s : State) : Host.Outcome State Fault Refusal := sendAtomic (.axor t r n o) n o s
/-- ASWP (R288). -/
def execAswp (t : Trig) (r : RDst) (n : Fin 8) (o : AtOrd) (s : State) : Host.Outcome State Fault Refusal := sendAtomic (.aswp t r n o) n o s
/-- ACAS (R288): sN+1 holds the expected value, sN+2 the new one. -/
def execAcas (t : Trig) (r : RDst) (n : Fin 8) (o : AtOrd) (s : State) : Host.Outcome State Fault Refusal := sendAtomic (.acas t r n o) n o s

/-! ## Fences (R173, R175, R307 to R309) -/

/-- A scope that reaches other packages or the host (R174). -/
def outScope (sc : Scope) : Bool :=
  match sc with
  | .domain | .system => true
  | .context | .element | .region | .task | .die | .package => false

/-- FENCE (R308, R309): what its arcs bring is performed before, for parties outside the package once it is written back; an acquire pulls what
replies have brought back; the reply enters within 8 cycles. -/
def execFence (t : Trig) (r : RDst) (a : SSrc) (o : SyncOrd) (sc : Scope) (s : State) : Host.Outcome State Fault Refusal :=
  fire (.fence t r a o sc) s (fun e s =>
    let id := s.nextId
    let q := s.request e (.fence t r a o sc) 0 0 0 (.s 0) (s.within 7)
    let s := if SyncOrd.acquires o && crossDie sc then s.pull (tileDie e.site.tile) e.arcs.back else s
    let s := if SyncOrd.releases o && crossDie sc then
        s.modCtx e.site.tile e.site.ctx (fun c => { c with relSet := some (id, addRngs 8 [] e.arcs.writes) })
      else s
    let s := if SyncOrd.releases o && outScope sc then s.releaseOut (tileDie e.site.tile) e.arcs.writes else s
    .done (s.askDone q ⟨.s 0, false, none, Arcs.join { fences := [id] } e.arcs⟩).tick 0)

/-! ## Barriers (R295 to R297) -/

/-- One arrival at a counter: none if its P differs (R296); the counter, and the arrivals that complete. -/
def Bar.arrive (b : Bar) (p id : Nat) : Option (Bar × Option (BitVec 32 × List Nat)) :=
  let p0 := if b.count = 0 then p else b.p
  if p0 ≠ p then none
  else if b.count + 1 = p then some (⟨0, p0, b.g + 1, []⟩, some (b.g, b.waiting ++ [id]))
  else some (⟨b.count + 1, p0, b.g, b.waiting ++ [id]⟩, none)

/-- The counters of a scope (R296). -/
def barsOf (s : State) (e : Env) (sc : BarScope) : Vector Bar 16 :=
  match sc with
  | .element => e.elem.bars
  | .region => e.region.bars
  | .task => match s.task? e.region.task with | some t => t.bars | none => hex Bar.zero

/-- The counters of a scope written. -/
def putBars (s : State) (e : Env) (sc : BarScope) (b : Vector Bar 16) : State :=
  match sc with
  | .element => s.modElem e.site.tile (fun x => { x with bars := b })
  | .region => s.modRegion e.ctx.region (fun x => { x with bars := b })
  | .task => s.modTask e.region.task (fun x => { x with bars := b })

/-- The longest time from the completing arrival to a reply (R296). -/
def barTime (sc : BarScope) : Nat :=
  match sc with
  | .element => 2
  | .region => 48
  | .task => 400

/-- The arrivals of a generation receive their replies; each carries what the arcs into any arrival carry. -/
def State.openBar (s : State) (g : BitVec 32) (ids : List Nat) (bound : Nat) : State :=
  let arcs := ids.foldl (fun (a : Arcs) i => match s.req? i with | some r => a.join r.arcs | none => a) {}
  ids.foldl (fun (s : State) i => (s.answer i (.s (g.setWidth 64)) none arcs (max (s.cycle + 1) (s.within bound))).tick) s

/-- BAR (R295, R296). -/
def execBar (t : Trig) (q : Fin 4) (a : SSrc) (sc : BarScope) (s : State) : Host.Outcome State Fault Refusal :=
  fire (.bar t q a sc) s (fun e s =>
    let x := (e.s a).toNat
    let p := bits x 15 0
    let n := bits x 19 16
    let bars := barsOf s e sc
    if p = 0 then s.issueFault e (.bar t q a sc) ⟨kFormat, 0, 0⟩
    else
      match (Vector.at (n := 15) bars n).arrive p s.nextId with
      | none => s.issueFault e (.bar t q a sc) ⟨kFormat, 0, 0⟩
      | some (b, opened) =>
        let s := s.ask { s.request e (.bar t q a sc) (e.s a) 0 0 (.s 0) s.cycle with st := .waiting }
        let s := putBars s e sc (Vector.upd (n := 15) bars n b)
        match opened with
        | none => .done s 0
        | some (g, ids) => .done (s.openBar g ids (barTime sc)) 0)

/-! ## Tasks of a persistent instance (R377, R378) -/

/-- TSET: a proposal (R378). -/
def execTset (t : Trig) (a : SSrc) (s : State) : Host.Outcome State Fault Refusal :=
  fire (.tset t a) s (fun e s => .done (s.modRegion e.ctx.region (fun r => { r with proposals := r.proposals ++ [e.s a] })) 0)

/-- TCOMMIT: the context is held (R377). -/
def execTcommit (t : Trig) (a : SSrc) (s : State) : Host.Outcome State Fault Refusal :=
  fire (.tcommit t a) s (fun e s => .done (s.modCtx e.site.tile e.site.ctx (fun c => { c with held := true })) 0)

/-! ## Port tiles (R132 to R138, R290, R321, R371) -/

/-- When the reply of an access performed now returns (R292, R322). -/
def State.portReply (s : State) : Nat := s.after 16

/-- A fault at translation (R156). -/
def State.accessFault (s : State) (r : Req) (f : FaultInfo) : State := (s.failReq r f s.portReply).tick

/-- An LDG performed (R322). -/
def State.performLdg (s : State) (r : Req) (ps : List (Nat × Nat × Option Nat)) : State :=
  let die := tileDie r.tile
  let (s, bs) := ps.foldl (fun (a : State × List Byte) (k, n, _) =>
    let (s, bs) := a.1.readAccess r.region die (a.1.orderedTask r.task) k n 0
    (s.modRegion r.region (fun g => g.widen die (s.homePort die k) false (rngOf k n)), a.2 ++ bs)) (s, [])
  (s.answer r.id (bytesPay (s.vectorQueue r.tile r.q) bs) none {} s.portReply).tick

/-- An STG performed (R372). -/
def State.performStg (s : State) (r : Req) (ps : List (Nat × Nat × Option Nat)) : State :=
  let die := tileDie r.tile
  let (s, _) := ps.foldl (fun (a : State × List Byte) (k, n, pte) =>
    let s := (a.1.writeAccess r.region die (a.1.orderedTask r.task) k (a.2.take n) 0).dirtyPage pte
    (s.modRegion r.region (fun g => g.widen die (s.homePort die k) true (rngOf k n)), a.2.drop n)) (s, r.pay.bytes)
  (s.answer r.id (.s 0) none { writes := ps.map (fun (k, n, _) => rngOf k n) } s.portReply).tick

/-- The use and order of an atomic. -/
def atOrd (i : Instr) : Option AtOrd :=
  match i with
  | .aadd _ _ _ o | .afadd _ _ _ o | .amin _ _ _ o | .amax _ _ _ o | .aand _ _ _ o | .aor _ _ _ o | .axor _ _ _ o | .aswp _ _ _ o
  | .acas _ _ _ o => some o
  | _ => none

/-- A path that cannot carry an atomic (R240). -/
def noPath (k : Nat) (o : AtOrd) : Bool :=
  isIo k || (isHost k && Config.uncacheable (k / 256) && (match o with | .sync _ .system => true | .sync _ _ | .relaxed _ => false))

/-- An atomic translated: in an ordered task a commutative one is buffered until the commit; every other goes to its home (R171, R290, R291). -/
def State.routeAtomic (s : State) (r : Req) (o : AtOrd) (k n : Nat) (pte : Option Nat) : State :=
  if noPath k o then s.accessFault r ⟨kAtomic, 0, r.x⟩
  else
    let die := tileDie r.tile
    let s := ((s.reuse r.region die k n).watch die k n 2 0).dirtyPage pte
    match o, s.orderedTask r.task with
    | .relaxed .commutative, some t => (s.modTask t (fun x => { x with atomics := x.atomics ++ [(k, r.op, r.y, r.id)] })).dropReq r.id
    | _, _ => (s.modReq r.id (fun x => { x with pa := some k, due := s.after 0 })).tick

/-- PORT_ACCESS: the port tile that faces the element's row gives its access of this cycle to stream port 0 (R145), translates a request and performs
it, or withholds it (R138), or keeps it waiting (R134, R166, R170). -/
def execPortAccess (rq : Nat) (s : State) : Host.Outcome State Fault Refusal :=
  match s.req? rq with
  | none => .next s
  | some r =>
    match s.region? r.region with
    | none => .next s
    | some g =>
      let pt := s.portAt (tileDie r.tile) (rowPort r.tile)
      let ents := g.entries (rowPort r.tile) 0
      if r.st != .sent || decide (s.cycle < r.due) || r.pa.isSome || !s.portFree pt || s.olderFirst r || r.withheld.any (fun w => s.pageAbsent ents w.2) then
        .next s
      else
        let (n, align, need) := accessOf s r
        match s.pieces (some pt) ents r.x.toNat n align need with
        | .error (.fault f, _) => .next ((s.dropAbsent.usePort pt 1 none).accessFault r f)
        | .error (t, va) => .next (s.holdAccess pt r.region va t (fun s => s.modReq rq (fun x => { x with withheld := keptSince x.withheld s.time va })))
        | .ok ps =>
          let s := if r.withheld.isSome then s.modReq rq (fun x => { x with withheld := none }) else s
          match r.op with
          | .ldg _ _ _ => .next ((s.usePort pt 1 none).performLdg r ps)
          | .stg _ _ _ _ =>
            let task := s.orderedTask r.task
            let blockers := (ps.flatMap (fun (k, m, _) => s.storeBlockers (tileDie r.tile) task k m)).eraseDups
            if blockers.isEmpty then .next ((s.usePort pt 1 none).performStg r ps)
            else
              match task.bind (fun t => s.abortFor t blockers) with
              | some young => .next (s.abortTask young)
              | none => .next s
          | i =>
            match atOrd i, ps with
            | some o, (k, m, pte) :: _ => .next ((s.usePort pt 1 none).routeAtomic r o k m pte)
            | _, _ => .next s

/-! ## Atomic homes (R170 to R172, R175, R291, R309) -/

/-- FP32 plus W40, rounded once (R291). -/
def afadd (old : Nat) (b : Word) : Nat := fp32.pack (rneFp32 (Num.add (fp32.unpack old) (unpack (b.truncate 40))).1).1

/-- f of R291 on the old value, b and, for ACAS, the new value. -/
def atomicFn (i : Instr) (old b c : Word) : Word :=
  match i with
  | .aadd _ _ _ _ => old + b
  | .afadd _ _ _ _ => BitVec.ofNat 64 (afadd old.toNat b)
  | .amin _ _ _ _ => if b.toInt < old.toInt then b else old
  | .amax _ _ _ _ => if old.toInt < b.toInt then b else old
  | .aand _ _ _ _ => old &&& b
  | .aor _ _ _ _ => old ||| b
  | .axor _ _ _ _ => old ^^^ b
  | .aswp _ _ _ _ => b
  | .acas _ _ _ _ => if old = b then c else old
  | _ => old

/-- The bytes of an atomic's word (R288). -/
def atomicSize (i : Instr) : Nat := match i with | .afadd _ _ _ _ => 4 | _ => 8

/-- What the reply holds: the old value, for AFADD as W40 (R291). -/
def atomicReply (i : Instr) (old : Word) : Word := match i with | .afadd _ _ _ _ => ((loadElem 1 old.toNat).1).setWidth 64 | _ => old

/-- An atomic writes: an ACAS that does not match leaves the word (R291, R309). -/
def atomicWrites (i : Instr) (old b : Word) : Bool := match i with | .acas _ _ _ _ => old == b | _ => true

/-- The key of a replica. -/
def replicaKey (die k : Nat) : Nat := die * 2 ^ 56 + k / 8 * 8

/-- The part of an 8-byte word that an atomic acts on. -/
def wordPart (w : Word) (k n : Nat) : Word := BitVec.ofNat 64 (w.toNat / 2 ^ (8 * (k % 8)) % 2 ^ (8 * n))

/-- A replica refreshed from the atomic home (R172). -/
def State.refreshReplica (s : State) (die k : Nat) : State :=
  { s with replicas := SMap.put s.replicas (replicaKey die k) ⟨BitVec.ofNat 64 (s.homeWord (k / 8 * 8) 8), s.cycle⟩ }

/-- What a quantum atomic reads (R172): the home, or a replica that is not older than Q. A read of the home leaves the die no older replica. -/
def State.quantumRead (s : State) (r : Req) (q k n : Nat) (old : Word) : State × Word :=
  let die := tileDie r.tile
  if homeDie k == some die || isHost k then (s, old)
  else if q = 0 then (if (SMap.find? s.replicas (replicaKey die k)).isSome then s.refreshReplica die k else s, old)
  else
    match SMap.find? s.replicas (replicaKey die k) with
    | some x =>
      if s.cycle ≤ x.atom + q then (s, wordPart x.value k n)
      else (s.refreshReplica die k, old)
    | none => (((s.refreshReplica die k).at (s.after 1) (.quantumRefresh ⟨die % 4, Nat.mod_lt _ (by decide)⟩ k)).tick, old)

/-- QUANTUM_REFRESH (R172). -/
def execQuantumRefresh (die : Fin 4) (pa : Nat) (s : State) : Host.Outcome State Fault Refusal := .next (s.refreshReplica die.val pa)

/-- The release record that an atomic leaves or clears at its home (R175). -/
def State.recordRelease (s : State) (r : Req) (k n : Nat) (wrote : Bool) : State :=
  match r.rel with
  | some rs =>
    if wrote then
      s.putRecord k (rs.map (fun x => ⟨dieBit (tileDie r.tile), x⟩))
    else s
  | none => if wrote then s.clearRecords k n else s

/-- The word that an atomic of a task finds: the bytes that its own task has pending, else what its home holds (R166). -/
def State.atomicWord (s : State) (task : Option Nat) (k n : Nat) : Word :=
  BitVec.ofNat 64 (leNat ((List.range n).map (fun i =>
    match task.bind (fun t => s.ownPending t (k + i)) with
    | some p => secByte p.data (k + i)
    | none => s.homeByte (k + i))))

/-- Bytes that an atomic of a task has written at their home are pending no more. -/
def State.unpend (s : State) (t k n : Nat) : State :=
  let left (p : Pending) : Pending :=
    if p.task = t then { p with mask := (List.range n).foldl (fun m i => if memKey (k + i) / 64 = p.sec then m &&& ~~~ ((1 : BitVec 64) <<< ((k + i) % 64)) else m) p.mask } else p
  { s with pend := (s.pend.map left).filter (fun p => p.mask != 0) }

/-- A speculative atomic of an ordered task, on the task's pending version (R171); its release set is recorded when the task commits (R309). -/
def State.speculate (s : State) (r : Req) (t k n : Nat) : State :=
  let die := tileDie r.tile
  let s := s.writeBack die (rngOf k n)
  let old := s.atomicWord (some t) k n
  let new := atomicFn r.op old r.y r.z
  let back := s.recordAt k
  let s := s.storePending die t k (leBytes n new.toNat)
  let rels (x : Task) : List (Nat × List RelPair) :=
    if atomicWrites r.op old r.y then relsWithout x.rels k n ++ (r.rel.map (fun rs => (k, rs.map (fun y => (⟨dieBit die, y⟩ : RelPair))))).toList else x.rels
  let s := s.modTask t (fun x => { x with rd := x.rd ++ [rngOf k n], wr := x.wr ++ [rngOf k n], rels := rels x })
  (s.answer r.id (.s (atomicReply r.op old)) none { back := back, writes := [rngOf k n] } (s.after 12)).tick

/-- An atomic performed at its home. -/
def State.performAtomic (s : State) (r : Req) (o : AtOrd) (k n : Nat) : State :=
  let die := tileDie r.tile
  let s := s.writeBack die (rngOf k n)
  let task := s.orderedTask r.task
  let old := s.atomicWord task k n
  let new := atomicFn r.op old r.y r.z
  let back := s.recordAt k
  let q := match s.region? r.region with | some g => g.hdr.quantum | none => 0
  let (s, seen) := match o with | .relaxed .quantum => s.quantumRead r q k n old | .relaxed _ | .sync _ _ => (s, old)
  let s := match o with
    | .sync x sc =>
      let s := if SyncOrd.releases x && outScope sc then s.releaseOut die (r.rel.getD []) else s
      if SyncOrd.acquires x && crossDie sc then s.pull die back else s
    | .relaxed _ => s
  let wrote := atomicWrites r.op old r.y || (r.rel.isSome && (match o with | .sync _ _ => true | .relaxed _ => false))
  let s := s.recordRelease r k n wrote
  let s := s.storeHome k (leBytes n new.toNat)
  let s := match task with | some t => s.unpend t k n | none => s
  let ordered := task.isSome
  let s := match o with
    | .relaxed .commutative => s
    | .relaxed _ | .sync _ _ =>
      if ordered then s.modTask r.task (fun x => { x with wr := x.wr ++ [rngOf k n] })
      else s.modRegion r.region (fun g => g.widen die (s.homePort die k) true (rngOf k n))
  (s.answer r.id (.s (atomicReply r.op seen)) none { back := back, writes := [rngOf k n] } (s.after 12)).tick

/-- ATOMIC_PERFORM (R291): a speculative atomic of an ordered task that would need room waits as a store does (R166). -/
def execAtomicPerform (rq : Nat) (s : State) : Host.Outcome State Fault Refusal :=
  match s.req? rq with
  | none => .next s
  | some r =>
    match r.pa, atOrd r.op with
    | some k, some o =>
      if r.st != .sent || decide (s.cycle < r.due) then .next s
      else
        let n := atomicSize r.op
        match o, s.orderedTask r.task with
        | .relaxed .speculative, some t =>
          let blockers := s.storeBlockers (tileDie r.tile) (some t) k n
          if blockers.isEmpty then .next (s.speculate r t k n)
          else
            match s.abortFor t blockers with
            | some young => .next (s.abortTask young)
            | none => .next s
        | _, _ => .next (s.performAtomic r o k n)
    | _, _ => .next s

end Sys2Proof.Machine
end

