-- ==== Sys2Proof/Machine/MatrixUnit.lean ====
section
/-!
DEFINITION. The matrix unit and the accumulator tile: MCFG, MLDB, MGATH, MROW, MDRAIN, MZERO (R108 to R110, R327 to R338), their results
and acknowledgements.
-/
namespace Sys2Proof.Machine

/-- FormatMismatch (R209: cause 0; R210: detail 0). -/
def formatFault : FaultInfo := ⟨kFormat, 0, 0⟩

/-! ## Formats and rows (R109, R329) -/

/-- The number of elements K of a row in an A format (R109); none for another code. -/
def aLen (fmt : Nat) : Option Nat :=
  match fmt with
  | 4 | 5 => some 128
  | 2 | 3 => some 64
  | 6 => some 256
  | _ => none

/-- The B formats (R109). -/
def isB (fmt : Nat) : Bool := [2, 3, 4, 5, 6, 9].contains fmt

/-- The B formats that an A format accepts (R109). -/
def accepts (a b : Nat) : Bool :=
  match a with
  | 4 | 5 => b == 4 || b == 5 || b == 9
  | 2 => b == 2
  | 3 => b == 3
  | 6 => b == 6
  | _ => false

/-- The 160 bytes of a pair of row tokens (R329). -/
def pairRow (x y : Vec) : BitVec 1280 := BitVec.ofNat 1280 (leNat (vecBytes x ++ vecBytes y))

/-- `n` bytes of a row from byte `j`. -/
def rowBytes (r : BitVec 1280) (j n : Nat) : Nat := r.toNat / 2 ^ (8 * j) % 2 ^ (8 * n)

/-- Element k of a row in a format, with its block scale, and whether a zero met an infinity in it (R104, R108, R329). -/
def rowElem (fmt : Nat) (r : BitVec 1280) (k : Nat) : Num × Bool :=
  match fmt with
  | 2 => (bf16.unpack (rowBytes r (2 * k) 2), false)
  | 3 => (fp16.unpack (rowBytes r (2 * k) 2), false)
  | 4 => (e4m3.unpack (rowBytes r k 1), false)
  | 5 => (e5m2.unpack (rowBytes r k 1), false)
  | 6 => (unpack (loadMx (rowBytes r (k / 2) 1 / 16 ^ (k % 2) % 16) (rowBytes r (128 + k / 32) 1)), false)
  | 9 => vq2Num (rowBytes r (2 * (k / 8)) 2) (rowBytes r (128 + 2 * (k / 64)) 2) (k % 8)
  | _ => (.num false 0 0, false)

/-- The exact sum of products of a row and a column, rounded once to W40, with its flags (R110, R334). -/
def rowDot (a b : Nat) (row col : BitVec 1280) (n : Nat) : Lane × Flags :=
  let prods := (List.range n).map (fun k =>
    let x := rowElem a row k
    let y := rowElem b col k
    let p := Num.mul x.1 y.1
    (p.1, p.2 || x.2 || y.2))
  let inf (neg : Bool) : Bool := prods.any (fun p => Num.isInf neg p.1)
  let bad := prods.any Prod.snd || (inf true && inf false)
  let sum := numSum (prods.map Prod.fst)
  let r := if bad then (Num.nan, true) else sum
  finish r 0

/-- Two tokens that are a valid row pair, with their format (R329, R332). -/
def rowPair (xs : List Token) : Option (Nat × BitVec 1280) :=
  match xs with
  | x :: y :: _ =>
    match x.side, y.side with
    | .row false f, .row true g => if f = g then some (f, pairRow x.pay.vec y.pay.vec) else none
    | _, _ => none
  | _ => none

/-! ## The panel record (R328) -/

/-- ROWS. -/
def pRows (p : BitVec 128) : Nat := bits p.toNat 11 0
/-- CBASE. -/
def pCbase (p : BitVec 128) : Nat := bits p.toNat 24 12
/-- GFMT. -/
def pGfmt (p : BitVec 128) : Nat := bits p.toNat 28 25
/-- KEEP_PROB, 65,536 for 0. -/
def pKeep (p : BitVec 128) : Nat := let k := bits p.toNat 47 32; if k = 0 then 65536 else k
/-- COLS. -/
def pCols (p : BitVec 128) : Nat := bits p.toNat 53 48
/-- SLICE0. -/
def pSlice0 (p : BitVec 128) : Nat := bits p.toNat 59 54
/-- TROW0. -/
def pTrow (p : BitVec 128) : Nat := bits p.toNat 94 64
/-- TCOL0. -/
def pTcol (p : BitVec 128) : Nat := bits p.toNat 125 95
/-- The reserved bits. -/
def pReserved (p : BitVec 128) : Bool := bits p.toNat 31 29 == 0 && bits p.toNat 63 60 == 0 && bits p.toNat 127 126 == 0

/-- The slice of an element under a record: SLICE0 plus the distance from the leader of its chain (R328). -/
def State.slice (s : State) (t : Nat) (p : BitVec 128) : Nat := pSlice0 p + (s.leaderOf 16 t).2

/-- The checks of MCFG (R331). -/
def State.panelOk (s : State) (t : Nat) (p : BitVec 128) : Bool :=
  decide (1 ≤ pRows p) && decide (pRows p ≤ 2048) && decide (pCbase p + pRows p ≤ 8192) && (pGfmt p == 0 || (aLen (pGfmt p)).isSome)
    && decide (s.slice t p < pCols p + 1) && pReserved p
    && ((s.mem? (homeTile t)).map (fun m => m.mode == 3)).getD false

/-- MCFG (R331). -/
def execMcfg (t : Trig) (n : Fin 8) (s : State) : Host.Outcome State Fault Refusal :=
  fire (.mcfg t n) s (fun e s =>
    let p : BitVec 128 := (e.pair n).2 ++ (e.pair n).1
    if s.panelOk e.site.tile p then .done (s.modMat e.site.tile (fun m => { m with panel := some p, rp := 0, dp := 0 })) 0
    else .fault formatFault)

/-- MLDB: a full latch is cleared first (R332). -/
def execMldb (t : Trig) (q : Fin 4) (s : State) : Host.Outcome State Fault Refusal :=
  fire (.mldb t q) s (fun e s =>
    let m := e.elem.mat
    match rowPair (e.tile.iq.get q) with
    | none => .fault formatFault
    | some (f, row) =>
      if !isB f then .fault formatFault
      else
        let m1 : Matrix := if m.bc = 16 then { m with latch := hex 0, bc := 0, bfmt := none } else m
        match m1.bfmt with
        | some g =>
          if g = f then .done (s.modMat e.site.tile (fun _ => { m1 with latch := Vector.upd m1.latch m1.bc row, bc := m1.bc + 1 })) 0
          else .fault formatFault
        | none => .done (s.modMat e.site.tile (fun _ => { m1 with latch := Vector.upd m1.latch m1.bc row, bfmt := some f, bc := m1.bc + 1 })) 0)

/-- The first fault among the addresses of MGATH (R333): tiles, then reserved bits, alignment and extent. -/
def gatherFault (r : Region) (leaf size : Nat) (x : Vec) : Option FaultInfo :=
  (List.range 16).findSome? (fun n =>
    let a := (x.lane n).toNat
    match r.localTile leaf a with
    | none => some ⟨kProt, 1, BitVec.ofNat 64 a⟩
    | some _ =>
      if a / 2 ^ 30 != 0 || a % 16 != 0 || decide (2 ^ 19 < a % 2 ^ 19 + size) then some ⟨kProt, 3, BitVec.ofNat 64 a⟩ else none)

/-- The bytes that MGATH reads for a row: 128, and 8 scale bytes for E2M1 (R333). -/
def gatherSize (fmt : Nat) : Nat := if fmt = 6 then 136 else 128

/-- The transit of the request for the first of some rows; at least 2 cycles each way, so that no row arrives sooner than 4 after the firing (R126, R333). -/
def gatherTransit (r : Region) (leaf tile : Nat) (as : List Nat) : Nat := max 2 ((((as.head?).bind (r.localTile leaf)).map (transit tile)).getD 2)

/-- MGATH (R333): every address is checked, then the rows are asked for. -/
def execMgath (t : Trig) (a : VSrc) (s : State) : Host.Outcome State Fault Refusal :=
  fire (.mgath t a) s (fun e s =>
    match e.elem.mat.panel with
    | none => .fault formatFault
    | some p =>
      if pGfmt p = 0 then .fault formatFault
      else
        let x := e.v a
        match gatherFault e.region e.ctx.leaf (gatherSize (pGfmt p)) x with
        | some f => .fault f
        | none =>
          let as := (List.range 16).map (fun n => (x.lane n).toNat)
          let due := s.after (gatherTransit e.region e.ctx.leaf e.site.tile as)
          .done ((s.fresh.modMat e.site.tile (fun m => { m with
            gr := 0, garrived := 0, gfmt := pGfmt p, gheld := none, gdue := due, gfired := s.cycle, gctx := e.site.ctx, gid := s.nextId, gaddr := as })).tick) 0)

/-- A result of the matrix unit on its way: a slot of the port is reserved from the pick; the token is the next that the context writes
(R334, R336, R381). -/
def State.reserve (s : State) (e : Env) (q : Fin 4) (lanes : Vec) (side : SideBand) (delay : Nat) (isRow : Bool) : State :=
  let id := s.nextId
  let o : MatOut := ⟨id, q, e.token s.cycle 0 (.v lanes) side, s.cycle + delay, isRow, false⟩
  let s := (s.fresh.modTile e.site.tile (fun t => t.setOp q (t.op.get q ++ [.reserved id]))).modMat e.site.tile
    (fun m => { m with outs := m.outs ++ [o] })
  s.modCtx e.site.tile e.site.ctx (fun c => { c with mark := false })

/-- A row against the latch (R334). -/
def mulRow (i : Instr) (o : Fin 4) (src : Env → Option (Nat × BitVec 1280)) (gather : Bool) (s : State) : Host.Outcome State Fault Refusal :=
  fire i s (fun e s =>
    let m := e.elem.mat
    match src e, m.panel, m.bfmt with
    | some (f, row), some p, some b =>
      match aLen f with
      | none => .fault formatFault
      | some n =>
        if m.bc = 0 || !accepts f b then .fault formatFault
        else
          let r := lanewise' (fun c => rowDot f b row (Vector.at m.latch c) n)
          let s := s.reserve e o r.1 (.acc (pCbase p + m.rp) e.site.tile) 40 true
          .done (s.modMat e.site.tile (fun x => { x with
            rp := (m.rp + 1) % pRows p, out := m.out + 1, gr := if gather then m.gr + 1 else m.gr })) r.2
    | _, _, _ => .fault formatFault)
where
  lanewise' (f : Nat → Lane × Flags) : Vec × Flags :=
    (Vec.build (fun n => (f n).1), (List.range 16).foldl (fun a n => a ||| (f n).2) 0)

/-- MROW (R334). -/
def execMrow (t : Trig) (o q : Fin 4) (s : State) : Host.Outcome State Fault Refusal :=
  mulRow (.mrow t o q) o (fun e => rowPair (e.tile.iq.get q)) false s

/-- MROW.G: gather-latch row GR (R334). -/
def execMrowG (t : Trig) (o : Fin 4) (s : State) : Host.Outcome State Fault Refusal :=
  mulRow (.mrowG t o) o (fun e => some (e.elem.mat.gfmt, Vector.at e.elem.mat.gather e.elem.mat.gr)) true s

/-- y * 65,536 / kp as an exact quotient to far below the last bit of W40, with a sticky bit (R336). -/
def keepScale (kp : Nat) (y : Num) : Num :=
  match y with
  | .num s m e =>
    let q := m * 2 ^ 80 / kp
    .num s (2 * q + (if m * 2 ^ 80 % kp = 0 then 0 else 1)) (e + 16 - 81)
  | .inf s => .inf s
  | .nan => .nan

/-- One lane of MDRAIN (R336): the accumulator, the dropout mask, the residual. -/
def drainLane (c : Nat) (drop : Option (Nat × Nat)) (res : Option Lane) : Lane × Flags :=
  let y0 : Lane × Flags := ((loadElem 1 c).1, 0)
  let y1 : Lane × Flags := match drop with
    | none => y0
    | some (u, kp) => if u < kp then w40 (keepScale kp (unpack y0.1)) else (0, 0)
  match res with
  | none => y1
  | some r => let z := fAdd y1.1 r; (z.1, z.2 ||| y1.2)

/-- MDRAIN in its four forms (R336): the row is read and cleared at the pick, the token enters the port 8 cycles later. -/
def drainRow (i : Instr) (o : Fin 4) (drop : Bool) (res : Env → Option Vec) (s : State) : Host.Outcome State Fault Refusal :=
  fire i s (fun e s =>
    let m := e.elem.mat
    match m.panel with
    | none => .fault formatFault
    | some p =>
      let home := homeTile e.site.tile
      let row := pCbase p + m.dp
      let sl := s.slice e.site.tile p
      let u (n : Nat) : Nat := drawDropout e.region.hdr.seed (BitVec.ofNat 31 (pTrow p + m.dp)) (BitVec.ofNat 31 (pTcol p + 16 * sl + n))
      let lane (n : Nat) : Lane × Flags :=
        drainLane (s.cElem home row n) (if drop then some (u n, pKeep p) else none) ((res e).map (fun v => v.lane n))
      let x := Vec.build (fun n => (lane n).1)
      let f := (List.range 16).foldl (fun a n => a ||| (lane n).2) (0 : Flags)
      let s := s.putSram home (64 * row) (List.replicate 64 0)
      let s := s.reserve e o x .none 8 false
      .done (s.modMat e.site.tile (fun m => { m with dp := (m.dp + 1) % pRows p })) f)

/-- MDRAIN and MDRAIN.D (R336). -/
def execMdrain (t : Trig) (o : Fin 4) (drop : Bool) (s : State) : Host.Outcome State Fault Refusal :=
  drainRow (.mdrain t o drop) o drop (fun _ => none) s

/-- MDRAIN.R and MDRAIN.RD (R336). -/
def execMdrainR (t : Trig) (o : Fin 4) (peek : Bool) (q : Fin 4) (drop : Bool) (s : State) : Host.Outcome State Fault Refusal :=
  drainRow (.mdrainR t o peek q drop) o drop (fun e => some (e.head q).vec) s

/-- MZERO: the home tile clears 4 rows per cycle (R337). -/
def execMzero (t : Trig) (s : State) : Host.Outcome State Fault Refusal :=
  fire (.mzero t) s (fun e s =>
    match e.elem.mat.panel with
    | none => .fault formatFault
    | some _ =>
      let due := s.after 1
      .done ((s.modMat e.site.tile (fun m => { m with zb := true, zdue := due, zdone := 0, rp := 0, dp := 0 })).tick) 0)

/-! ## Events -/

/-- The reserved slot of a result takes its token. -/
def State.fillSlot (s : State) (tile : Nat) (o : MatOut) : State :=
  (s.modTile tile (fun t => t.setOp o.q ((t.op.get o.q).map (fun x =>
    if x = .reserved o.id then .full o.tok none s.cycle else x)))).modMat tile (fun m => { m with outs := m.outs.filter (fun x => x.id != o.id) })

/-- A result of the matrix unit. -/
def State.matOut? (s : State) (tile id : Nat) : Option MatOut :=
  match s.elem? tile with
  | none => none
  | some e => e.mat.outs.find? (fun o => o.id == id)

/-- A matrix result enters the port when it is due. -/
def enterResult (tile id : Nat) (isRow : Bool) (s : State) : State :=
  match s.matOut? tile id with
  | some o => if o.isRow == isRow && decide (o.due ≤ s.cycle) then s.fillSlot tile o else s
  | none => s

/-- MROW_RESULT: 40 cycles after the pick (R334). -/
def execMrowResult (tile id : Nat) (s : State) : Host.Outcome State Fault Refusal := .next (enterResult tile id true s)

/-- MDRAIN_RESULT: 8 cycles after the pick (R336). -/
def execMdrainResult (tile id : Nat) (s : State) : Host.Outcome State Fault Refusal := .next (enterResult tile id false s)

/-- MROW_REPLAY_RESULT: the replayed firing's token enters the port 96 cycles after the pick, or a second residue failure is
uncorrectable: a MachineCheck of source 4 (R267, R334). -/
def execMrowReplayResult (tile id : Nat) (ok : Bool) (s : State) : Host.Outcome State Fault Refusal :=
  match s.matOut? tile id, s.tile? tile with
  | some o, some t =>
    if s.cycle < o.due + 56 then
      .next ((s.modMat tile (fun m => { m with outs := mapIf (fun x => x.id == id) (fun x => { x with replayed := true }) m.outs })).at (o.due + 56)
        (.mrowReplayResult tile id ok))
    else if ok then .next (s.fillSlot tile o)
    else
      let s := s.modTile tile (fun t => t.setOp o.q ((t.op.get o.q).filter (fun x => x != .reserved o.id)))
      let s := s.modMat tile (fun m => { m with outs := m.outs.filter (fun x => x.id != o.id) })
      .next (s.first (.ev (.machineCheck 4 tile t.region)))
  | _, _ => .next s

/-- MZERO_COMPLETE: the home tile clears the next 4 rows of the panel; after the last it acknowledges, and ZB clears (R337). -/
def execMzeroComplete (tile : Nat) (s : State) : Host.Outcome State Fault Refusal :=
  match s.elem? tile with
  | none => .next s
  | some e =>
    match e.mat.panel with
    | none => .next s
    | some p =>
      let n := min 4 (pRows p - e.mat.zdone)
      if !e.mat.zb || decide (s.cycle < e.mat.zdue) then .next s
      else if n = 0 then .next (s.modMat tile (fun m => { m with zb := false }))
      else
        let last : Bool := decide (pRows p ≤ e.mat.zdone + 4)
        let due := if last then s.after 1 else s.cycle + 1
        let s := (s.putSram (homeTile tile) (64 * (pCbase p + e.mat.zdone)) (List.replicate (64 * n) 0)).modMat tile (fun m => { m with zdone := m.zdone + n, zdue := due })
        .next (if last then s.tick else s)

/-- MGATH_ROW_ARRIVE: the next row is read at its tile, when its request has come there by the request path and the row's banks are free (R8, R126); then,
after the way back, it arrives, no sooner than 2 cycles after the one before (R333). -/
def execMgathRowArrive (tile : Nat) (s : State) : Host.Outcome State Fault Refusal :=
  match s.tile? tile, s.elem? tile with
  | some t, some e =>
    match s.region? t.region, e.mat.gaddr[e.mat.garrived]? with
    | some r, some a =>
      match r.localTile t.leaf a with
      | none => .next s
      | some mt =>
        if s.cycle < e.mat.gdue then .next s
        else
          match e.mat.gheld with
          | none =>
            let n := gatherSize e.mat.gfmt
            let bs := banksOf (a % 2 ^ 19) n
            if s.olderOnPath tile e.mat.gid mt || !s.banksFree mt bs then .next s
            else
              let row : BitVec 1280 := BitVec.ofNat 1280 (leNat (s.sramBytes mt (a % 2 ^ 19) n))
              .next ((s.useBanks mt bs).modMat tile (fun m => { m with gheld := some row, gdue := s.cycle + transit tile mt }))
          | some row =>
            let tr := gatherTransit r t.leaf tile (e.mat.gaddr.drop (e.mat.garrived + 1))
            let due := s.after (max (s.cycle + 2) (e.mat.gfired + 2 * tr) - tr - s.cycle)
            .next ((s.modMat tile (fun m => { m with gather := Vector.upd m.gather m.garrived row, garrived := m.garrived + 1, gheld := none, gdue := due })).tick)
    | _, _ => .next s
  | _, _ => .next s

/-- The acknowledgement of an accumulate token reaches its sender within 4 cycles (R335). -/
def State.ackAcc (s : State) (sender : Nat) : State :=
  let due := s.within 3 + 1
  (s.modMat sender (fun m => { m with acks := m.acks ++ [due] })).tick

/-- ACC_ACK: OUT falls by one (R335). -/
def execAccAck (tile : Nat) (s : State) : Host.Outcome State Fault Refusal :=
  match s.elem? tile with
  | none => .next s
  | some e =>
    match takeFirst (fun d => decide (d ≤ s.cycle)) e.mat.acks with
    | none => .next s
    | some (_, rest) => .next (s.modMat tile (fun m => { m with acks := rest, out := m.out - 1 }))

/-- One column of an accumulate: one rounding to FP32 with R105's flush (R110, R335). -/
def accLane (c : Nat) (x : Lane) : Nat × Flags :=
  let sum := Num.add (fp32.unpack c) (unpack x)
  let r := rneFp32 sum.1
  (fp32.pack r.1, r.2 ||| Flags.when sum.2 NV)

/-- A memory tile's queue stops with a fault that carries SRC 1 (R209, R335). -/
def State.stopQueue (s : State) (tile : Nat) (q : Fin 4) (f : FaultInfo) : State :=
  match s.tile? tile with
  | none => s
  | some t =>
    (s.modMem tile (fun m => { m with qStop := m.qStop ||| (1 <<< q.val) })).raiseFault t.region t.leaf tile q.val 0 true f none

/-- ACC_TOKEN_ADD (R335). A token that reaches a tile in another mode, or a row that does not exist, is dropped and stops the queue. -/
def execAccTokenAdd (tile : Nat) (q : Fin 4) (s : State) : Host.Outcome State Fault Refusal :=
  match s.tile? tile with
  | none => .next s
  | some t =>
    match t.head q, t.mem with
    | some k, some m =>
      match k.side with
      | .acc row sender =>
        let s1 := (s.sinkLog t.region k false).dequeue tile q
        if m.mode == 3 && decide (row < 8192) then
          if !s.banksFree tile (banksOf (64 * row) 64) then .next s else
          let s1 := s1.useBanks tile (banksOf (64 * row) 64)
          let lane (n : Nat) : Nat × Flags := accLane (s.cElem tile row n) (k.pay.vec.lane n)
          let s2 := s1.putSram tile (64 * row) ((List.range 16).flatMap (fun n => leBytes 4 (lane n).1))
          let f := (List.range 16).foldl (fun a n => a ||| (lane n).2) (0 : Flags)
          .next ((s2.modRegion t.region (fun r => { r with setNow := r.setNow ||| f })).ackAcc sender)
        else .next (s1.stopQueue tile q formatFault)
      | .none | .row _ _ | .ins _ | .xreq _ _ => .next s
    | _, _ => .next s

end Sys2Proof.Machine
end

