-- ==== Sys2Proof/Machine/Nickel.lean ====
section
/-!
DEFINITION. The Nickel core and the drives (R137 to R140, R241, R242), the drain limit, and watchpoint records (R264, R265).
-/
namespace Sys2Proof.Machine

/-! ## Pages -/

/-- The key of a byte of a drive. -/
def flashKey (drive b : Nat) : Nat := drive * 2 ^ 60 + b

/-- The bytes [a, a + n) of one memory at [b, b + n) of another, which takes nothing else there. -/
def copyRange (src dst : SMap Byte) (a b n : Nat) : SMap Byte :=
  (SMap.range src a (a + n)).foldl (fun m (k, x) => SMap.write 0 m (k - a + b) x) (SMap.clear dst b (b + n))

/-- The dirty sectors of a page written back, and its lines gone from every port cache of the package. -/
def State.flushPage (s : State) (k : Nat) : State :=
  let s := (List.range 4).foldl (fun (s : State) d => s.writeBack d (rngOf k 32768)) s
  { s with lines := s.lines.filter (fun e => !lineMeets e.1 (rngOf k 32768)) }

/-- A page of an uncommitted ordered task stays where it is: its lines are pending (R134). -/
def State.pagePending (s : State) (k : Nat) : Bool := s.pend.any (fun p => decide (k / 64 ≤ p.sec) && decide (p.sec < k / 64 + 512))

/-- The upper part of a page's block address (R137). -/
def State.lbaHigh (s : State) (tableBase page pages : Nat) : Nat := s.homeWord (tableBase + 8 * pages + 4 * page) 4

/-- The page table that holds an entry, among those of the regions' ranges: its base, the page's number, the number of pages. -/
def State.tableOf (s : State) (pte : Nat) : Option (Nat × Nat × Nat) :=
  s.regions.findSome? (fun (_, r) => r.ports.findSome? (fun (_, es) => es.findSome? (fun e =>
    let tb := e.keyAt 0
    if e.paged && decide (tb ≤ pte) && decide (pte < tb + 16 * e.size) then some (tb, (pte - tb) / 8, 2 * e.size) else none)))

/-- A region still waits for a page: its address is not yet translated. -/
def State.stillAbsent (s : State) (r : Region) (va : Nat) : Bool := s.pageAbsent ((r.ports.map Prod.snd).flatten) va

/-- Regions that waited for a page that is now resident can be placed again (R139). -/
def State.wakePages (s : State) : State :=
  { s with regions := s.regions.map (fun (n, r) =>
      match r.pageWait with
      | some va => if s.stillAbsent r va then (n, r) else (n, { r with pageWait := none })
      | none => (n, r)) }

/-- PAGE_FETCH_COMPLETE (R138): the Nickel core copies the page from its drive to a frame of its choice and sets PRESENT and FRAME. -/
def execPageFetchComplete (f : Nat) (s : State) : Host.Outcome State Fault Refusal :=
  match s.fetches.find? (fun x => x.id == f) with
  | none => .next s
  | some x =>
    let e := s.homeWord x.pte 8
    let s : State := { s with fetches := s.fetches.filter (fun y => y.id != f) }
    if bit e 0 || !bit e 1 then .next s.wakePages
    else
      let block := bits e 63 50 + 2 ^ 14 * s.lbaHigh x.tableBase x.page x.pages
      let frame := Config.frame s.freeCtr % 2 ^ 35
      let s := s.tick.flushPage (domKey (frame * 32768))
      let s : State := { s with hbm := copyRange s.flash s.hbm (flashKey (bits e 4 3) (block * 4096)) (domKey (frame * 32768)) 32768 }
      .next ((s.putPte x.pte (setBits (setBits (setBits e 0 0 1) 2 2 0) 49 15 frame)).watchSys (domKey (frame * 32768)) 32768 1).wakePages

/-- PAGE_EVICT (R137): a resident page becomes non-resident; if it is dirty, or has no copy, it is first written to the drive. -/
def execPageEvict (pte : Nat) (bdrive : Fin 4) (lba : Nat) (s : State) : Host.Outcome State Fault Refusal :=
  let e := s.homeWord pte 8
  let k := pteKey e
  if !bit e 0 || s.pagePending k then .next s
  else
    let s := s.flushPage k
    if bit e 2 || !bit e 1 then
      let s : State := { s.watchSys k 32768 0 with flash := copyRange s.hbm s.flash k (flashKey bdrive.val (lba * 4096)) 32768 }
      let s := match s.tableOf pte with
        | some (tb, page, pages) => s.putWatched (tb + 8 * pages + 4 * page) (leBytes 4 (lba / 2 ^ 14))
        | none => s
      .next (s.putPte pte (setBits (setBits (setBits (setBits (setBits e 63 50 (lba % 2 ^ 14)) 4 3 bdrive.val) 2 2 0) 1 1 1) 0 0 0))
    else .next (s.putPte pte (setBits e 0 0 0))

/-- What a page's words and sectors are keyed by, after the page has moved: pending versions, release records, replicas, atomics on their way to the
home and those that a task has buffered (R242). -/
def State.movePage (s : State) (old new : Nat) : State :=
  let inside (a : Nat) : Bool := decide (old ≤ a) && decide (a < old + 32768)
  let recs := s.relRecs.filter (fun e => inside e.1)
  let to' (a : Nat) : Nat := if inside a then a - old + new else a
  { s with
    hbm := copyRange s.hbm s.hbm old new 32768
    reqs := s.reqs.map (fun q => { q with pa := q.pa.map to' })
    tasks := s.tasks.map (fun t => { t with atomics := t.atomics.map (fun (k, x) => (to' k, x)), rels := t.rels.map (fun (k, x) => (to' k, x)) })
    pend := mapIf (fun p => inside (p.sec * 64)) (fun p => { p with sec := p.sec - old / 64 + new / 64 }) s.pend
    relRecs := recs.foldl (fun m (k, x) => SMap.put m (k - old + new) x) (s.relRecs.filter (fun e => !inside e.1))
    replicas := s.replicas.filter (fun e => !inside (e.1 % 2 ^ 56)) }

/-- Where the migration record of a page lies (R241): at PBASE + 12 * pages + 8j. -/
def State.migRecord (s : State) (pte : Nat) : Option Nat := (s.tableOf pte).map (fun (tb, j, pages) => tb + 12 * pages + 8 * j)

/-- The memory of another package of the domain than the one that holds the page (R241). -/
def movesTo (page : Nat) (pkg : Nat) : Bool := pkg != keyPkg page && (pkg == Config.ownPackage || (decide (pkg < Config.domainPackages) && pkg != hostPkg && pkg != ioPkg))

/-- PAGE_MIGRATE (R241, R242): the page of an entry moves to a frame of another package's memory if its migration record permits it. -/
def execPageMigrate (pte mig dest : Nat) (s : State) : Host.Outcome State Fault Refusal :=
  let e := s.homeWord pte 8
  let m := s.homeWord mig 8
  let fresh := bits m 45 14 != s.epoch.toNat
  if s.migRecord pte != some mig || !movesTo (pteKey e) (dest % 2 ^ 35 / 2 ^ 25) || !bit e 0 || !bit m 13 || (bit m 12 && !fresh) then .next s
  else
    let moves := (if fresh then 0 else bits m 11 10) + 1
    let m := setBits (setBits (setBits (setBits m 45 14 s.epoch.toNat) 11 10 (min moves 3)) 12 12 (if 3 ≤ moves then 1 else 0)) 9 0 (dest % 2 ^ 35 / 2 ^ 25)
    let old := pteKey e
    let new := domKey (dest % 2 ^ 35 * 32768)
    let s := ((s.flushPage old).flushPage new).movePage old new
    let s := (s.pend.filter (fun p => decide (new / 64 ≤ p.sec) && decide (p.sec < new / 64 + 512))).foldl (fun (s : State) p => s.hold p.die (p.sec / 4)) s
    .next ((((s.watchSys old 32768 0).watchSys new 32768 1).putPte pte (setBits e 49 15 dest)).putWatched mig (leBytes 8 m))

/-! ## The drain limit and failed fetches (R138 to R140) -/

/-- What a region still withholds, the page being absent: the time and the address, oldest first. -/
def State.withheldOf (s : State) (r : Region) : List (Nat × Nat) :=
  let gens := (r.tilesOf s).flatMap (fun (_, t) => match t.mem with | none => [] | some m => m.gens.toList.filterMap Gen.withheld)
  let reqs := (s.reqs.filter (fun q => q.region == r.num)).filterMap Req.withheld
  let xs := (s.transfers.filter (fun x => x.region == r.num)).filterMap Transfer.withheld
  sortBy (fun a b => decide (a.1 < b.1)) ((gens ++ reqs ++ xs).filter (fun x => s.stillAbsent r x.2))

/-- The drain limit in units of the reference timer, which does not follow the fabric clock (R138, R266). -/
def State.drainTime (s : State) : Nat := micros s.regs.drainLimit.toNat

/-- DRAIN_LIMIT_EXPIRY (R139): a region whose oldest withheld token has waited for the drain limit is drained as pre-emption drains it. -/
def execDrainLimitExpiry (region : Nat) (s : State) : Host.Outcome State Fault Refusal :=
  match s.region? region with
  | none => .next s
  | some r =>
    match s.withheldOf r with
    | [] => .next s
    | (c, va) :: _ =>
      if r.phase == .armed && decide (c + s.drainTime ≤ s.time) then .next ((s.haltRegion region).modRegion region (fun x => { x with pageWait := some va }))
      else .next s

/-- A fetch fails: every region that waits for the page is killed with DrainTimeout (R140). -/
def State.failFetch (s : State) (f : Fetch) : State :=
  let s : State := { s with fetches := s.fetches.filter (fun y => y.id != f.id) }
  let waits (r : Region) : Option Nat :=
    (((s.withheldOf r).map Prod.snd ++ r.pageWait.toList).find? (fun va => s.absentPage ((r.ports.map Prod.snd).flatten) va == some f.pte)).or (if r.num = f.region then some f.va else none)
  s.regions.foldl (fun (s : State) (n, r) =>
    match waits r with
    | some va => let fi : FaultInfo := ⟨kDrain, 0, BitVec.ofNat 64 va⟩; s.stopRegion n fi (faultWord fi 0 0 0 0 false 0)
    | none => s) s

/-- FLASH_FETCH_ERROR (R140). -/
def execFlashFetchError (f : Nat) (s : State) : Host.Outcome State Fault Refusal :=
  match s.fetches.find? (fun x => x.id == f) with
  | none => .next s
  | some x => .next (s.failFetch x)

/-- FLASH_FETCH_TIMEOUT (R140): one second has passed. -/
def execFlashFetchTimeout (f : Nat) (s : State) : Host.Outcome State Fault Refusal :=
  match s.fetches.find? (fun x => x.id == f) with
  | none => .next s
  | some x => if x.since + micros 1000000 ≤ s.time then .next (s.failFetch x) else .next s

/-! ## Watchpoints (R265) -/

/-- WATCHPOINT_RECORD: a record of KIND 3 enters the ring; it is of no region (R261, R265). -/
def execWatchpointRecord (wp : Fin 4) (cls : BitVec 4) (die : Fin 4) (kind : BitVec 2) (sec : Nat) (s : State) : Host.Outcome State Fault Refusal :=
  .next (s.traceRecord (3 + 0xFFF * 2 ^ 4 + wp.val * 2 ^ 40 + cls.toNat * 2 ^ 44 + die.val * 2 ^ 48 + kind.toNat * 2 ^ 50 + keyDom (sec * 64) * 2 ^ 64
    + s.cycle % 2 ^ 64 * 2 ^ 128))

end Sys2Proof.Machine
end

