-- ==== Sys2Proof/Machine/Solder.lean ====
section
/-!
DEFINITION. The plan instructions and the Solder units that serve them (R51 to R62, R270, R344 to R354).
-/
namespace Sys2Proof.Machine

/-! ## The firings -/

/-- The instructions that the Solder unit serves. -/
def isPlanOp (i : Instr) : Bool :=
  match i with
  | .pfrag _ _ _ | .pseq _ _ _ _ | .povl _ _ _ _ | .ppipe _ _ _ _ | .pnest _ _ _ _ | .prep _ _ _ _ | .piface _ _ _ | .pcost _ _ _
  | .plaunch _ _ _ _ | .plaunchC _ _ _ _ | .pfree _ _ _ => true
  | _ => false

/-- When a request of an element reaches the Solder unit: after those that the element has sent before, so that the replies reach a queue in the order of
service and in the order of issue (R156, R270). -/
def State.planArrival (s : State) (tile : Nat) : Nat :=
  (s.reqs.filter (fun r => isPlanOp r.op && r.st == .sent && r.tile == tile)).foldl (fun c r => max c (r.due + 1)) (s.after 1)

/-- A plan instruction sends one request to the Solder unit of its die (R53). -/
def sendPlan (i : Instr) (x y z : Env → Word) (s : State) : Host.Outcome State Fault Refusal :=
  fire i s (fun e s => .done (s.issue e i (x e) (y e) (z e) (.s 0) (s.planArrival e.site.tile)).tick 0)

/-- PFRAG (R346). -/
def execPfrag (t : Trig) (q : Fin 4) (a : SSrc) (s : State) : Host.Outcome State Fault Refusal :=
  sendPlan (.pfrag t q a) (fun e => e.s a) (fun _ => 0) (fun _ => 0) s
/-- PSEQ (R353). -/
def execPseq (t : Trig) (q : Fin 4) (a b : SSrc) (s : State) : Host.Outcome State Fault Refusal :=
  sendPlan (.pseq t q a b) (fun e => e.s a) (fun e => e.s b) (fun _ => 0) s
/-- POVL (R353). -/
def execPovl (t : Trig) (q : Fin 4) (a b : SSrc) (s : State) : Host.Outcome State Fault Refusal :=
  sendPlan (.povl t q a b) (fun e => e.s a) (fun e => e.s b) (fun _ => 0) s
/-- PPIPE (R353): the joint word is the third operand. -/
def execPpipe (t : Trig) (q : Fin 4) (n : Fin 8) (b : SSrc) (s : State) : Host.Outcome State Fault Refusal :=
  sendPlan (.ppipe t q n b) (fun e => (e.pair n).1) (fun e => e.s b) (fun e => (e.pair n).2) s
/-- PNEST (R353): the hole number is the third operand. -/
def execPnest (t : Trig) (q : Fin 4) (n : Fin 8) (b : SSrc) (s : State) : Host.Outcome State Fault Refusal :=
  sendPlan (.pnest t q n b) (fun e => (e.pair n).1) (fun e => e.s b) (fun e => (e.pair n).2) s
/-- PREP (R353): the parameter word is the third operand. -/
def execPrep (t : Trig) (q : Fin 4) (a b : SSrc) (s : State) : Host.Outcome State Fault Refusal :=
  sendPlan (.prep t q a b) (fun e => e.s a) (fun e => e.s a) (fun e => e.s b) s
/-- PIFACE (R349). -/
def execPiface (t : Trig) (q : Fin 4) (n : Fin 8) (s : State) : Host.Outcome State Fault Refusal :=
  sendPlan (.piface t q n) (fun e => (e.pair n).1) (fun e => (e.pair n).2) (fun _ => 0) s
/-- PCOST (R345). -/
def execPcost (t : Trig) (q : Fin 4) (a : SSrc) (s : State) : Host.Outcome State Fault Refusal :=
  sendPlan (.pcost t q a) (fun e => e.s a) (fun _ => 0) (fun _ => 0) s
/-- PLAUNCH (R350). -/
def execPlaunch (t : Trig) (q : Fin 4) (a b : SSrc) (s : State) : Host.Outcome State Fault Refusal :=
  sendPlan (.plaunch t q a b) (fun e => e.s a) (fun e => e.s b) (fun _ => 0) s
/-- PLAUNCH.C (R350). -/
def execPlaunchC (t : Trig) (q : Fin 4) (a b : SSrc) (s : State) : Host.Outcome State Fault Refusal :=
  sendPlan (.plaunchC t q a b) (fun e => e.s a) (fun e => e.s b) (fun _ => 0) s
/-- PFREE (R348). -/
def execPfree (t : Trig) (r : RDst) (a : SSrc) (s : State) : Host.Outcome State Fault Refusal :=
  sendPlan (.pfree t r a) (fun e => e.s a) (fun _ => 0) (fun _ => 0) s

/-! ## Service (R53, R354) -/

/-- The order of service: arrival, then the issuer's fy, fx and context (R53); of two requests that are alike in all of these, in different regions, the
one issued first (log 93). -/
def State.planKey (s : State) (r : Req) : Nat × Nat :=
  let (fx, fy) := match s.region? r.region with | some g => g.rel r.leaf r.tile | none => (0, 0)
  (r.due, ((fy * 64 + fx) * 4 + r.ctx.val))

/-- The next request of a die's Solder unit. -/
def State.nextPlan (s : State) (die : Nat) : Option Req :=
  (sortBy (fun a b => keyLt (s.planKey a) (s.planKey b))
    (s.reqs.filter (fun r => isPlanOp r.op && r.st == .sent && decide (r.due ≤ s.cycle) && tileDie r.tile == die))).head?

/-- The unit is busy for so many cycles, and the request is answered then. -/
def State.planReply (s : State) (r : Req) (die cycles : Nat) (w : Word) (fault : Bool) : State :=
  let s : State := { s with solderBusy := Vector.upd (n := 3) s.solderBusy die (s.cycle + cycles) }
  match r.q with
  | none => s.dropReq r.id
  | some _ => s.modReq r.id (fun x => { x with st := .done (Reply.mk (.s w) fault none x.arcs), due := s.cycle + cycles })

/-- The unit is busy for so many cycles, and a fault of R209 is the reply. -/
def State.planFault (s : State) (r : Req) (die cycles : Nat) (f : FaultInfo) : State :=
  State.failReq { s with solderBusy := Vector.upd (n := 3) s.solderBusy die (s.cycle + cycles) } r f (s.cycle + cycles)

/-- The form of a composition with its operand word checked (R354). -/
def formOf (i : Instr) (w : Word) : Option (Except Mis Form × Nat × Nat) :=
  let n := w.toNat
  match i with
  | .pseq _ _ _ _ => some (.ok .pseq, 0, 0)
  | .povl _ _ _ _ => some (.ok .povl, 1, 0)
  | .ppipe _ _ _ _ =>
    let pa := bits n 4 0
    let pb := bits n 12 8
    some (if n = pa + pb * 256 then .ok (.ppipe pa pb) else .error ⟨0, pa, pb, 0⟩, 2, 0)
  | .pnest _ _ _ _ => some (if 1 ≤ n ∧ n ≤ 3 then .ok (.pnest n) else .error ⟨17, 0, 0, 0⟩, 3, n % 4)
  | .prep _ _ _ _ =>
    let c := bits n 5 0
    let m := bits n 10 8
    some (if n = c + m * 256 then .ok (.prep c m) else .error ⟨16, 0, 0, 0⟩, 4, 0)
  | _ => none

/-- A composition served. -/
def serveCompose (s : State) (r : Req) (die : Nat) (f : Except Mis Form) (code hole : Nat) : State :=
  match s.planOf r.x, s.planOf r.y with
  | none, _ => s.planFault r die 20 (badHandle r.x)
  | some _, none => s.planFault r die 20 (badHandle r.y)
  | some (ia, _, a), some (ib, _, b) =>
    match f with
    | .error m => s.planReply r die 20 (misWord code hole m) true
    | .ok form =>
      match compose form a b with
      | .error m => s.planReply r die (20 + 2 * m.joints) (misWord code hole m) true
      | .ok (p, j) =>
        let kids := if code = 4 then [ia] else [ia, ib]
        match s.newPlan p kids (s.orderedTask r.task) none with
        | none => s.planFault r die (20 + 2 * j) ⟨kTableFull, 0, 0⟩
        | some (i, s) =>
          match SMap.find? s.plans i with
          | none => s
          | some e => s.planReply r die (20 + 2 * j) (e.handle i) false

/-- PFREE served (R344, R348). -/
def servePfree (s : State) (r : Req) (die : Nat) : State :=
  match s.planOf r.x with
  | none => s.planFault r die 20 (badHandle r.x)
  | some (i, e, _) =>
    if e.lib.isSome || bit r.x.toNat 32 then s.planReply r die 20 0 false
    else
      match s.orderedTask r.task with
      | some t => (s.modTask t (fun x => { x with frees := x.frees ++ [i] })).planReply r die 20 1 false
      | none =>
        let (s, objs) := s.freePlan i
        (objs.foldl State.releaseObj s).planReply r die 20 1 false

/-- PFRAG served (R346). -/
def servePfrag (s : State) (r : Req) (die : Nat) : State :=
  let cycles := 32 + Config.latency s.freeCtr % 609
  let s := s.tick
  match if r.x.toNat = 0 ∨ 2 ^ 32 ≤ r.x.toNat then none else SMap.find? s.library r.x.toNat with
  | none => s.planFault r die cycles (badHandle r.x)
  | some i =>
    match SMap.find? s.plans i with
    | none => s.planFault r die cycles (badHandle r.x)
    | some e => s.planReply r die cycles (e.handle i) false

/-- PIFACE served (R349). -/
def servePiface (s : State) (r : Req) (die : Nat) : State :=
  match s.planOf r.x with
  | none => s.planFault r die 20 (badHandle r.x)
  | some (_, _, p) =>
    match p.word r.y.toNat with
    | none => s.planFault r die 20 ⟨kFormat, 0, 0⟩
    | some w => s.planReply r die 20 (BitVec.ofNat 64 w) false

/-- The launch of a request: it takes its place behind the launches that wait, as though it had come from the queue of the launching task
(R351). -/
def State.addLaunch (s : State) (queue : Nat) (pkt req parent : Option Nat) (plan : PlanRef) (hdr : LHeader) (sig : List (Word × Nat × Nat × Nat)) : State :=
  let l : Launch := {
    id := s.nextId, queue := queue, pkt := pkt, req := req, task := 0, plan := plan, hdr := hdr, parent := parent, since := s.cycle
    due := s.after 1, reserved := false, region := none, sig := sig }
  let s := match plan with | .entry i => s.modPlan i (fun e => { e with refs := e.refs + 1 }) | .image _ => s
  (State.fresh { s with launches := s.launches ++ [l] }).tick

/-- PLAUNCH served (R270, R350): its header is the launching task's own, or is read as a scalar LDG reads. -/
def servePlaunch (s : State) (r : Req) (die : Nat) (child : Bool) : State :=
  match s.region? r.region with
  | none => s
  | some g =>
    let cycles := 1 + Config.latency s.freeCtr
    let s1 := s.tick
    let go (s : State) (i : Nat) (h : LHeader × Option Illegal) : State :=
      let s : State := { s with solderBusy := Vector.upd (n := 3) s.solderBusy die (s.cycle + cycles) }
      let s := s.modReq r.id (fun x => { x with st := .waiting, withheld := none })
      let s := s.addLaunch g.queue none (some r.id) (if child then some g.num else none) (.entry i) h.1 []
      match h.2, s.launches.getLast? with
      | some w, some l => s.launchFail l kConfig w.d0 w.d1
      | _, _ => s
    match s1.planOf r.x with
    | none => s1.planFault r die cycles (badHandle r.x)
    | some (i, _, _) =>
      if r.y = 0 then go s1 i (g.hdr, none)
      else if r.y.toNat % 64 != 0 then s1.planFault r die cycles ⟨kProt, 3, r.y⟩
      else
        match s1.pieces none (g.entries (rowPort r.tile) 0) r.y.toNat 128 8 .rd with
        | .error (.fault f, _) => s1.planFault r die cycles f
        | .error (.absent pte tb page pages, va) =>
          (s.modReq r.id (fun x => { x with withheld := keptSince x.withheld s.time va })).fetchPage r.region va pte tb page pages
        | .error (.ok _ _, _) | .error (.walk _, _) => s
        | .ok ps =>
          let (s2, bs) := ps.foldl (fun (a : State × List Byte) (k, n, _) =>
            let (s, bs) := a.1.readAccess r.region die (a.1.orderedTask r.task) k n 0
            (s.modRegion r.region (fun x => x.widen die (s.homePort die k) false (rngOf k n)), a.2 ++ bs)) (s1, [])
          go s2 i (s2.parseHeader (leNat bs))

/-- SOLDER_SERVE: the unit of a die, if it is free, serves its next request (R53). -/
def execSolderServe (die : Fin 4) (s : State) : Host.Outcome State Fault Refusal :=
  if s.cycle < s.solderBusy.get die then .next s
  else
    match s.nextPlan die.val with
    | none => .next s
    | some r =>
      match r.op with
      | .pfrag _ _ _ => .next (servePfrag s r die.val)
      | .pcost _ _ _ =>
        match s.planOf r.x with
        | none => .next (s.planFault r die.val 20 (badHandle r.x))
        | some (_, _, p) => .next (s.planReply r die.val 20 p.cost false)
      | .piface _ _ _ => .next (servePiface s r die.val)
      | .pfree _ _ _ => .next (servePfree s r die.val)
      | .plaunch _ _ _ _ => .next (servePlaunch s r die.val false)
      | .plaunchC _ _ _ _ => .next (servePlaunch s r die.val true)
      | i =>
        match formOf i r.z with
        | some (f, code, hole) => .next (serveCompose s r die.val f code hole)
        | none => .next s

end Sys2Proof.Machine
end

