-- ==== Sys2Proof/Machine/Index.lean ====
section
/-!
DEFINITION. What every address generator does (R122, R128 to R131, R138): its index tuple and its elements' addresses, its reads and writes
of the tile's SRAM or of global memory, conversions, its tokens, and its end.
-/
namespace Sys2Proof.Machine

/-! ## The index tuple (R129, R130) -/

/-- A coordinate mirrored once (R130). -/
def mirror (u : Int) (ext : Nat) (rep : Bool) : Int :=
  let k : Int := if rep then 1 else 0
  if ext = 0 then u else if u < 0 then -u - k else if (ext : Int) ≤ u then 2 * (ext : Int) - 2 + k - u else u

/-- The coordinate of dimension d at a tuple. -/
def coordAt (w : BitVec 512) (t : List Nat) (d : Nat) : Int := mirror ((t.getD d 0 : Nat) + sOrg w d) (sExt w d) (sRep w)

/-- The element index of a tuple. -/
def elemIndex (w : BitVec 512) (t : List Nat) : Int := (List.range (sNdim w + 1)).foldl (fun a d => a + coordAt w t d * sStride w d) 0

/-- A record with a used COUNT of 0: an empty stream. -/
def emptyStream (w : BitVec 512) : Bool := (List.range (sNdim w + 1)).any (fun d => sCount w d == 0)

/-- The tuple advanced from dimension d on, and whether the last dimension has run out. -/
def carry (w : BitVec 512) : Nat → Nat → List Nat → List Nat × Bool
  | 0, _, t => (t, true)
  | k + 1, d, t => if t.getD d 0 + 1 < sCount w d then (modifyAt t d (· + 1), false) else carry w k (d + 1) (modifyAt t d (fun _ => 0))

/-- The tuple after `n` iterations of dimension 0, whether a run has ended, whether the pass has. -/
def advance (w : BitVec 512) (t : List Nat) (n : Nat) : List Nat × Bool × Bool :=
  if t.getD 0 0 + n < sCount w 0 then (modifyAt t 0 (· + n), false, false)
  else let (t', p) := carry w (sNdim w) 1 (modifyAt t 0 (fun _ => 0)); (t', true, p)

/-- The first tuple of a pass. -/
def tuple0 : List Nat := [0, 0, 0, 0]

/-- The tuples of `n` successive iterations of dimension 0. -/
def tuplesFrom (t : List Nat) (n : Nat) : List (List Nat) := (List.range n).map (fun i => modifyAt t 0 (· + i))

/-- Every tuple of a record. -/
def allTuples (w : BitVec 512) : Nat → List (List Nat)
  | 0 => [tuple0]
  | k + 1 => (allTuples w k).flatMap (fun t => (List.range (sCount w k)).map (fun u => modifyAt t k (fun _ => u)))

/-- The elements of a group that a stream writes (R412). -/
def groupMembers (w : BitVec 512) (grp : Int) : List Int :=
  (((allTuples w (sNdim w + 1)).map (elemIndex w)).filter (fun i => i / 32 == grp)).eraseDups

/-! ## Sizes and places (R129) -/

/-- The bytes of an element; 1 where two share a byte. -/
def fmtSize (f : Nat) : Nat := if f = 0 then 5 else if f = 1 || f = 10 then 4 else if f = 11 then 8 else if f = 2 || f = 3 || f = 9 then 2 else 1

/-- Two elements to a byte: E2M1 and INT4. -/
def isNib (f : Nat) : Bool := f == 6 || f == 8

/-- The byte of element I from the base. -/
def elemByte (f : Nat) (i : Int) : Int := if isNib f then i / 2 else if f = 9 then 2 * (i / 8) else i * (fmtSize f : Nat)

/-- An address generator with all it acts on. -/
structure SEnv where
  tile : Nat
  g : Fin 4
  t : Tile
  m : MTile
  gen : Gen
  w : BitVec 512
  r : Region

/-- The environment of a generator. -/
def State.stream? (s : State) (tile : Nat) (g : Fin 4) : Option SEnv :=
  match s.tile? tile with
  | none => none
  | some t =>
    match t.mem, s.region? t.region with
    | some m, some r => some ⟨tile, g, t, m, m.gens.get g, m.recs.get g, r⟩
    | _, _ => none

/-- KIND. -/
def SEnv.kind (e : SEnv) : Nat := sKind e.w
/-- The bound queue. -/
def SEnv.q (e : SEnv) : Fin 4 := agQueue e.m.ctrl e.g.val
/-- The bound port. -/
def SEnv.o (e : SEnv) : Fin 4 := agPort e.m.ctrl e.g.val
/-- The stream works on the mode area (R122). -/
def SEnv.onMode (e : SEnv) : Bool := (e.kind == 1 || e.kind == 2) && !sDirect e.w
/-- Operand-store mode (R120). -/
def SEnv.operand (e : SEnv) : Bool := e.onMode && e.m.mode == 0
/-- FIFO mode (R121). -/
def SEnv.fifo (e : SEnv) : Bool := e.onMode && e.m.mode == 1
/-- Line-buffer mode (R121). -/
def SEnv.lines (e : SEnv) : Bool := e.onMode && e.m.mode == 2
/-- The stream accesses global memory. -/
def SEnv.glob (e : SEnv) : Bool := e.kind == 3 || e.kind == 4
/-- A stream that stops at retirement (R39). -/
def SEnv.stopsOpen (e : SEnv) : Bool := e.onMode || e.kind == 5 || e.kind == 8
/-- NBUF. -/
def MTile.nbuf (m : MTile) : Nat := bits m.ctrl.toNat 5 3
/-- BUFSZ. -/
def MTile.bufsz (m : MTile) : Nat := bits m.ctrl.toNat 21 6
/-- RED. -/
def MTile.redMode (m : MTile) : Nat := bits m.ctrl.toNat 23 22

/-- The generator's region runs, and the generator is not busy. -/
def SEnv.active (e : SEnv) (s : State) : Bool :=
  (e.r.phase == .armed || (e.r.phase == .retiring && !e.stopsOpen)) && decide (e.gen.busy ≤ s.cycle)

/-- The generator has neither closed nor been stopped. -/
def Gen.open (g : Gen) : Bool := g.st == .running || g.st == .endPass

/-- The generator may act now: its region runs, it is not busy, it has not closed. -/
def SEnv.runs (e : SEnv) (s : State) : Bool := e.active s && e.gen.open

/-- The kind of the bound queue. -/
def SEnv.vecIn (e : SEnv) : Bool := e.t.iqKind.getLsbD e.q.val
/-- The kind of the bound port. -/
def SEnv.vecOut (e : SEnv) : Bool := e.t.opKind.getLsbD e.o.val
/-- The port has a free slot. -/
def SEnv.room (e : SEnv) : Bool := decide (1 ≤ e.t.room e.o)

/-- The lines that a reader may read (R121). -/
def MTile.readable (m : MTile) : Nat := min m.lines (if m.filling then m.nbuf else m.nbuf + 1)

/-- Where a byte counted from the base lies: at BASE, in the buffer of operand-store mode, or in the line of its age; none while the line is
not readable. -/
def SEnv.place (e : SEnv) (b : Int) : Option Int :=
  let size : Nat := e.m.bufsz * 16
  if e.operand then some ((((if e.kind = 1 then e.m.rbuf else e.m.wbuf) * size : Nat) : Int) + b)
  else if e.lines then
    if e.kind = 2 then some (((e.m.lines % (e.m.nbuf + 1) * size : Nat) : Int) + b)
    else
      let age := (b / (size : Int)).toNat
      if age < e.m.readable then some ((((e.m.lines - 1 - age) % (e.m.nbuf + 1) * size : Nat) : Int) + b % (size : Int)) else none
  else if e.onMode then some b
  else some ((sBase e.w : Nat) + b)

/-- The index of the element that a write stream's tuple names: in line-buffer mode a run fills one line, so its place is that of dimension 0
alone. -/
def SEnv.index (e : SEnv) (t : List Nat) : Int := if e.lines && e.kind == 2 then coordAt e.w t 0 * sStride e.w 0 else elemIndex e.w t

/-- The elements of a group that a stream writes, or drains (R412). -/
def SEnv.members (e : SEnv) (grp : Int) : List Int :=
  if e.lines && e.kind == 2 then (((tuplesFrom tuple0 (sCount e.w 0)).map e.index).filter (fun i => i / 32 == grp)).eraseDups else groupMembers e.w grp

/-! ## Reads -/

/-- The outcome of an access: a fault, a wait, or the state after it with what was read. -/
inductive Got (α : Type) where
  | fault (f : FaultInfo)
  | wait (s : State)
  | got (s : State) (x : α)

/-- Adjacent pieces of one access joined. -/
def joinPieces (xs : List (Nat × Nat)) : List (Nat × Nat) :=
  (xs.foldl (fun (acc : List (Nat × Nat)) (k, n) =>
    match acc with
    | (k0, n0) :: rest => if k0 + n0 = k then (k0, n0 + n) :: rest else (k, n) :: acc
    | [] => [(k, n)]) []).reverse

/-- An address outside the tile. -/
def localOut (xs : List (Int × Nat)) : Option FaultInfo :=
  xs.findSome? (fun (a, n) => if a < 0 || decide (((2 ^ 19 : Nat) : Int) < a + n) then some ⟨kProt, 3, BitVec.ofInt 64 a⟩ else none)

/-- The banks of some pieces. -/
def banksOfAll (xs : List (Int × Nat)) : List Nat := (xs.flatMap (fun (a, n) => banksOf a.toNat n)).eraseDups

/-- Elements read from the tile's SRAM, then bytes of its scale plane (R125, R126): FEWAIT and FECLR apply to every granule read. -/
def State.readLocal (s : State) (e : SEnv) (xs plane : List (Int × Nat)) : Got (List Nat) :=
  let all := xs ++ plane
  match localOut all with
  | some f => .fault f
  | none =>
    if !s.banksFree e.tile (banksOfAll all) then .wait s
    else if sWait e.w && !all.all (fun (a, n) => s.allFull e.tile a.toNat n) then .wait s
    else
      let raw := all.map (fun (a, n) => leNat (s.sramBytes e.tile a.toNat n))
      let s := s.useBanks e.tile (banksOfAll all)
      let s := if sWait e.w && sClr e.w then all.foldl (fun (s : State) (a, n) => s.setFulls e.tile a.toNat n false) s else s
      .got s raw

/-- The range of the physical addresses that a stream has read or written (R131). -/
def coverKeys (x : Option Rng) (ps : List (Nat × Nat)) : Option Rng :=
  ps.foldl (fun x (k, n) => some (match x with | none => rngOf k n | some r => r.cover (rngOf k n))) x

/-- The port tile of the generator's stream port (R250). -/
def SEnv.ptile (e : SEnv) : Nat := if e.kind = 8 then colPort e.tile else sPtile e.w

/-- The number of the generator's stream port there. -/
def SEnv.sport (e : SEnv) : Nat := if e.kind = 8 then e.g.val else sSport e.w

/-- The port tile's number in the package. -/
def State.streamTile (s : State) (e : SEnv) : Nat := s.portAt (tileDie e.tile) e.ptile

/-- The generator's name at its stream port. -/
def SEnv.who (e : SEnv) : Nat := e.tile * 4 + e.g.val

/-- The entries of the generator's stream port (R135, R250). -/
def SEnv.entries (e : SEnv) : List RangeEnt := e.r.entries e.ptile e.sport

/-- The stream port can give the generator an access now: its port tile has given none in this cycle, and no page keeps the generator's token (R138,
R145). -/
def SEnv.portReady (e : SEnv) (s : State) : Bool := s.portFree (s.streamTile e) && !e.gen.withheld.any (fun w => s.pageAbsent e.entries w.2)

/-- The port tile gives its access of this cycle to the generator's stream port. -/
def State.useStream (s : State) (e : SEnv) : State := s.usePort (s.streamTile e) (e.sport + 1) (some e.who)

/-- The pieces of some accesses, all of which must be translated. -/
def State.allPieces (s : State) (pt : Nat) (ents : List RangeEnt) (need : Need) : List (Int × Nat) → Except (Trans × Nat) (List (List (Nat × Nat × Option Nat)))
  | [] => .ok []
  | (a, n) :: rest =>
    match s.pieces (some pt) ents (BitVec.ofInt 64 a).toNat n 1 need with
    | .error x => .error x
    | .ok ps =>
      match s.allPieces pt ents need rest with
      | .error x => .error x
      | .ok qs => .ok (ps :: qs)

/-- A token withheld for a page (R138). -/
def State.withhold (s : State) (e : SEnv) (va : Nat) (x : Trans) : State :=
  s.holdAccess (s.streamTile e) e.r.num va x (fun s => s.modGen e.tile e.g (fun x => { x with withheld := keptSince x.withheld s.time va }))

/-- Elements read from global memory (R129, R131, R138). -/
def State.readGlobal (s : State) (e : SEnv) (xs : List (Int × Nat)) : Got (List Nat) :=
  if !e.portReady s then .wait s else
  match s.allPieces (s.streamTile e) e.entries .rd xs with
  | .error (.fault f, _) => .fault f
  | .error (x, a) => .wait (s.withhold e a x)
  | .ok pss =>
    let die := tileDie e.tile
    let task := s.orderedTask e.r.task
    let raw := pss.map (fun ps => leNat (ps.flatMap (fun (k, n, _) => s.seen die task k n)))
    let ps := joinPieces (pss.flatten.map (fun (k, n, _) => (k, n)))
    let s := ps.foldl (fun (s : State) (k, n) => (s.readAccess e.r.num die task k n 0).1) (s.useStream e)
    let s := s.modRegion e.r.num (fun r => r.widenStream (e.ptile * 4 + e.sport) false ps)
    .got (s.modGen e.tile e.g (fun x => { x with rd := coverKeys x.rd ps, withheld := none })) raw

/-- Elements read by a stream, with bytes of its scale plane. -/
def State.readElems (s : State) (e : SEnv) (xs plane : List (Int × Nat)) : Got (List Nat) :=
  if e.glob then s.readGlobal e (xs ++ plane) else s.readLocal e xs plane

/-! ## Conversion (R104, R105, R279) -/

/-- An element decoded for a token: a lane, or for a scalar port 64 bits. -/
def decElem (vec : Bool) (f raw scale : Nat) : Word × Flags :=
  match vec, intFmt f with
  | false, some n => (BitVec.ofInt 64 (BitVec.ofNat n raw).toInt, 0)
  | true, some 64 => ((Config.int64Lane raw).setWidth 64, 0)
  | _, _ => if f = 6 then ((loadMx raw scale).setWidth 64, 0) else let r := loadElem f raw; (r.1.setWidth 64, r.2)

/-- The payload of decoded elements: 16 lanes, those beyond them +0, or one element. -/
def elemPay (vec : Bool) (xs : List Word) : Payload :=
  if vec then .v (Vec.build (fun n => (xs.getD n 0).setWidth 40)) else .s (xs.getD 0 0)

/-- The elements of a token's payload. -/
def payElems (vec : Bool) (p : Payload) (n : Nat) : List Word :=
  if vec then (List.range n).map (fun i => (p.vec.lane i).setWidth 64) else [p.word]

/-- The rounding of one element of a store (R107, R114). -/
def SEnv.rnd (e : SEnv) (draw : Nat) : Rnd := if sSr e.w then .stoch draw else .mode .rne

/-- The draw of the element with index `n` since the stream opened (R114). -/
def SEnv.draw (e : SEnv) (n : BitVec 46) : Nat :=
  let (fx, fy) := e.r.rel e.t.leaf e.tile
  drawStore e.r.hdr.seed n (BitVec.ofNat 6 fx) (BitVec.ofNat 5 fy) (BitVec.ofNat 2 e.g.val)

/-- An element encoded for a store (R105, R279). -/
def encElem (vec : Bool) (f : Nat) (k : Rnd) (x : Word) : Nat × Flags :=
  if !vec && (intFmt f).isSome then storeInt f x else storeElem f k (x.setWidth 40)

/-- A nibble of a byte. -/
def nibOf (b : Nat) (i : Int) : Nat := if i % 2 = 0 then b % 16 else b / 16 % 16
/-- A byte with a nibble written. -/
def putNib (b : Byte) (i : Int) (x : Nat) : Byte := BitVec.ofNat 8 (if i % 2 = 0 then b.toNat / 16 * 16 + x % 16 else b.toNat % 16 + x % 16 * 16)

/-! ## Tokens and the end of a stream -/

/-- A token of a stream with a 64-bit payload, in the kind of a port (R408, R411). -/
def wordTok (vec : Bool) (tag : BitVec 2) (w : Word) (a : Arcs) : Token := { tag := tag, pay := kindPay vec w, arcs := a }

/-- A token sent through the bound port. -/
def State.emit (s : State) (e : SEnv) (k : Token) : State := s.putPort e.tile e.o k

/-- A token taken from the bound queue. -/
def State.takeTok (s : State) (e : SEnv) (k : Token) : State :=
  ((s.sinkLog e.t.region k false).dequeue e.tile e.q).modGen e.tile e.g (fun x => { x with arcs := x.arcs.join k.arcs })

/-- A stream has made its last access; it completes at a cycle (R131). -/
def State.closeStream (s : State) (e : SEnv) (due : Nat) : State := s.modGen e.tile e.g (fun x => { x with st := .finishing due })

/-- STREAM_COMPLETE: the last access of a stream completes, its completion token leaves, its stream port's pair enters the region's log (R131). -/
def execStreamComplete (tile : Nat) (g : Fin 4) (s : State) : Host.Outcome State Fault Refusal :=
  match s.stream? tile g with
  | none => .next s
  | some e =>
    match e.gen.st with
    | .finishing due =>
      let q := sCompPort e.w
      if decide (s.cycle < due) || (sComp e.w && decide (e.t.room q < 1)) then .next s
      else
        let arcs := e.gen.arcs.join { writes := e.gen.wr.toList }
        let s := if sComp e.w then s.putPort tile q (wordTok (e.t.opKind.getLsbD q.val) 0 (BitVec.ofNat 64 e.gen.moved) arcs) else s
        let pair (r : Region) (write : Bool) : List Rng := if e.glob && (e.kind == 4) == write then r.streamPair (e.ptile * 4 + e.sport) write else []
        let s := s.modRegion e.r.num (fun r => { r with wlog := addRngs 64 r.wlog (pair r true), rlog := addRngs 64 r.rlog (pair r false) })
        .next (s.modGen tile g (fun x => { x with st := .complete, wr := none, rd := none }))
    | .closed | .running | .endPass | .complete | .stopped => .next s

end Sys2Proof.Machine
end

