-- ==== Sys2Proof/Machine/Streams.lean ====
section
/-!
DEFINITION. The streams that read and write: STREAM_READ_TOKEN (KIND 1, 3 and 9) and STREAM_WRITE_TOKEN (KIND 2 and 4), with the modes of a
memory tile (R119 to R122, R129, R279, R329, R410 to R412).
-/
namespace Sys2Proof.Machine

/-! ## Read streams -/

/-- A data token has been sent: the position moves on, a run is closed with end-of-run if EOR asks for it, and after the last token comes
end-of-pass (R129). -/
def State.sentData (s : State) (e : SEnv) (n sent : Nat) : State :=
  let (t, runEnd, passEnd) := advance e.w e.gen.tuple n
  let run := e.gen.runTokens + sent
  let eor : List Token := if runEnd && sEor e.w then [wordTok e.vecOut 1 (BitVec.ofNat 64 run) e.gen.arcs] else []
  s.modGen e.tile e.g (fun x => { x with
    tuple := if passEnd then tuple0 else t
    moved := x.moved + n
    runTokens := if runEnd then 0 else run
    pendTok := if e.kind = 3 then x.pendTok else x.pendTok ++ eor
    flying := if e.kind = 3 then x.flying ++ eor.map (fun k => (k, 0)) else x.flying
    st := if passEnd then .endPass else x.st })

/-- The scale plane's byte of the group of element I (R129). -/
def SEnv.scaleAt (e : SEnv) (i : Int) : Int := (e.place 0).getD 0 + (sScale e.w : Nat) + i / 32

/-- The token of a read: a tile read's enters the bound port, a global load's is on its way from the port tile for a free time (log 4, 110). -/
def State.sendRead (s : State) (e : SEnv) (k : Token) : State :=
  if e.kind = 3 then s.tick.modGen e.tile e.g (fun x => { x with flying := x.flying ++ [(k, s.after 1)] }) else s.emit e k

/-- A tile read or a global load sends its next data token (R129, R279). -/
def State.readData (s : State) (e : SEnv) : State :=
  let f := sFmt e.w
  let n := if e.vecOut then min 16 (sCount e.w 0 - e.gen.tuple.getD 0 0) else 1
  let is := (tuplesFrom e.gen.tuple n).map (elemIndex e.w)
  match is.mapM (fun i => e.place (elemByte f i)) with
  | none => s
  | some as =>
    let size := fmtSize f
    let plane : List (Int × Nat) := if f = 6 then is.map (fun i => (e.scaleAt i, 1)) else []
    match s.readElems e (as.map (fun a => (a, size))) plane with
    | .fault x => s.faultStream e.tile e.g x
    | .wait s => s
    | .got s raw =>
      let dec := (List.range n).map (fun j =>
        let i := is.getD j 0
        let x := raw.getD j 0
        decElem e.vecOut f (if isNib f then nibOf x i else x) (raw.getD (n + j) 127))
      let fl := dec.foldl (fun a x => a ||| x.2) (0 : Flags)
      ((s.sendRead e { tag := 0, pay := elemPay e.vecOut (dec.map Prod.fst), arcs := e.gen.arcs }).tileFlags e.tile fl).sentData e n 1

/-- The number of elements of a matrix row (R109, R329). -/
def rowLen (f : Nat) : Nat := if f = 9 then 128 else if f = 6 then 256 else if f = 2 || f = 3 then 64 else 128

/-- The 160 bytes of a row (R329): the elements' bytes `raw` and the scale bytes `plane`, in row order. -/
def rowImage (f n : Nat) (is : List Int) (raw plane : List Nat) : Nat :=
  let body : Nat :=
    if isNib f then (List.range n).foldl (fun a k => a + nibOf (raw.getD k 0) (is.getD k 0) * 2 ^ (4 * k)) 0
    else if f = 9 then (List.range (n / 8)).foldl (fun a j => a + raw.getD (8 * j) 0 * 2 ^ (16 * j)) 0
    else (List.range n).foldl (fun a k => a + raw.getD k 0 * 2 ^ (8 * fmtSize f * k)) 0
  let size := if f = 9 then 2 else 1
  body % 2 ^ 1024 + 2 ^ 1024 * (plane.zipIdx.foldl (fun a (x, j) => a + x * 2 ^ (8 * size * j)) 0)

/-- A matrix row read sends the next row as a pair of tokens (R129, R329). -/
def State.readRow (s : State) (e : SEnv) : State :=
  let f := sFmt e.w
  let n := min (rowLen f) (sCount e.w 0)
  let is := (tuplesFrom e.gen.tuple n).map (elemIndex e.w)
  let xs : List (Int × Nat) := is.map (fun i => ((sBase e.w : Nat) + elemByte f i, fmtSize f))
  let scale : Int := (sBase e.w : Nat) + (sScale e.w : Nat)
  let plane : List (Int × Nat) :=
    if f = 6 then (List.range ((n + 31) / 32)).map (fun g => (scale + is.getD (32 * g) 0 / 32, 1))
    else if f = 9 then (List.range ((n + 63) / 64)).map (fun g => (scale + 2 * (is.getD (64 * g) 0 / 64), 2))
    else []
  match s.readElems e xs plane with
  | .fault x => s.faultStream e.tile e.g x
  | .wait s => s
  | .got s raw =>
    let bs := leBytes 160 (rowImage f n is (raw.take n) (raw.drop n))
    let half (h : Bool) : Token := { tag := 0, pay := .v (bytesVec ((bs.drop (if h then 80 else 0)).take 80)), side := .row h f, arcs := e.gen.arcs }
    let s := (s.emit e (half false)).modGen e.tile e.g (fun x => { x with pendTok := x.pendTok ++ [half true] })
    let left := sCount e.w 0 - e.gen.tuple.getD 0 0
    s.sentData e left 2

/-- The elements of a FIFO entry, decoded (R410). -/
def fifoElems (vec : Bool) (f : Nat) (bs : List Byte) : List (Word × Flags) :=
  let x := leNat bs
  if isNib f then
    let n := if f = 6 then bs.length - 1 else bs.length
    let scale := if f = 6 then (bs.getD n 0).toNat else 127
    (List.range (2 * n)).map (fun k => decElem vec f (x / 16 ^ k % 16) scale)
  else (List.range (bs.length / fmtSize f)).map (fun k => decElem vec f (x / 2 ^ (8 * fmtSize f * k) % 2 ^ (8 * fmtSize f)) 127)

/-- The granules of a FIFO's area from granule `g` on, around its end (R121). -/
def MTile.ring (m : MTile) (g n : Nat) : List Nat := (List.range n).map (fun i => (g + i) % max 1 m.bufsz)

/-- A FIFO read: the oldest entry is removed whole and sent as one token, or a mark as a token of its tag (R121, R410). FEWAIT and FECLR apply
to the granules read (R125). -/
def State.readFifo (s : State) (e : SEnv) : State :=
  match e.m.fifo with
  | [] => s
  | .mark tag w a :: rest =>
    (s.modMem e.tile (fun m => { m with fifo := rest })).emit e (wordTok e.vecOut tag w (a.join e.gen.arcs))
  | .data len a :: rest =>
    let gs := e.m.ring e.m.rbuf ((len + 15) / 16)
    let banks := (gs.map (· / 2048)).eraseDups
    if !s.banksFree e.tile banks || (sWait e.w && !gs.all (s.isFull e.tile)) then s
    else
      let bs := (gs.flatMap (fun g => s.sramBytes e.tile (16 * g) 16)).take len
      let xs := fifoElems e.vecOut (sFmt e.w) bs
      let fl := xs.foldl (fun f x => f ||| x.2) (0 : Flags)
      let s := s.useBanks e.tile banks
      let s := if sWait e.w && sClr e.w then gs.foldl (fun (s : State) g => s.setFull e.tile g false) s else s
      let s := (s.modMem e.tile (fun m => { m with fifo := rest, rbuf := (m.rbuf + gs.length) % max 1 m.bufsz })).modGen e.tile e.g (fun x =>
        { x with moved := x.moved + (if e.vecOut then xs.length else 1) })
      (s.emit e { tag := 0, pay := elemPay e.vecOut (xs.map Prod.fst), arcs := a.join e.gen.arcs }).tileFlags e.tile fl

/-- After end-of-pass: a direct read or a global load has made its last access; a mode read runs again (R120, R122). -/
def State.readPassed (s : State) (e : SEnv) : State :=
  if e.operand then
    (s.modMem e.tile (fun m => { m with full := m.full - 1, rbuf := (m.rbuf + 1) % (m.nbuf + 1) })).modGen e.tile e.g (fun x => { x with st := .running, moved := 0 })
  else if e.lines then s.modGen e.tile e.g (fun x => { x with st := .running, moved := 0, line := x.line + 1 })
  else s.closeStream e s.cycle

/-- A mode read has something to run on: a full buffer, or a line it has not yet run for (R120, R122). -/
def SEnv.offered (e : SEnv) : Bool :=
  if e.operand then decide (0 < e.m.full) else if e.lines then decide (e.gen.line < e.m.lines) else true

/-! ## Global loads (R122, R129) -/

/-- The routers and queues that a class leads to from one router (R24, R25). -/
def State.leads (s : State) (x : Nat) (c : Fin 16) : List Nat × List (Nat × Fin 4) :=
  match s.turn x (.table c) with
  | some (.dest d, _) => ([], [(d.tile, d.q)])
  | some (.table _, bs) =>
    (bs.filterMap (fun b => match b with | .dir d => (neighbour x d.val).map Prod.fst | .loc _ | .home _ | .gat _ => none),
     bs.filterMap (fun b => match b with | .loc q => some (x, q) | .home q => some (homeTile x, q) | .dir _ | .gat _ => none))
  | none => ([], [])

/-- The queues on the routes of a class from some routers, followed over at most `n` hops. -/
def State.routeQueues (s : State) (c : Fin 16) : Nat → List Nat → List Nat → List (Nat × Fin 4)
  | 0, _, _ => []
  | n + 1, seen, xs =>
    let next := xs.map (s.leads · c)
    let ys := ((next.flatMap Prod.fst).filter (fun y => !seen.contains y && (s.tile? y).isSome)).eraseDups
    next.flatMap Prod.snd ++ (if ys.isEmpty then [] else s.routeQueues c n (seen ++ ys) ys)

/-- How many tokens a stream may have on their way: what its output port and the queues on its route can hold (R122, log 110). -/
def State.readAhead (s : State) (e : SEnv) : Nat :=
  let src := 4 * e.tile + e.o.val
  let qs := (s.routeQueues (e.t.classOf e.o) 80 [e.tile] [e.tile]).map (fun (x, q) => match s.tile? x with | some t => 4 - (t.iq.get q).length | none => 4)
  let sent := ((s.flights.filter (fun f => f.src == src)).map Flight.pkt).eraseDups.length
  e.t.room e.o + (qs.foldl min (if qs.isEmpty then 0 else 4) - sent)

/-- The oldest token on its way enters the bound port. -/
def State.landRead (s : State) (e : SEnv) : State :=
  match e.gen.flying with
  | (k, due) :: rest => if due ≤ s.cycle && e.room then (s.emit e k).modGen e.tile e.g (fun x => { x with flying := rest }) else s
  | [] => s

/-- A global load's cycle: a token on its way enters the port, and the port tile reads the next one; end-of-pass follows the last. What is on its
way arrives also after a fault has stopped the stream. -/
def State.loadStream (s : State) (e : SEnv) : State :=
  if !e.active s then s
  else
    let t := s.landRead e
    if !e.gen.open then t
    else if e.gen.st == .endPass || emptyStream e.w then
      if e.gen.flying.isEmpty && e.room then
        (s.tick.emit e (wordTok e.vecOut 2 (Config.freeWord s.freeCtr) e.gen.arcs)).readPassed e
      else t
    else if e.gen.flying.length < s.readAhead e then t.readData e
    else t

/-- STREAM_READ_TOKEN: the next token of a read stream (R129). -/
def execStreamReadToken (tile : Nat) (g : Fin 4) (s : State) : Host.Outcome State Fault Refusal :=
  match s.stream? tile g with
  | none => .next s
  | some e =>
    if e.kind = 3 then .next (s.loadStream e)
    else if !e.runs s || !e.room || !(e.kind == 1 || e.kind == 9) then .next s
    else
      match e.gen.pendTok with
      | k :: rest => .next ((s.emit e k).modGen tile g (fun x => { x with pendTok := rest }))
      | [] =>
        if e.fifo then .next (s.readFifo e)
        else if e.gen.st == .endPass || emptyStream e.w then
          if e.gen.st == .endPass || e.offered then
            let w := Config.freeWord s.freeCtr
            .next ((s.tick.emit e (wordTok e.vecOut 2 w e.gen.arcs)).readPassed e)
          else .next s
        else if !e.offered then .next s
        else if e.kind = 9 then .next (s.readRow e)
        else .next (s.readData e)

/-! ## Write streams -/

/-- The byte at an address, as a stream that writes only a part of it reads it; none beyond what the destination holds. -/
def State.peekByte (s : State) (e : SEnv) (a : Int) : Except (Trans × Nat) (Option Byte) :=
  if e.glob then
    match s.translate (some (s.streamTile e)) e.entries (BitVec.ofInt 64 a).toNat 1 1 .wr with
    | .ok k _ => .ok (some (s.seenByte (tileDie e.tile) (s.orderedTask e.r.task) k))
    | .fault _ => .ok none
    | x => .error (x, (BitVec.ofInt 64 a).toNat)
  else .ok (if a < 0 || decide (((2 ^ 19 : Nat) : Int) ≤ a) then none else some (SMap.read 0 s.sram (sramKey e.tile a.toNat)))

/-- A byte as it stands after some writes. -/
def State.peekAfter (s : State) (e : SEnv) (ws : List (Int × Byte)) (a : Int) : Except (Trans × Nat) (Option Byte) :=
  match ws.reverse.find? (fun w => w.1 == a) with
  | some w => .ok (some w.2)
  | none => s.peekByte e a

/-- One element's bytes appended to the writes of a token, with its flags. -/
def State.encode1 (s : State) (e : SEnv) (ws : List (Int × Byte)) (i : Int) (x : Word) (k : Rnd) : Except (Trans × Nat) (List (Int × Byte) × Flags) :=
  let f := sFmt e.w
  let a := (e.place (elemByte f i)).getD 0
  let r := encElem e.vecIn f k x
  if isNib f then
    match s.peekAfter e ws a with
    | .error z => .error z
    | .ok b => .ok (ws ++ [(a, putNib (b.getD 0) i r.1)], r.2)
  else .ok (ws ++ (leBytes (fmtSize f) r.1).zipIdx.map (fun (b, j) => (a + (j : Nat), b)), r.2)

/-- The elements of a token encoded: index, value, draw. -/
def State.encodeAll (s : State) (e : SEnv) : List (Int × Word × Nat) → List (Int × Byte) × Flags → Except (Trans × Nat) (List (Int × Byte) × Flags)
  | [], acc => .ok acc
  | (i, x, u) :: rest, acc =>
    match s.encode1 e acc.1 i x (e.rnd u) with
    | .error z => .error z
    | .ok (ws, f) => s.encodeAll e rest (ws, acc.2 ||| f)

/-- The value of one element of a group: a new element, one that the destination holds, or zero beyond it (R412). All are rounded as the record asks;
R114 numbers no draw for an element that the stream does not write (log 97). -/
def State.groupElem (s : State) (e : SEnv) (old : Option Byte) (xs : List (Int × Lane × Nat)) (i : Int) (free : Nat) : Except (Trans × Nat) (Lane × Rnd × Bool) :=
  match xs.find? (fun x => x.1 == i) with
  | some (_, x, u) => .ok (x, e.rnd u, true)
  | none =>
    match s.peekByte e ((e.place (i / 2)).getD 0) with
    | .error z => .error z
    | .ok none => .ok (0, .mode .rne, false)
    | .ok (some b) => .ok (loadMx (nibOf b.toNat i) ((old.getD 0).toNat), e.rnd ((Config.freeWord free).toNat % 2 ^ 24), true)

/-- A group of 32 elements encoded whole (R106, R412): the bytes of its elements and of its scale. -/
def State.encodeGroup (s : State) (e : SEnv) (xs : List (Int × Lane × Nat)) (grp : Int) (free : Nat) : Except (Trans × Nat) (List (Int × Byte) × Flags) :=
  match s.peekByte e (e.scaleAt (32 * grp)) with
  | .error z => .error z
  | .ok old =>
    match (List.range 32).mapM (fun k => s.groupElem e old xs (32 * grp + (k : Nat)) (free + k)) with
    | .error z => .error z
    | .ok es =>
      let scale := mxScale (es.map (fun x => unpack x.1))
      let codes := es.zipIdx.map (fun (x, k) => mxElem x.2.1 scale (Config.mxNanCode (free + k)) (unpack x.1))
      let fl := codes.foldl (fun f x => f ||| x.2) (xs.foldl (fun f x => if x.1 / 32 = grp then f ||| ncFlag x.2.1 else f) (0 : Flags))
      let bytes := (List.range 16).filterMap (fun j =>
        if (es.getD (2 * j) (0, .mode .rne, false)).2.2 then
          some ((e.place ((32 * grp + 2 * (j : Nat)) / 2)).getD 0, BitVec.ofNat 8 ((codes.getD (2 * j) (0, 0)).1 + 16 * (codes.getD (2 * j + 1) (0, 0)).1))
        else none)
      .ok (bytes ++ [(e.scaleAt (32 * grp), BitVec.ofNat 8 scale)], fl)

/-- Several groups encoded in order. -/
def State.encodeGroups (s : State) (e : SEnv) (xs : List (Int × Lane × Nat)) (free : Nat) :
    List Int → Except (Trans × Nat) (List (Int × Byte) × Flags)
  | [] => .ok ([], 0)
  | grp :: rest =>
    match s.encodeGroup e xs grp free with
    | .error z => .error z
    | .ok (ws, f) =>
      match s.encodeGroups e xs (free + 32) rest with
      | .error z => .error z
      | .ok (vs, h) => .ok (ws ++ vs, f ||| h)

/-- Successive bytes joined into stretches. -/
def stretches (ws : List (Int × Byte)) : List (Int × List Byte) :=
  (ws.foldl (fun (acc : List (Int × List Byte)) (a, b) =>
    match acc with
    | (a0, bs) :: rest => if a0 + (bs.length : Nat) = a then (a0, bs ++ [b]) :: rest else (a, [b]) :: acc
    | [] => [(a, [b])]) []).reverse

/-- Bytes written to the tile's SRAM; their granules become full (R125, R126). -/
def State.writeLocal (s : State) (e : SEnv) (ws : List (Int × List Byte)) : Got Unit :=
  let xs := ws.map (fun (a, bs) => (a, bs.length))
  match localOut xs with
  | some f => .fault f
  | none =>
    if !s.banksFree e.tile (banksOfAll xs) then .wait s
    else .got (ws.foldl (fun (s : State) (a, bs) => s.storeSram e.tile a.toNat bs) (s.useBanks e.tile (banksOfAll xs))) ()

/-- Bytes written to global memory: all translated, room for pending versions found, then written (R134, R137, R138, R166). -/
def State.writeGlobal (s : State) (e : SEnv) (ws : List (Int × List Byte)) : Got Unit :=
  if !e.portReady s then .wait s else
  match s.allPieces (s.streamTile e) e.entries .wr (ws.map (fun (a, bs) => (a, bs.length))) with
  | .error (.fault f, _) => .fault f
  | .error (x, a) => .wait (s.withhold e a x)
  | .ok pss =>
    let die := tileDie e.tile
    let task := s.orderedTask e.r.task
    let ps := pss.flatten
    let blockers := (ps.flatMap (fun (k, n, _) => s.storeBlockers die task k n)).eraseDups
    if !blockers.isEmpty then
      match task.bind (fun t => s.abortFor t blockers) with
      | some young => .wait (s.abortTask young)
      | none => .wait s
    else
      let (s, _) := ps.foldl (fun (a : State × List Byte) (k, n, pte) =>
        ((a.1.writeAccess e.r.num die task k (a.2.take n) 0).dirtyPage pte, a.2.drop n)) (s.useStream e, (ws.map Prod.snd).flatten)
      let s := s.modRegion e.r.num (fun r => r.widenStream (e.ptile * 4 + e.sport) true (ps.map (fun (k, n, _) => (k, n))))
      .got (s.modGen e.tile e.g (fun x => { x with wr := coverKeys x.wr (ps.map (fun (k, n, _) => (k, n))), withheld := none })) ()

/-- Bytes written by a stream. -/
def State.writeAll (s : State) (e : SEnv) (ws : List (Int × Byte)) : Got Unit :=
  if e.glob then s.writeGlobal e (stretches ws) else s.writeLocal e (stretches ws)

/-- A run or a pass of a write stream ends early or late: the tuple of the next data token; none are left after the last element. -/
def nextTuple (w : BitVec 512) (t : List Nat) (n : Nat) : List Nat := let (t', _, p) := advance w t n; if p then [] else t'

/-- The groups that hold every element that the stream writes. -/
def SEnv.fullGroups (e : SEnv) (xs : List (Int × Lane × Nat)) : List Int :=
  ((xs.map (fun x => x.1 / 32)).eraseDups).filter (fun grp => (e.members grp).all (fun i => xs.any (fun x => x.1 == i)))

/-- An encoding that waits for a page, or faults. -/
def State.encodeStop (s : State) (e : SEnv) (z : Trans × Nat) : State :=
  match z with
  | (.fault f, _) => s.faultStream e.tile e.g f
  | (x, a) => s.withhold e a x

/-- The elements of a data token written (R105, R106, R129, R279, R412). -/
def State.writeData (s : State) (e : SEnv) (k : Token) : State :=
  let n := if e.vecIn then min 16 (sCount e.w 0 - e.gen.tuple.getD 0 0) else 1
  let is := (tuplesFrom e.gen.tuple n).map e.index
  let xs : List (Int × Word × Nat) := (is.zip (payElems e.vecIn k.pay n)).zipIdx.map (fun ((i, x), j) => (i, x, e.draw (e.gen.elem + BitVec.ofNat 46 j)))
  let held : List (Int × Lane × Nat) := xs.foldl (fun (h : List (Int × Lane × Nat)) (i, x, u) => h.filter (fun y => y.1 != i) ++ [(i, x.setWidth 40, u)]) e.gen.group
  let mx := sFmt e.w == 6
  let full := if mx then e.fullGroups held else []
  let enc := if mx then s.encodeGroups e held s.freeCtr full else s.encodeAll e xs ([], 0)
  match enc with
  | .error z => s.encodeStop e z
  | .ok (ws, fl) =>
    match s.writeAll e ws with
    | .fault f => s.faultStream e.tile e.g f
    | .wait s => s
    | .got s _ =>
      let s : State := { s with freeCtr := s.freeCtr + 32 * full.length }
      let s := s.modMem e.tile (fun m => { m with filling := m.filling || e.lines })
      ((s.takeTok e k).tileFlags e.tile fl).modGen e.tile e.g (fun x => { x with
        tuple := nextTuple e.w x.tuple n
        elem := x.elem + BitVec.ofNat 46 n
        moved := x.moved + n
        group := if mx then held.filter (fun y => !full.contains (y.1 / 32)) else [] })

/-- The granules that a FIFO holds. -/
def MTile.fifoUsed (m : MTile) : Nat :=
  m.fifo.foldl (fun a x => match x with | .data n _ => a + (n + 15) / 16 | .mark _ _ _ => a) 0

/-- The bytes of a FIFO entry: its elements from the first byte, and for E2M1 the scale of their own group (R410). -/
def SEnv.entryBytes (e : SEnv) (xs : List (Word × Nat)) (free : Nat) : List Byte × Flags :=
  let f := sFmt e.w
  if f = 6 then
    let ls := xs.map (fun (x, _) => unpack (x.setWidth 40))
    let scale := mxScale ls
    let codes := (ls.zip (xs.map Prod.snd)).zipIdx.map (fun ((l, u), k) => mxElem (e.rnd u) scale (Config.mxNanCode (free + k)) l)
    let nc := xs.foldl (fun a (x, _) => a ||| ncFlag (x.setWidth 40)) (0 : Flags)
    (leBytes ((xs.length + 1) / 2) (codes.zipIdx.foldl (fun a (c, k) => a + c.1 * 16 ^ k) 0) ++ [BitVec.ofNat 8 scale], codes.foldl (fun a c => a ||| c.2) nc)
  else
    let enc := xs.map (fun (x, u) => encElem e.vecIn f (e.rnd u) x)
    let fl := enc.foldl (fun a c => a ||| c.2) (0 : Flags)
    if isNib f then (leBytes ((xs.length + 1) / 2) (enc.zipIdx.foldl (fun a (c, k) => a + c.1 % 16 * 16 ^ k) 0), fl)
    else (enc.flatMap (fun c => leBytes (fmtSize f) c.1), fl)

/-- A FIFO write: one entry for one data token, when there is room for it (R121, R410). -/
def State.writeFifo (s : State) (e : SEnv) (k : Token) : State :=
  let n := if e.vecIn then min 16 (sCount e.w 0 - e.gen.tuple.getD 0 0) else 1
  let xs := (payElems e.vecIn k.pay n).zipIdx.map (fun (x, j) => (x, e.draw (e.gen.elem + BitVec.ofNat 46 j)))
  let (bs, fl) := e.entryBytes xs s.freeCtr
  let gs := e.m.ring e.m.wbuf ((bs.length + 15) / 16)
  let banks := (gs.map (· / 2048)).eraseDups
  if e.m.bufsz < e.m.fifoUsed + gs.length || !s.banksFree e.tile banks then s
  else
    let s : State := { s with freeCtr := s.freeCtr + 16 }
    let s := gs.zipIdx.foldl (fun (s : State) (g, i) => s.storeSram e.tile (16 * g) ((bs ++ List.replicate 15 0).drop (16 * i) |>.take 16)) s
    let s := (s.useBanks e.tile banks).modMem e.tile (fun m => { m with
      fifo := m.fifo ++ [.data bs.length (k.arcs.join e.gen.arcs)]
      wbuf := (m.wbuf + gs.length) % max 1 m.bufsz })
    ((s.takeTok e k).tileFlags e.tile fl).modGen e.tile e.g (fun x => { x with
      tuple := nextTuple e.w x.tuple n, elem := x.elem + BitVec.ofNat 46 n, moved := x.moved + n })

/-- The groups still held are encoded at the end of a pass (R412). -/
def State.flushGroups (s : State) (e : SEnv) : Got Unit :=
  let grps := (e.gen.group.map (fun x => x.1 / 32)).eraseDups
  match s.encodeGroups e e.gen.group s.freeCtr grps with
  | .error (.fault f, _) => .fault f
  | .error z => .wait (s.encodeStop e z)
  | .ok (ws, fl) =>
    match s.writeAll e ws with
    | .fault f => .fault f
    | .wait s => .wait s
    | .got s _ =>
      let s : State := { s with freeCtr := s.freeCtr + 32 * grps.length }
      .got ((s.tileFlags e.tile fl).modGen e.tile e.g (fun x => { x with group := [] })) ()

/-- End-of-pass at a mode write: the buffer counts as full, or the mark enters the FIFO; the completion token of the pass leaves with it
(R120, R122, R410). -/
def State.endModePass (s : State) (e : SEnv) (k : Token) : State :=
  let q := sCompPort e.w
  if sComp e.w && decide (e.t.room q < 1) then s
  else
    match s.flushGroups e with
    | .fault f => s.faultStream e.tile e.g f
    | .wait s => s
    | .got s _ =>
      let s := s.takeTok e k
      let s := if e.operand then s.modMem e.tile (fun m => { m with full := m.full + 1, wbuf := (m.wbuf + 1) % (m.nbuf + 1) })
        else if e.fifo then s.modMem e.tile (fun m => { m with fifo := m.fifo ++ [.mark 2 k.pay.word (k.arcs.join e.gen.arcs)] })
        else s
      let s := if sComp e.w then s.putPort e.tile q (wordTok (e.t.opKind.getLsbD q.val) 0 (BitVec.ofNat 64 e.gen.moved) (k.arcs.join e.gen.arcs)) else s
      s.modGen e.tile e.g (fun x => { x with tuple := if emptyStream e.w then [] else tuple0, moved := 0 })

/-- End-of-run at a write stream: it closes a line in line-buffer mode, with the groups that the line still holds encoded, it is a mark in FIFO mode, else
it is dequeued (R121, R279, R410, R412). -/
def State.endRun (s : State) (e : SEnv) (k : Token) : State :=
  if e.fifo then (s.takeTok e k).modMem e.tile (fun m => { m with fifo := m.fifo ++ [.mark 1 k.pay.word (k.arcs.join e.gen.arcs)] })
  else if e.lines then
    match s.flushGroups e with
    | .fault f => s.faultStream e.tile e.g f
    | .wait s => s
    | .got s _ =>
      ((s.takeTok e k).modMem e.tile (fun m => { m with lines := m.lines + 1, filling := false })).modGen e.tile e.g (fun x => { x with
        tuple := if x.tuple.getD 0 0 = 0 then x.tuple else nextTuple e.w x.tuple (sCount e.w 0 - x.tuple.getD 0 0) })
  else s.takeTok e k

/-- The head of the bound queue, if it is the stream's to take: accumulate tokens go to the accumulator (R335), and a stopped queue gives
nothing. -/
def SEnv.head (e : SEnv) : Option Token :=
  if e.m.qStop.getLsbD e.q.val then none
  else match e.t.head e.q with
    | none => none
    | some k => match k.side with | .acc _ _ => none | .none | .row _ _ | .ins _ | .xreq _ _ => some k

/-- STREAM_WRITE_TOKEN: a write stream takes the next token of its queue (R122). -/
def execStreamWriteToken (tile : Nat) (g : Fin 4) (s : State) : Host.Outcome State Fault Refusal :=
  match s.stream? tile g with
  | none => .next s
  | some e =>
    if !e.runs s || !(e.kind == 2 || e.kind == 4) || (e.operand && decide (e.m.nbuf + 1 ≤ e.m.full)) then .next s
    else
      match e.head with
      | none => .next s
      | some k =>
        if k.tag = 3 then .next (s.takeTok e k)
        else if k.tag = 1 then .next (s.endRun e k)
        else if k.tag = 2 then
          if e.onMode then .next (s.endModePass e k)
          else
            match s.flushGroups e with
            | .fault f => .next (s.faultStream tile g f)
            | .wait s => .next s
            | .got s _ => .next (((s.takeTok e k).closeStream e (if e.glob then s.after 0 else s.cycle)).tick)
        else if e.gen.tuple.isEmpty || emptyStream e.w then .next (s.takeTok e k)
        else if e.fifo then .next (s.writeFifo e k)
        else .next (s.writeData e k)

end Sys2Proof.Machine
end

