-- ==== Sys2Proof/Machine/Inserts.lean ====
section
/-!
DEFINITION. The streams that hand tokens to a unit of their tile: REDUCE_CONTRIBUTION (R116, R117, R123), SUMMARY_INSERT (R181, R305),
TOPK_INSERT (R223, R380), and the sequence walk, WALK_REQUEST (R217 to R222).
-/
namespace Sys2Proof.Machine

/-! ## The reduce unit (R116, R117, R123) -/

/-- No contribution yet. -/
def RedElem.zero : RedElem := ⟨false, false, false, 0⟩

/-- A contribution added to an exact accumulator: the 320-bit value, the sticky bits and the count (R116), with its flags. -/
def exactAdd (acc : BitVec 320) (x : RedElem) (v : Num) : BitVec 320 × RedElem × Flags :=
  let (t, nan, pinf, ninf) := exactTerm v
  let count := x.count + 1
  let full := count == 2 ^ 41
  (acc + BitVec.ofInt 320 t, ⟨x.nan || nan || full, x.pinf || pinf, x.ninf || ninf, count⟩, (rneFp32 v).2 ||| Flags.when full NV)

/-- What an exact accumulator drains to (R116), before the drain format. -/
def exactDrain (acc : BitVec 320) (x : RedElem) : Num × Flags :=
  if x.nan then (.nan, Flags.when (x.pinf && x.ninf) NV)
  else if x.pinf && x.ninf then (.nan, NV)
  else if x.pinf then (.inf false, 0)
  else if x.ninf then (.inf true, 0)
  else (.num (decide (acc.toInt < 0)) acc.toInt.natAbs (-149), 0)

/-- A value rounded once to a drain format (R105, R116, R117), as a stored element's bits. -/
def drainBits (f : Nat) (k : Rnd) (x : Num) : Nat × Flags :=
  match floatFmt f, intFmt f with
  | some t, _ => let r := t.round k x; (t.pack r.1, r.2)
  | none, some n => let r := numToInt k n x; ((BitVec.ofInt n r.1).toNat, r.2)
  | none, none => let r := w40 x; (r.1.toNat, r.2)

/-- The place of a destination element: 8 bytes in arrival mode, 40 in exact mode (R123). -/
def SEnv.redPlace (e : SEnv) (i : Int) : Int × Nat :=
  let n : Nat := if e.m.redMode = 2 then 40 else 8
  ((sBase e.w : Nat) + i * (n : Nat), n)

/-- A contribution's value: a lane, or what a scalar token of an integer format carries. -/
def SEnv.contribution (e : SEnv) (x : Word) : Num :=
  if !e.vecIn && (intFmt (sFmt e.w)).isSome then intNum x.toInt else unpack (x.setWidth 40)

/-- What a contribution's conversion sets: NV for a non-canonical lane, NX where an integer does not fit a W40 value (R99, R104, R117). -/
def SEnv.contributionFlags (e : SEnv) (x : Word) : Flags :=
  if !e.vecIn && (intFmt (sFmt e.w)).isSome then (if e.m.redMode = 2 then 0 else (w40 (intNum x.toInt)).2) else ncFlag (x.setWidth 40)

/-- One contribution to the element at a byte. -/
def State.contribute (s : State) (e : SEnv) (a : Nat) (v : Num) (x : Lane) : State × Flags :=
  if e.m.redMode = 2 then
    let old : BitVec 320 := BitVec.ofNat 320 (leNat (s.sramBytes e.tile a 40))
    match s.mem? e.tile with
    | none => (s, 0)
    | some m =>
      let (acc, r, f) := exactAdd old ((SMap.find? m.red a).getD RedElem.zero) v
      ((s.storeSram e.tile a (leBytes 40 acc.toNat)).modMem e.tile (fun m => { m with red := SMap.put m.red a r }), f)
  else
    let r := fAdd (BitVec.ofNat 40 (leNat (s.sramBytes e.tile a 8))) x
    (s.storeSram e.tile a (leBytes 8 r.1.toNat), r.2)

/-- A token of contributions. -/
def State.reduceData (s : State) (e : SEnv) (k : Token) : State :=
  let n := if e.vecIn then min 16 (sCount e.w 0 - e.gen.tuple.getD 0 0) else 1
  let is := (tuplesFrom e.gen.tuple n).map (elemIndex e.w)
  let xs := is.map e.redPlace
  match localOut xs with
  | some f => s.faultStream e.tile e.g f
  | none =>
    if !s.banksFree e.tile (banksOfAll xs) then s
    else
      let s := s.useBanks e.tile (banksOfAll xs)
      let vs := payElems e.vecIn k.pay n
      let (s, fl) := (xs.zip vs).foldl (fun (a : State × Flags) (p, v) =>
        let num := e.contribution v
        let (s, f) := a.1.contribute e p.1.toNat num (w40 num).1
        (s, a.2 ||| f ||| e.contributionFlags v)) (s, 0)
      ((s.takeTok e k).tileFlags e.tile fl).modGen e.tile e.g (fun x => { x with tuple := nextTuple e.w x.tuple n, moved := x.moved + n })

/-- What a destination element holds (R116, R117). -/
def State.redValue (s : State) (e : SEnv) (i : Int) : Num × Flags :=
  let (a, w) := e.redPlace i
  let raw := leNat (s.sramBytes e.tile a.toNat w)
  if e.m.redMode = 2 then exactDrain (BitVec.ofNat 320 raw) ((SMap.find? e.m.red a.toNat).getD RedElem.zero)
  else (unpack (BitVec.ofNat 40 raw), 0)

/-- An element drained: an exact sum rounds to nearest even, an arrival sum as the record asks; an E2M1 element takes its group's scale (R105, R106,
R116, R117). -/
def State.drainElem (s : State) (e : SEnv) (i : Int) (draw : Nat) : Word × Flags :=
  let f := sFmt e.w
  let v := s.redValue e i
  let k : Rnd := if e.m.redMode = 2 then .mode .rne else e.rnd draw
  let scale := if f = 6 then mxScale ((e.members (i / 32)).map (fun j => (s.redValue e j).1)) else 127
  let d := if f = 6 then mxElem k scale 0 v.1 else drainBits f k v.1
  let t := decElem e.vecOut f d.1 scale
  (t.1, v.2 ||| d.2 ||| t.2)

/-- The next token of a drain: the elements in the order of the record, in its format as the drain format. -/
def State.drainData (s : State) (e : SEnv) : State :=
  let n := if e.vecOut then min 16 (sCount e.w 0 - e.gen.tuple.getD 0 0) else 1
  let is := (tuplesFrom e.gen.tuple n).map (elemIndex e.w)
  let xs := (if sFmt e.w = 6 then ((is.map (· / 32)).eraseDups).flatMap e.members else is).map e.redPlace
  match localOut xs with
  | some f => s.faultStream e.tile e.g f
  | none =>
    if !s.banksFree e.tile (banksOfAll xs) then s
    else
      let s := s.useBanks e.tile (banksOfAll xs)
      let vals := is.zipIdx.map (fun (i, j) => s.drainElem e i (e.draw (e.gen.elem + BitVec.ofNat 46 j)))
      let fl := vals.foldl (fun a x => a ||| x.2) (0 : Flags)
      let s := s.modGen e.tile e.g (fun x => { x with elem := x.elem + BitVec.ofNat 46 n })
      ((s.emit e { tag := 0, pay := elemPay e.vecOut (vals.map Prod.fst), arcs := e.gen.arcs }).tileFlags e.tile fl).sentData e n 1

/-- The drain of a reduce stream goes on: its tokens, then end-of-pass, after which it takes contributions again. -/
def State.stepDrain (s : State) (e : SEnv) : State :=
  if !e.room then s
  else
    match e.gen.pendTok with
    | k :: rest => (s.emit e k).modGen e.tile e.g (fun x => { x with pendTok := rest })
    | [] =>
      if e.gen.walk.isSome && !emptyStream e.w && e.gen.st != .endPass then s.drainData e
      else
        let w := Config.freeWord s.freeCtr
        (s.tick.emit e (wordTok e.vecOut 2 w e.gen.arcs)).modGen e.tile e.g (fun x => { x with
          st := .running, walk := none, tuple := if emptyStream e.w then [] else tuple0, runTokens := 0, moved := 0 })

/-- The mark of a drain under way. -/
def drainMark : WalkPos := ⟨Vec.zero, 0, 0, 0, {}, []⟩

/-- REDUCE_CONTRIBUTION: a reduce stream adds the contributions of one token, or drains its elements after an end-of-pass (R116, R117, R122). -/
def execReduceContribution (tile : Nat) (g : Fin 4) (s : State) : Host.Outcome State Fault Refusal :=
  match s.stream? tile g with
  | none => .next s
  | some e =>
    if !e.runs s || e.kind != 5 then .next s
    else if e.gen.walk.isSome then .next (s.stepDrain e)
    else
      match e.head with
      | none => .next s
      | some k =>
        if k.tag = 3 || k.tag = 1 then .next (s.takeTok e k)
        else if e.m.redMode = 0 || e.m.redMode = 3 then .next (s.faultStream tile g formatFault)
        else if k.tag = 2 then
          .next ((s.takeTok e k).modGen tile g (fun x => { x with walk := some drainMark, tuple := tuple0, runTokens := 0 }))
        else if e.gen.tuple.isEmpty || emptyStream e.w then .next (s.takeTok e k)
        else .next (s.reduceData e k)

/-! ## Summary inserts (R181, R305) -/

/-- The code of an insert kind in a token's side-band (R304). -/
def SumKind.code (k : SumKind) : Nat := match k with | .qs => 0 | .hh => 1 | .dc => 2

/-- The lanes of an insert token: 16, or one of a scalar token (R181). -/
def insertLanes (vec : Bool) (p : Payload) : List Lane := if vec then (List.range 16).map (fun n => p.vec.lane n) else [p.word.setWidth 40]

/-- SUMMARY_INSERT: the unit inserts the lanes of one token; a cascade holds the queue for 2 cycles for each level (R181, R182). -/
def execSummaryInsert (tile : Nat) (g : Fin 4) (s : State) : Host.Outcome State Fault Refusal :=
  match s.stream? tile g with
  | none => .next s
  | some e =>
    if !e.runs s || e.kind != 6 then .next s
    else
      match e.head with
      | none => .next s
      | some k =>
        let off := sBase e.w
        if k.tag = 3 || k.tag = 1 then .next (s.takeTok e k)
        else if k.tag = 2 then if s.unitFree tile then .next ((s.takeTok e k).closeStream e s.cycle) else .next s
        else if off % 256 != 0 || decide (2 ^ 19 < off + 4096) then .next (s.faultStream tile g ⟨kProt, 3, BitVec.ofNat 64 off⟩)
        else if !s.unitFree tile || s.mergingOn tile off || !s.banksFree tile (sumBanks off) then .next s
        else
          let bs := s.sumBytes tile off
          match sumKind bs with
          | none => .next (s.faultStream tile g formatFault)
          | some kind =>
            let fits : Bool := match k.side with | .ins c => c == kind.code | .none | .acc _ _ | .row _ _ | .xreq _ _ => true
            if !fits || !sumValid bs kind then .next (s.faultStream tile g formatFault)
            else
              let (bs', fl, n, levels) := sumInsert kind bs (insertLanes e.vecIn k.pay)
              .next ((((((s.putSum tile off bs').useBanks tile (sumBanks off)).takeTok e k).tileFlags tile fl).holdUnit tile (1 + 2 * levels) none).modGen tile g (fun x => { x with
                moved := x.moved + n, busy := s.cycle + 1 + 2 * levels }))

/-! ## Top-k inserts (R223, R380) -/

/-- The score and the ID of an insert token (R380). -/
def candidate (vec : Bool) (p : Payload) : Lane × Nat :=
  if vec then (p.vec.lane 0, (p.vec.lane 1).toNat % 2 ^ 32) else (p.word.setWidth 40, bits p.word.toNat 63 40)

/-- An insert served by the top-k unit: one per cycle (R223). -/
def State.serveInsert (s : State) (tile off : Nat) (c : Lane × Nat) : State :=
  (s.tkInsert tile off c.1 c.2).modMem tile (fun m => { m with tkBusy := s.cycle + 1 })

/-- TOPK_INSERT: a data token is one insert; without a bound record it faults (R224, R380). -/
def execTopkInsert (tile : Nat) (g : Fin 4) (s : State) : Host.Outcome State Fault Refusal :=
  match s.stream? tile g with
  | none => .next s
  | some e =>
    if !e.runs s || e.kind != 7 then .next s
    else
      match e.head with
      | none => .next s
      | some k =>
        if k.tag = 3 || k.tag = 1 then .next (s.takeTok e k)
        else if k.tag = 2 then .next ((s.takeTok e k).closeStream e s.cycle)
        else if s.cycle < e.m.tkBusy then .next s
        else
          match e.m.topk with
          | none => .next (s.faultStream tile g formatFault)
          | some b =>
            if !s.banksFree tile (tkBanks b.off) then .next s
            else .next ((((s.useBanks tile (tkBanks b.off)).serveInsert tile b.off (candidate e.vecIn k.pay)).takeTok e k).modGen tile g (fun x => { x with moved := x.moved + 1 }))

/-! ## Sequence walks (R217 to R220) -/

/-- The bits that a walk request may set in each lane (R219). -/
def walkMask (n : Nat) : Lane :=
  if n = 0 then BitVec.allOnes 40 else if n = 1 then 0xFFFFFF else if n = 2 then 0xFFFFFFFF else if n = 3 then 0xFFFF else if n = 4 then 0x1FF else 0

/-- PART of a request. -/
def walkPart (x : Vec) : Nat := (x.lane 4).toNat % 4

/-- Why a request is not served: a bit that must be zero or a slot count of 0 (cause 4); values through a scalar port (cause 5). -/
def walkBad (x : Vec) (vecOut : Bool) : Nat :=
  if (List.range 16).any (fun n => x.lane n &&& ~~~ walkMask n != 0) || (x.lane 3).toNat = 0 then 4
  else if !vecOut && (walkPart x = 1 || walkPart x = 2) then 5 else 0

/-- Bytes of an object read by a walk, as LDW's bytes are (R155, R218). -/
def State.walkRead (s : State) (e : SEnv) (k n : Nat) : State × List Byte :=
  let die := tileDie e.tile
  let (s, bs) := s.readAccess e.r.num die (s.orderedTask e.r.task) k n 0
  (s.modRegion e.r.num (fun g => g.widen die (s.homePort die k) false (rngOf k n)), bs)

/-- A fault of a walk at a table slot: its detail is the slot number (R210). -/
def slotFault (kind cause slot : Nat) : FaultInfo := ⟨kind, cause, BitVec.ofNat 64 slot⟩

/-- The search for a slot: the named table, then at most four ancestors (R218). A fault comes with what has been read. -/
def State.walkEntry (s : State) (e : SEnv) (slot : Nat) : Nat → Word → Except (FaultInfo × State) (State × Nat)
  | 0, _ => .error (slotFault kTrans 0 slot, s)
  | k + 1, h =>
    match s.handleIs h with
    | .current _ o =>
      if !bit h.toNat 56 then .error (slotFault kProt 2 slot, s)
      else if oSize o < 64 then .error (slotFault kProt 3 slot, s)
      else
        let base := domKey (oBase o)
        let (s, hd) := s.walkRead e base 64
        let hd := leNat hd
        let parent := bits hd 63 0
        if slot < bits hd 159 128 then
          if oSize o < 80 + 16 * slot then .error (slotFault kProt 3 slot, s)
          else
            let (s, en) := s.walkRead e (base + 64 + 16 * slot) 16
            if bit (leNat en) 64 then .ok (s, leNat en)
            else if parent = 0 then .error (slotFault kTrans 0 slot, s)
            else s.walkEntry e slot k (BitVec.ofNat 64 parent)
        else if parent = 0 then .error (slotFault kTrans 0 slot, s)
        else s.walkEntry e slot k (BitVec.ofNat 64 parent)
    | .invalid => .error (badHandle h, s)
    | .gone | .dying => .error (slotFault kProt 2 slot, s)

/-- Where a page is read: through its handle, at its fallback address, or nowhere. -/
inductive PageAt where
  | page (k : Nat) (token : Word)
  | gone
deriving DecidableEq, Repr

/-- The page of an entry (R218): a dying object makes the walk wait; `need` is false for PART 3, which reads no page but translates the fallback
address as the others do. -/
def State.pageOf (s : State) (e : SEnv) (slot en : Nat) (need : Bool) : Got PageAt :=
  let h : Word := BitVec.ofNat 64 en
  let fb := bits en 127 72
  let fall : Got PageAt :=
    if bit en 65 then
        match s.allPieces (s.streamTile e) e.entries .rd [((fb : Nat), if need then 32768 else 1)] with
        | .error (.fault f, _) => .fault f
        | .error (x, a) => .wait (s.withhold e a x)
        | .ok pss => .got (s.modGen e.tile e.g (fun x => { x with withheld := none })) (.page ((pss.flatten.head?.map Prod.fst).getD 0) (BitVec.ofNat 64 (fb + 2 ^ 63)))
    else .got s .gone
  match s.handleIs h with
  | .current _ o => if need && decide (oSize o < 32768) then .fault (slotFault kProt 3 slot) else .got s (.page (domKey (oBase o)) h)
  | .invalid => .fault (badHandle h)
  | .dying => .wait s
  | .gone => fall

/-- The score of a block (R222). -/
def blockScore (b : TopK) (page : List Byte) (blk : Nat) : Lane × Flags :=
  let prods := (List.range 128).map (fun c => Num.mul (fp32.unpack (bits b.q.toNat (32 * c + 31) (32 * c))) (e4m3.unpack (fieldAt page (0x7900 + 128 * blk + c) 1)))
  let rad := Num.mul (unpack b.norm) (fp32.unpack (fieldAt page (32 + 4 * blk) 4))
  let all := rad :: prods
  let sum := numSum (all.map Prod.fst)
  finish (if all.any Prod.snd then (Num.nan, true) else sum) 0

/-- Channel c of position p of K or V of a page (R215). -/
def pageElem (page : List Byte) (part p c : Nat) : Lane :=
  let i := if part = 1 then 128 * p + c else 224 * c + p
  let byte := fieldAt page ((if part = 1 then 0x200 else 0x3D80) + i / 2) 1
  let scale := if part = 1 then fieldAt page (0x3A00 + 4 * p + c / 32) 1 else fieldAt page (0x7580 + 7 * c + p / 32) 1
  loadMx (nibOf byte i) scale

/-- What a slot produces (R220): its tokens (for PART 0 the candidates), how many count as produced, and flags. -/
def walkTokens (e : SEnv) (x : Vec) (slot : Nat) (bound : Option TopK) (page : List Byte) (a : Arcs) : List Token × Nat × Flags :=
  let hd := fieldAt page 0 2
  let valid := min (hd % 256) 224
  let blocks := (List.range 7).filter (fun b => decide (32 * b < valid))
  if walkPart x = 0 then
    let cs := blocks.map (fun b =>
      let sc : Lane × Flags := if bit hd 8 then (match bound with | some t => blockScore t page b | none => (infW, 0)) else (infW, 0)
      (({ tag := 0, pay := .v (Vec.build (fun n => if n = 0 then sc.1 else if n = 1 then BitVec.ofNat 40 ((8 * slot + b) % 2 ^ 32) else 0)), arcs := a } : Token), sc.2))
    (cs.map Prod.fst, cs.length, cs.foldl (fun f c => f ||| c.2) 0)
  else
    let mask := bits (x.lane 4).toNat 8 2
    let runs := (blocks.filter (fun b => bit mask b)).map (fun b =>
      let data := ((List.range (min 32 (valid - 32 * b))).flatMap (fun p => (List.range 8).map (fun j =>
        ({ tag := 0, pay := .v (Vec.build (fun n => pageElem page (walkPart x) (32 * b + p) (16 * j + n))), arcs := a } : Token))))
      (data ++ [wordTok e.vecOut 1 (BitVec.ofNat 64 data.length) a], data.length))
    (runs.flatMap Prod.fst, (runs.map Prod.snd).foldl (· + ·) 0, 0)

/-- The walk's position changed. -/
def State.setWalk (s : State) (e : SEnv) (w : Option WalkPos) : State := s.modGen e.tile e.g (fun x => { x with walk := w })

/-- One slot of a request is visited (R218, R220), as one access of its stream port. A fault leaves the bytes that the visit has read in the read pair
(R131, R155). -/
def State.visitSlot (s : State) (e : SEnv) (p : WalkPos) : State :=
  let x := p.lanes
  let slot := (x.lane 2).toNat + p.slot
  let part := walkPart x
  let table : Word := vecWord x
  if !e.portReady s then s else
  match s.walkEntry e slot 5 table with
  | .error (f, s1) => s1.faultStream e.tile e.g f
  | .ok (s1, en) =>
    match s1.pageOf e slot en (part != 3) with
    | .fault f => s1.faultStream e.tile e.g f
    | .wait s2 => s2
    | .got s2 .gone =>
      let s2 := s2.useStream e
      let zero : List Token :=
        if part = 3 then [wordTok e.vecOut 0 0 p.arcs]
        else if part = 0 then []
        else ((List.range 7).filter (fun b => bit (x.lane 4).toNat (2 + b))).map (fun _ => wordTok e.vecOut 1 0 p.arcs)
      s2.setWalk e (some { p with slot := p.slot + 1, pend := zero, gone := p.gone + 1, made := p.made + (if part = 3 then 1 else 0) })
    | .got s2 (.page k token) =>
      let s2 := s2.useStream e
      if part = 3 then s2.setWalk e (some { p with slot := p.slot + 1, pend := [wordTok e.vecOut 0 token p.arcs], made := p.made + 1 })
      else
        let (s3, page) := s2.walkRead e k 32768
        let (toks, n, fl) := walkTokens e x slot e.m.topk page p.arcs
        if part = 0 && n != 0 && e.m.topk.isNone then s3.faultStream e.tile e.g formatFault
        else (s3.tileFlags e.tile fl).setWalk e (some { p with slot := p.slot + 1, pend := toks, made := p.made + n })

/-- A request is taken from the queue (R219). -/
def State.takeRequest (s : State) (e : SEnv) (k : Token) : State :=
  let x := k.pay.vec
  let bad := walkBad x e.vecOut
  let s := s.takeTok e k
  if k.tag != 0 then s
  else if bad != 0 then s.raiseFault e.r.num e.t.leaf e.tile e.g.val 0 true (cfgFault bad) none
  else s.setWalk e (some ⟨x, 0, 0, 0, k.arcs.join e.gen.arcs, []⟩)

/-- WALK_REQUEST: a step of a sequence walk: it takes a request, visits a slot, sends a token or hands a candidate to the top-k unit, or ends the
request with end-of-pass (R219, R220, R281). -/
def execWalkRequest (tile : Nat) (g : Fin 4) (s : State) : Host.Outcome State Fault Refusal :=
  match s.stream? tile g with
  | none => .next s
  | some e =>
    if !e.runs s || e.kind != 8 then .next s
    else
      match e.gen.walk with
      | none => match e.head with | none => .next s | some k => .next (s.takeRequest e k)
      | some p =>
        match p.pend with
        | k :: rest =>
          if walkPart p.lanes = 0 then
            if s.cycle < e.m.tkBusy then .next s
            else
              match e.m.topk with
              | none => .next (s.faultStream tile g formatFault)
              | some b => .next ((s.serveInsert tile b.off (candidate true k.pay)).setWalk e (some { p with pend := rest }))
          else if e.room then .next ((s.emit e k).setWalk e (some { p with pend := rest }))
          else .next s
        | [] =>
          if p.slot < (p.lanes.lane 3).toNat then .next (s.visitSlot e p)
          else if e.room then
            let w : Word := BitVec.ofNat 64 (p.made % 2 ^ 32 + p.gone % 2 ^ 32 * 2 ^ 32)
            .next ((s.emit e (wordTok e.vecOut 2 w p.arcs)).setWalk e none)
          else .next s

end Sys2Proof.Machine
end

