-- ==== Sys2Proof/Machine/Transfers.lean ====
section
/-!
DEFINITION. Transfers and channels: XREQ, XEXP, TRANSFER_ACCEPT, TRANSFER_GRANULE, CHANNEL_TOKEN (R141 to R144, R403, R405 to R407), and the
copies of COPY packets (R198, R199).
-/
namespace Sys2Proof.Machine

/-! ## XREQ and XEXP -/

/-- XREQ: one request token, marked with the firing's site (R405). -/
def execXreq (t : Trig) (o : Fin 4) (a : VSrc) (s : State) : Host.Outcome State Fault Refusal :=
  fire (.xreq t o a) s (fun e s => .done (s.send e o 0 (.v (e.v a)) (.xreq e.site.ctx e.site.slot)) 0)

/-- A channel of a region by its leaf and its own number (R403). -/
def Region.chan? (r : Region) (leaf n : Nat) : Option Chan := if n = 0 then none else SMap.find? r.chans (leaf * 4096 + n)

/-- A channel of a region changed. -/
def State.modChan (s : State) (region leaf n : Nat) (f : Chan → Chan) : State :=
  s.modRegion region (fun r => match r.chan? leaf n with | none => r | some c => { r with chans := SMap.put r.chans (leaf * 4096 + n) (f c) })

/-- The detail of an XEXP fault: the channel and P (R210, R403). -/
def chanDetail (n p : Nat) : Word := BitVec.ofNat 64 (n % 4096 + p % 2 ^ 24 * 4096)

/-- XEXP: an expectation is posted to a channel (R143, R403). -/
def execXexp (t : Trig) (a : SSrc) (s : State) : Host.Outcome State Fault Refusal :=
  fire (.xexp t a) s (fun e s =>
    let x := (e.s a).toNat
    let c := bits x 11 0
    let n := bits x 35 12
    match e.region.chan? e.ctx.leaf c with
    | none => .fault (if bits x 63 36 != 0 then ⟨kProt, 3, chanDetail c 0⟩ else ⟨kProt, 0, chanDetail c 0⟩)
    | some ch =>
      if bits x 63 36 != 0 then .fault ⟨kProt, 3, chanDetail c ch.p⟩
      else if 16777215 < ch.p + n then .fault ⟨kChannel, 0, chanDetail c ch.p⟩
      else .done (s.modChan e.ctx.region e.ctx.leaf c (fun ch => { ch with p := ch.p + n, arcs := ch.arcs.join e.arcs })) 0)

/-! ## The request (R141, R142) -/

/-- The four words of a request in a vector (R142). -/
def reqWords (x : Vec) : List Word :=
  let n := (List.range 16).foldr (fun i acc => (x.lane i).toNat + 2 ^ 40 * acc) 0
  (List.range 4).map (fun k => BitVec.ofNat 64 (n / 2 ^ (64 * k)))

/-- Lane 6 bits [39:16] and lanes 7 to 15 are zero (R142). -/
def reqTail (x : Vec) : Bool := bits (x.lane 6).toNat 39 16 == 0 && (List.range 16).all (fun n => decide (n < 7) || x.lane n == 0)

/-- Word k of a transfer as a number. -/
def Transfer.word (x : Transfer) (k : Nat) : Nat := ((x.words[k]?).getD 0).toNat
/-- KIND. -/
def Transfer.kind (x : Transfer) : Nat := bits (x.word 0) 3 0
/-- LEN. -/
def Transfer.len (x : Transfer) : Nat := bits (x.word 0) 39 8
/-- COUNT. -/
def Transfer.count (x : Transfer) : Nat := bits (x.word 3) 35 12
/-- CHAN. -/
def Transfer.chan (x : Transfer) : Nat := bits (x.word 3) 11 0
/-- STRIDE in bytes. -/
def Transfer.stride (x : Transfer) : Int := sfield (x.word 3) 63 48 * 16
/-- The granules that a transfer moves. -/
def Transfer.total (x : Transfer) : Nat := x.len / 16 * x.count

/-- The cause of a request that is dropped, 0 for a sound one (R141, R142, R209). -/
def Transfer.bad (x : Transfer) : Nat :=
  let w0 := x.word 0
  let k := x.kind
  let flash := k == 3 || k == 4
  let block (w : Nat) : Bool := bits w 63 50 != 0
  if 4 < k then 3
  else if !x.ok || bits w0 7 4 != 0 || bits w0 63 40 != 0 || bits (x.word 3) 47 36 != 0 || ((k == 0 || flash) && x.stride != 0)
      || (k == 3 && block (x.word 1)) || (k == 4 && block (x.word 2)) then 4
  else if x.len = 0 || x.count = 0 || x.len % (if flash then 4096 else 16) != 0 then 5
  else 0

/-! ## Where a granule lies -/

/-- A granule of a memory tile, of memory by its virtual address, of a drive, of memory by its key. -/
inductive Spot where
  | tile (t off : Nat)
  | va (a : Nat)
  | flash (k : Nat)
  | key (k : Nat)
deriving DecidableEq, Repr

/-- The granule at an offset from an address (R124, R406). -/
def spotAt (r : Region) (leaf : Nat) (w : Word) (delta : Int) : Except FaultInfo Spot :=
  let n := w.toNat
  if bit n 63 then
    match r.localTile leaf n with
    | none => .error ⟨kProt, 1, w⟩
    | some t =>
      let off : Int := (bits n 18 0 : Nat) + delta
      if bits n 62 30 != 0 then .error ⟨kProt, 1, w⟩
      else if off % 16 != 0 || off < 0 || decide (((2 ^ 19 - 16 : Nat) : Int) < off) then .error ⟨kProt, 3, w⟩
      else .ok (.tile t off.toNat)
  else .ok (.va (BitVec.ofInt 64 ((n : Int) + delta)).toNat)

/-- The offsets of granule `p` from SOURCE and from DEST (R144, R406). -/
def Transfer.deltas (x : Transfer) (p : Nat) : Int × Int :=
  let g := x.len / 16
  let flat (p : Nat) : Int := ((16 * p : Nat) : Int)
  let seg : Int := ((p / g : Nat) : Int) * x.stride + ((16 * (p % g) : Nat) : Int)
  match x.kind with
  | 1 => (seg, flat p)
  | 2 => (flat p, seg)
  | 0 => let q := if x.word 1 < x.word 2 then x.total - 1 - p else p; (flat q, flat q)
  | _ => (flat p, flat p)

/-- The spots of granule `p`. -/
def Transfer.spots (x : Transfer) (r : Region) (p : Nat) : Except FaultInfo (Spot × Spot) :=
  let (ds, dd) := x.deltas p
  let disk (w : Nat) (d : Int) : Spot := .flash (flashKey (bits w 49 48) (bits w 47 0 * 4096 + d.toNat))
  let src := if x.kind = 3 then .ok (disk (x.word 1) ds) else spotAt r x.leaf (BitVec.ofNat 64 (x.word 1)) ds
  let dst := if x.kind = 4 then .ok (disk (x.word 2) dd) else spotAt r x.leaf (BitVec.ofNat 64 (x.word 2)) dd
  match src, dst with
  | .ok a, .ok b => .ok (a, b)
  | .error f, _ => .error f
  | _, .error f => .error f

/-! ## Faults of a transfer (R142) -/

/-- A transfer changed. -/
def State.modTransfer (s : State) (id : Nat) (f : Transfer → Transfer) : State := { s with transfers := mapIf (fun x => x.id == id) f s.transfers }

/-- A transfer ends. -/
def State.dropTransfer (s : State) (id : Nat) : State := { s with transfers := s.transfers.filter (fun x => x.id != id) }

/-- The fault token of a transfer goes to the bound queue of its channel, or to the fault port when it has none (R142, R209, R210). -/
def State.transferFault (s : State) (x : Transfer) (f : FaultInfo) : State :=
  let s := s.dropAbsent.dropTransfer x.id
  match s.region? x.region with
  | none => s
  | some r =>
    if r.ended then s else
    match r.chan? x.leaf x.chan, r.freeRec with
    | some c, some e =>
      let (fx, fy) := r.rel x.leaf x.tile
      let w := faultWord f fx fy x.ctx.val x.slot.val false e
      let s := s.modRegion r.num (fun y => { y with frec := Vector.upd y.frec e (some f.detail), faulted := y.faulted.or (some (f.kind, w, f.detail)) })
      (State.fresh { s with faultToks := s.faultToks ++ [⟨s.nextId, r.num, r.base + c.tile, c.q, w, s.within 63, none⟩] }).tick
    | _, _ => s.raiseFault x.region x.leaf x.tile x.ctx.val x.slot.val false f none

/-! ## Acceptance (R406) -/

/-- The bytes of a memory tile as a transfer finds them: a drained region's tiles are in its checkpoint (R407). -/
def State.spotBytes (s : State) (r : Region) (t off : Nat) : List Byte :=
  match r.save with
  | some p => readBytes p.sram (sramKey t off) 16
  | none => if r.placed then s.sramBytes t off 16 else List.replicate 16 0

/-- A local granule marked empty, or written and marked full (R142, R407). -/
def State.putSpot (s : State) (r : Region) (t off : Nat) (bs : Option (List Byte)) : State :=
  match r.save with
  | some _ =>
    s.modRegion r.num (fun r => { r with save := r.save.map (fun p => { p with
      sram := (match bs with | some b => writeBytes p.sram (sramKey t off) b | none => p.sram)
      full := SMap.write false p.full (t * 2 ^ 15 + off / 16) bs.isSome }) })
  | none =>
    if r.placed then (match bs with | some b => s.storeSram t off b | none => s.setFull t (off / 16) false) else s

/-- The local destination granules of a request are marked empty (R142). -/
def State.emptyDest (s : State) (r : Region) (x : Transfer) : State :=
  if bit (x.word 2) 63 && x.kind != 4 then
    (List.range x.total).foldl (fun (s : State) p =>
      match x.spots r p with
      | .ok (_, .tile t off) => s.putSpot r t off none
      | _ => s) s
  else s

/-- The transfers in progress at a unit. -/
def State.unitLoad (s : State) (die port : Nat) : Nat := (s.transfers.filter (fun y => y.accepted && y.die == die && y.port == port)).length

/-- TRANSFER_ACCEPT: a transfer unit with room for one of its 16 transfers takes a request, or a COPY packet's, which starts (R199, R406). A request of a
region that has stopped is dropped (R407). -/
def execTransferAccept (id : Nat) (s : State) : Host.Outcome State Fault Refusal :=
  match s.transfers.find? (fun x => x.id == id) with
  | none => .next s
  | some x =>
    if x.accepted || decide (s.cycle < x.due) || decide (16 ≤ s.unitLoad x.die x.port) then .next s
    else
      match x.isCopy with
      | some p => .next (((s.modPacket p (fun k => { k with st := .started })).modTransfer id (fun y => { y with accepted := true, due := s.after 1 })).tick)
      | none =>
        match s.region? x.region with
        | none => .next (s.dropTransfer id)
        | some r =>
          if !(r.phase == .armed || r.phase == .retiring || r.phase == .halting) then .next (s.dropTransfer id)
          else if x.bad != 0 then .next (s.transferFault x (cfgFault x.bad))
          else .next (((s.emptyDest r x).modTransfer id (fun y => { y with accepted := true, due := s.after 1 })).tick)

/-! ## Granules (R143, R144, R406) -/

/-- The outcome of a granule's read or write: a fault, a wait for a page or for room, or the state and the bytes with the range of memory. -/
inductive Moved where
  | fault (f : FaultInfo)
  | wait (s : State)
  | ok (s : State) (bs : List Byte) (mem : Option Rng)

/-- The entries of the stream ports that face the region's rows, which are alike (R250, R406). -/
def Region.rowEntries (r : Region) : List RangeEnt := ((r.ports.find? (fun e => decide (64 ≤ e.1))).map Prod.snd).getD []

/-- A transfer that meets a page that is not resident is withheld (R138). -/
def State.holdTransfer (s : State) (x : Transfer) (a : Nat) (t : Trans) : State :=
  s.holdAccess (portNo x.die x.port) x.region a t (fun s => s.modTransfer x.id (fun y => { y with withheld := keptSince y.withheld s.time a }))

/-- A granule read. -/
def State.readSpot (s : State) (r : Region) (x : Transfer) (sp : Spot) : Moved :=
  match sp with
  | .tile t off => .ok s (s.spotBytes r t off) none
  | .flash k => .ok s (readBytes s.flash k 16) none
  | .key k => .ok s (s.homeBytes k 16) none
  | .va a =>
    match s.translate (some (portNo x.die x.port)) r.rowEntries a 16 16 .rd with
    | .fault f => .fault f
    | .absent p t g n => .wait (s.holdTransfer x a (.absent p t g n))
    | .walk p => .wait (s.holdTransfer x a (.walk p))
    | .ok k _ =>
      let (s, bs) := s.readAccess r.num x.die (s.orderedTask x.task) k 16 1
      .ok (s.modRegion r.num (fun g => g.widen x.die (s.homePort x.die k) false (rngOf k 16))) bs none

/-- A granule written. -/
def State.writeSpot (s : State) (r : Region) (x : Transfer) (sp : Spot) (bs : List Byte) : Moved :=
  match sp with
  | .tile t off => .ok (s.putSpot r t off (some bs)) bs none
  | .flash k => .ok { s with flash := writeBytes s.flash k bs } bs none
  | .key k => .ok ((s.storeHome k bs).clearRecords k 16) bs none
  | .va a =>
    match s.translate (some (portNo x.die x.port)) r.rowEntries a 16 16 .wr with
    | .fault f => .fault f
    | .absent p t g n => .wait (s.holdTransfer x a (.absent p t g n))
    | .walk p => .wait (s.holdTransfer x a (.walk p))
    | .ok k pte =>
      let task := s.orderedTask x.task
      let blockers := s.storeBlockers x.die task k 16
      if !blockers.isEmpty then
        match task.bind (fun t => s.abortFor t blockers) with
        | some young => .wait (s.abortTask young)
        | none => .wait s
      else
        let s := (s.writeAccess r.num x.die task k bs 1).dirtyPage pte
        .ok (s.modRegion r.num (fun g => g.widen x.die (s.homePort x.die k) true (rngOf k 16))) bs (some (rngOf k 16))

/-- A granule has been written: it counts as an arrival of the channel; after the last the transfer has ended. -/
def State.granuleDone (s : State) (x : Transfer) (mem : Option Rng) : State :=
  let s := s.modChan x.region x.leaf x.chan (fun c => { c with a := c.a + 1, arcs := (c.arcs.join x.arcs).join { writes := mem.toList } })
  if x.total ≤ x.donePos + 1 then s.dropTransfer x.id
  else (s.modTransfer x.id (fun y => { y with donePos := x.donePos + 1, due := s.after 1, withheld := none })).tick

/-- The port tile gives its access of this cycle to its transfer unit (R145). -/
def State.useUnit (s : State) (x : Transfer) : State := s.usePort (portNo x.die x.port) 5 none

/-- The next granule of a region's transfer. -/
def State.moveGranule (s : State) (x : Transfer) (r : Region) : State :=
  match x.spots r x.donePos with
  | .error f => (s.useUnit x).transferFault x f
  | .ok (a, b) =>
    match s.readSpot r x a with
    | .fault f => (s.useUnit x).transferFault x f
    | .wait s => s
    | .ok s bs _ =>
      match s.writeSpot r x b bs with
      | .fault f => (s.useUnit x).transferFault x f
      | .wait s => s
      | .ok s _ mem => (s.useUnit x).granuleDone x mem

/-- The next granule of a COPY packet (R198); after the last the packet completes. A copy upwards runs downwards (R144). -/
def State.copyGranule (s : State) (x : Transfer) (p : Nat) : State :=
  let n := x.word 2 / 16
  if n ≤ x.donePos then (s.dropTransfer x.id).endPacket p { status := 0 }
  else
    let q := if x.word 0 < x.word 1 then n - 1 - x.donePos else x.donePos
    let bs := s.homeBytes (domKey (x.word 0) + 16 * q) 16
    let k := domKey (x.word 1) + 16 * q
    let s := ((((s.useUnit x).storeHome k bs).clearRecords k 16).watch x.die (domKey (x.word 0) + 16 * q) 16 0 1).watch x.die k 16 1 1
    if n ≤ x.donePos + 1 then (s.dropTransfer x.id).endPacket p { status := 0 }
    else (s.modTransfer x.id (fun y => { y with donePos := x.donePos + 1, due := s.after 1 })).tick

/-- TRANSFER_GRANULE: a transfer reads and writes its next granule, once its port tile has given its transfer unit the access (R145); one that would
overflow its channel's arrival count is held back (R143). A transfer that has been accepted runs to its end though its region is drained or has
stopped (R407). -/
def execTransferGranule (id : Nat) (s : State) : Host.Outcome State Fault Refusal :=
  match s.transfers.find? (fun x => x.id == id) with
  | none => .next s
  | some x =>
    if !x.accepted || decide (s.cycle < x.due) || !s.portFree (portNo x.die x.port) then .next s
    else
      match x.isCopy with
      | some p => .next (s.copyGranule x p)
      | none =>
        match s.region? x.region with
        | none => .next (s.dropTransfer id)
        | some r =>
          if x.withheld.any (fun w => s.pageAbsent r.rowEntries w.2) then .next s
          else
            match r.chan? x.leaf x.chan with
            | some c => if 16777215 ≤ c.a then .next s else .next (s.moveGranule x r)
            | none => .next (s.moveGranule x r)

/-! ## Channels (R143) -/

/-- CHANNEL_TOKEN: a channel with P > 0 and A ≥ P sends its token; `ch` is its leaf * 4096 + number. -/
def execChannelToken (region ch : Nat) (s : State) : Host.Outcome State Fault Refusal :=
  match s.region? region with
  | none => .next s
  | some r =>
    match SMap.find? r.chans ch with
    | none => .next s
    | some c =>
      let t := r.base + c.tile
      match s.tile? t with
      | none => .next s
      | some x =>
        if (r.phase == .armed || r.phase == .retiring) && decide (0 < c.p) && decide (c.p ≤ c.a)
            && decide ((x.iq.get c.q).length < 4) then
          let k : Token := { tag := 0, pay := kindPay (x.iqKind.getLsbD c.q.val) (BitVec.ofNat 64 c.p), arcs := c.arcs }
          .next ((s.enqueue t c.q k).modChan region (ch / 4096) (ch % 4096) (fun y => { y with
            a := y.a - y.p, p := 0, arcs := if y.a ≤ y.p then {} else y.arcs }))
        else .next s

end Sys2Proof.Machine
end

