-- ==== Sys2Proof/Machine/Collect.lean ====
section
/-!
DEFINITION. Collectives: CRDY and CSLOT, the engine of a die, chunks that arrive, the completion of an operation, the reduction slots of a
switch, and the slots that elements lend to the engine (R116, R117, R191, R192, R226 to R237, R284, R285, R301, R302).
-/
namespace Sys2Proof.Machine

/-! ## Tile-table entries (R228) -/

/-- COMM. -/
def TEntry.comm (e : TEntry) : Nat := bits e.word.toNat 5 0
/-- OP. -/
def TEntry.op (e : TEntry) : Nat := bits e.word.toNat 9 6
/-- FMT. -/
def TEntry.fmt (e : TEntry) : Nat := bits e.word.toNat 13 10
/-- RECV. -/
def TEntry.recv (e : TEntry) : Bool := e.word.getLsbD 14
/-- The number of destinations. -/
def TEntry.dests (e : TEntry) : Nat := bits e.word.toNat 16 15 + 1
/-- NCHUNK. -/
def TEntry.nchunk (e : TEntry) : Nat := bits e.word.toNat 27 17
/-- EXPECT. -/
def TEntry.expect (e : TEntry) : Nat := bits e.word.toNat 37 28
/-- LOCAL. -/
def TEntry.local' (e : TEntry) : Nat := bits e.word.toNat 113 64
/-- DESTd. -/
def TEntry.dest (e : TEntry) (d : Nat) : Nat := bits e.word.toNat (64 * d + 177) (64 * d + 128)
/-- The elements of a chunk. -/
def TEntry.per (e : TEntry) : Nat := 1024 / fmtSize e.fmt
/-- The bytes of a chunk's part of the staging area of OP 2. -/
def TEntry.stage (e : TEntry) : Nat := 40 * e.per

/-- An entry changed. -/
def State.modEntry (s : State) (key : Nat) (f : TEntry → TEntry) : State :=
  match SMap.find? s.tables key with
  | none => s
  | some e => { s with tables := SMap.put s.tables key (f e) }

/-- An entry whose region has not stopped: an engine does nothing more for one that has (R301). -/
def State.entry? (s : State) (key : Nat) : Option TEntry :=
  match SMap.find? s.tables key with
  | none => none
  | some e => match s.region? e.region with | some r => if r.ended then none else some e | none => none

/-- The communicator of a TAG. -/
def State.comm? (s : State) (tag : BitVec 32) : Option (Nat × Comm) := s.comms.find? (fun c => c.2.tag == tag)

/-! ## The engine's accesses -/

/-- A byte at its home as a task sees it: its own pending version, else the committed contents (R166). -/
def State.ownByte (s : State) (task : Option Nat) (k : Nat) : Byte :=
  match task.bind (fun t => s.pend.find? (fun p => p.task == t && p.sec == k / 64 && p.mask.getLsbD (k % 64))) with
  | some p => secByte p.data k
  | none => (s.homeBytes k 1).headD 0

/-- The task of an entry's region. -/
def State.entryTask (s : State) (e : TEntry) : Nat := ((s.region? e.region).map Region.task).getD 0

/-- The engine reads for an entry: an access of the region, of Yapiza to the watchpoints (R262, R264, R265). -/
def State.engineRead (s : State) (e : TEntry) (die k n : Nat) : State × List Byte :=
  let task := s.orderedTask (s.entryTask e)
  let s := (s.reuse e.region die k n).watch die k n 0 2
  (s.modRegion e.region (fun r => r.widen die (s.homePort die k) false (rngOf k n)), (List.range n).map (fun i => s.ownByte task (k + i)))

/-- The engine writes for an entry: an ordered task's bytes stay pending (R166). -/
def State.engineWrite (s : State) (e : TEntry) (die k : Nat) (bs : List Byte) : State :=
  let s := match s.orderedTask (s.entryTask e) with
    | some t => s.storePending die t k bs
    | none => (s.storeHome k bs).clearRecords k bs.length
  let s := (s.reuse e.region die k bs.length).watch die k bs.length 1 2
  s.modRegion e.region (fun r => r.widen die (s.homePort die k) true (rngOf k bs.length))

/-- Flags of a collective's arithmetic reach the region of its entry (R101). -/
def State.entryFlags (s : State) (e : TEntry) (f : Flags) : State := s.modRegion e.region (fun r => { r with setNow := r.setNow ||| f })

/-- The staging area of chunk k of an OP 2 entry. -/
def TEntry.stageAt (e : TEntry) (k : Nat) : Nat := domKey e.local' + 1024 * e.nchunk + e.stage * k

/-- What the device does not define: `n` bytes from a counter. -/
def openBytes (c n : Nat) : List Byte := (List.range n).map (fun i => Config.freeByte (c + i))

/-- A chunk's part of the staging area takes bytes that the device does not define (R229). -/
def State.blurStage (s : State) (key k : Nat) : State :=
  match SMap.find? s.tables key with
  | none => s
  | some e =>
    let c := s.freeCtr
    State.modEntry { (s.engineWrite e (key / 1024) (e.stageAt k) (openBytes c e.stage)) with freeCtr := c + e.stage } key
      (fun e => { e with hold := SMap.put e.hold k c })

/-- A program has written to a chunk's part of the staging area (R229). -/
def State.stageSpoilt (s : State) (e : TEntry) (k : Nat) : Bool :=
  let a := e.stageAt k
  let task := s.orderedTask (s.entryTask e)
  match SMap.find? e.hold k with
  | none => false
  | some c => (List.range e.stage).any (fun i =>
      s.ownByte task (a + i) != Config.freeByte (c + i)
        || (List.range 4).any (fun d => (s.sector d ((a + i) / 64)).dirty.getLsbD ((a + i) % 64)))

/-! ## Combining (R100, R116, R117, R191, R233) -/

/-- An element of a chunk as it is combined: an integer, or a W40 value. -/
def chunkValue (fmt raw : Nat) : Word := if fmt = 10 then (BitVec.ofNat 32 raw).signExtend 64 else (loadElem fmt raw).1.setWidth 64

/-- Two elements combined under OP 1, 3 or 4, a sum rounded once to W40 (R117). A NaN in either operand gives NaN. -/
def accValue (op fmt : Nat) (a v : Word) : Word × Flags :=
  if fmt = 10 then (if op = 3 then (if a.toInt < v.toInt then v else a) else (if v.toInt < a.toInt then v else a), 0)
  else
    let x : Lane := a.setWidth 40
    let y : Lane := v.setWidth 40
    if op = 1 then let r := fAdd x y; (r.1.setWidth 64, r.2)
    else if (unpack x).isNan || (unpack y).isNan then (nanW.setWidth 64, 0)
    else ((if op = 3 then (fMax x y).1 else (fMin x y).1).setWidth 64, 0)

/-- An accumulated element rounded once to its format. -/
def accBits (fmt : Nat) (w : Word) : Nat × Flags := if fmt = 10 then (w.toNat % 2 ^ 32, 0) else storeElem fmt (.mode .rne) (w.setWidth 40)

/-- The elements of a chunk's data. -/
def chunkElems (fmt : Nat) (bs : List Byte) : List Nat := (List.range (1024 / fmtSize fmt)).map (fun i => fieldAt bs (fmtSize fmt * i) (fmtSize fmt))

/-- The elements that a chunk brings: its data's, or a switch's partial ones (R117). -/
def Chunk.values (c : Chunk) : List Word := if c.wide.isEmpty then (chunkElems c.fmt.val c.data).map (chunkValue c.fmt.val) else c.wide

/-- A chunk combined into the exact accumulators of an OP 2 entry (R116). -/
def TEntry.combineExact (e : TEntry) (c : Chunk) : TEntry × Flags :=
  (chunkElems e.fmt c.data).zipIdx.foldl (fun (a : TEntry × Flags) (raw, i) =>
    let n := e.per * c.index + i
    let r := exactAdd ((SMap.find? a.1.exact n).getD 0) ((SMap.find? a.1.sticky n).getD RedElem.zero) (unpack (loadElem e.fmt raw).1)
    ({ a.1 with exact := SMap.put a.1.exact n r.1, sticky := SMap.put a.1.sticky n r.2.1 }, a.2 ||| r.2.2)) (e, 0)

/-- The places of the elements in the bytes from `lo` to `hi` of a chunk. -/
def TEntry.piece (e : TEntry) (lo hi : Nat) : List Nat := (List.range e.per).filter (fun i => decide (lo ≤ i * fmtSize e.fmt) && decide (i * fmtSize e.fmt < hi))

/-- The bytes from `lo` to `hi` of a chunk combined into the accumulators of an entry of OP 1, 3 or 4; the first contribution stands as it is. -/
def TEntry.combine (e : TEntry) (c : Chunk) (lo hi : Nat) : TEntry × Flags :=
  let vs := Chunk.values c
  (e.piece lo hi).foldl (fun (a : TEntry × Flags) i =>
    let n := e.per * c.index + i
    let v := vs.getD i 0
    let r := match SMap.find? a.1.acc n with | none => (v, 0) | some x => accValue e.op e.fmt x v
    ({ a.1 with acc := SMap.put a.1.acc n r.1 }, a.2 ||| r.2)) (e, 0)

/-- Two summaries merged as SMERGE merges them; where SMERGE would refuse them the result is not stated. -/
def mergeSums (dst src : List Byte) (free : Nat) : List Byte :=
  match sumKind dst, sumKind src with
  | some a, some b => if a == b && sumValid dst a && sumValid src a then (sumMerge a dst src).1 else openBytes free 4096
  | _, _ => openBytes free 4096

/-- The lowest rank of a bitmap. -/
def lowRank (b : BitVec 640) : Nat := ((List.range 640).find? (fun r => b.getLsbD r)).getD 0

/-- The ranks of a bitmap. -/
def rankCount (b : BitVec 640) : Nat := ((List.range 640).filter (fun r => b.getLsbD r)).length

/-- The communicator of an entry is in deterministic mode. -/
def State.entryDet (s : State) (e : TEntry) : Bool := ((SMap.find? s.comms e.comm).map Comm.det).getD false

/-- A chunk of a summary: staged by its rank in deterministic mode, else merged once its rank's four chunks are there (R192, R229, R237). -/
def State.takeSum (s : State) (key : Nat) (e : TEntry) (k r : Nat) (bs : List Byte) : State :=
  if s.entryDet e then s.engineWrite e (key / 1024) (domKey e.local' + 4096 * (r + 1) + 1024 * k) bs
  else
    let ps := SMap.put e.parts (4 * r + k) bs
    let mine := (List.range 4).map (fun i => SMap.find? ps (4 * r + i))
    if mine.all Option.isSome then
      let whole := (mine.filterMap id).flatten
      let ps := ps.filter (fun x => x.1 / 4 != r)
      match e.merged with
      | none => s.modEntry key (fun e => { e with parts := ps, merged := some whole })
      | some d => State.modEntry { s with freeCtr := s.freeCtr + 4096 } key (fun e => { e with parts := ps, merged := some (mergeSums d whole s.freeCtr) })
    else s.modEntry key (fun e => { e with parts := ps })

/-- A chunk brings a rank whose bit is set already, or a second copy (R233). -/
def TEntry.duplicate (e : TEntry) (c : Chunk) : Bool :=
  ((SMap.find? e.ranks c.index).getD 0) &&& c.ranks != 0 || (e.op == 0 && e.written.contains c.index)

/-- A duplicate is a MachineCheck of the region that posted the entry (R233). -/
def State.duplicateCheck (s : State) (e : TEntry) (c : Chunk) : State := s.first (.ev (.machineCheck 5 (e.local' + 1024 * c.index) e.region))

/-- The contributors of a chunk are marked. -/
def State.markRanks (s : State) (key : Nat) (c : Chunk) : State :=
  s.modEntry key (fun e => { e with ranks := SMap.put e.ranks c.index ((SMap.find? e.ranks c.index).getD 0 ||| c.ranks) })

/-- A chunk of OP 0, 2 or 5 combined into its receiving entry by the engine itself (R233). -/
def State.takeChunk (s : State) (key : Nat) (e : TEntry) (c : Chunk) : State :=
  let k := c.index
  if e.duplicate c then s.duplicateCheck e c
  else
    let s := s.markRanks key c
    if e.op = 0 then (s.engineWrite e (key / 1024) (domKey e.local' + 1024 * k) c.data).modEntry key (fun e => { e with written := e.written ++ [k] })
    else if e.op = 5 then s.takeSum key e k (lowRank c.ranks) c.data
    else
      let r := e.combineExact c
      let s := (s.modEntry key (fun x => { x with exact := r.1.exact, sticky := r.1.sticky })).entryFlags e r.2
      (s.modEntry key (fun x => { x with spoilt := x.spoilt || s.stageSpoilt e k })).blurStage key k

/-! ## Sending and arriving (R231, R233, R235, R285) -/

/-- A chunk has been accepted: so have those of the sending entries that it carries. -/
def State.creditSender (s : State) (c : Chunk) : State :=
  c.senders.foldl (fun s (die, n) => s.modEntry (die * 1024 + n) (fun e => { e with accepted := e.accepted + 1 })) s

/-- A refused chunk is set aside by the engine that sent it, to be offered again after 256 cycles (R285). -/
def State.setAside (s : State) (c : Chunk) : State :=
  match c.senders with
  | [] => s
  | (die, _) :: _ =>
    let e := Vector.at (n := 3) s.engines die
    State.fresh { s with engines := Vector.upd (n := 3) s.engines die { e with refused := e.refused ++ [(s.nextId, c, s.cycle + 256)] } }

/-- The posted entry that a chunk belongs to. -/
def State.entryFor (s : State) (comm : Nat) (c : Chunk) : Option Nat :=
  (s.tables.find? (fun (k, e) => e.recv && e.rq.isSome && (s.entry? k).isSome && e.comm == comm
    && decide (e.local' + 1024 * c.index = c.dest.toNat) && decide (c.index < e.nchunk))).map Prod.fst

/-- Work becomes ready at an engine. -/
def State.addWork (s : State) (die comm : Nat) (w : EngWork) : State :=
  let e := Vector.at (n := 3) s.engines die
  { s with engines := Vector.upd (n := 3) s.engines die { e with queue := e.queue ++ [(comm, w)] } }

/-- The chunks of 1 KiB that a pool of 64 KiB holds (R227). -/
def poolSize : Nat := 64

/-- A chunk is addressed to another package. -/
def Chunk.foreign (c : Chunk) : Bool := c.dest.toNat / 2 ^ 40 != Config.ownPackage

/-- CHUNK_ARRIVE: the chunk becomes ready for its posted entry, or is parked; while the pool is full its channel holds it; a TAG that no region
has loaded refuses it, and its engine offers it again after 256 cycles (R233, R235, R284, R285). At another package it is accepted or refused there, which
is that package's own state (log 46). -/
def execChunkArrive (c : Chunk) (s : State) : Host.Outcome State Fault Refusal :=
  if Chunk.foreign c then .next (if Config.refusesChunk s.freeCtr then (s.setAside c).tick else (s.creditSender c).tick)
  else
  match s.comm? c.tag with
  | none => .next (s.setAside c)
  | some (i, m) =>
    match s.entryFor i c with
    | some key => .next ((s.addWork (key / 1024) i (.take key c)).creditSender c)
    | none =>
      if m.pool.length < poolSize then .next (State.creditSender { s with comms := SMap.put s.comms i { m with pool := m.pool ++ [c] } } c)
      else .next (s.at (s.cycle + 1) (.chunkArrive c))

/-- CHUNK_REOFFER: a refused chunk is offered again (R285). -/
def execChunkReoffer (i : Nat) (s : State) : Host.Outcome State Fault Refusal :=
  match (List.range 4).findSome? (fun d => ((Vector.at (n := 3) s.engines d).refused.find? (fun x => x.1 == i)).map (fun x => (d, x))) with
  | none => .next s
  | some (d, _, c, due) =>
    if s.cycle < due then .next s
    else
      let e := Vector.at (n := 3) s.engines d
      execChunkArrive c { s with engines := Vector.upd (n := 3) s.engines d { e with refused := e.refused.filter (fun x => x.1 != i) } }

/-- A chunk leaves towards its package, where it arrives no sooner than a cycle later (R231). -/
def State.towards (s : State) (c : Chunk) : State := (s.at (s.after 1) (.chunkArrive c)).tick

/-- A chunk of a sending entry (R231, R233): one for another package passes a switch if its communicator and its OP ask for that (R234). -/
def State.sendChunk (s : State) (key : Nat) (e : TEntry) (k d : Nat) : State :=
  match SMap.find? s.comms e.comm with
  | none => s
  | some m =>
    let (s, bs) := s.engineRead e (key / 1024) (domKey e.local' + 1024 * k) 1024
    let c : Chunk := {
      tag := m.tag, dest := BitVec.ofNat 50 (e.dest d + 1024 * k), index := k
      op := ⟨e.op % 16, Nat.mod_lt _ (by decide)⟩, fmt := ⟨e.fmt % 16, Nat.mod_lt _ (by decide)⟩
      expect := e.expect, ranks := (1 : BitVec 640) <<< m.rank, data := bs, wide := [], senders := [(key / 1024, key % 1024)] }
    if Chunk.foreign c && m.swlimit != 0 && (e.op == 1 || e.op == 3 || e.op == 4) then (s.at (s.after 1) (.switchCombine c)).tick
    else s.towards c

/-! ## CRDY (R230, R231, R301) -/

/-- CRDY: the entry is checked; the writes with arcs to it are performed for every party before the engine reads. -/
def execCrdy (t : Trig) (q : Fin 4) (a : SSrc) (s : State) : Host.Outcome State Fault Refusal :=
  fire (.crdy t q a) s (fun e s =>
    let n := bits (e.s a).toNat 9 0
    let c := match e.region.coll with | some c => if n < c.count then some c else none | none => none
    match c with
    | none => s.issueFault e (.crdy t q a) ⟨kProt, 1, BitVec.ofNat 64 n⟩
    | some c =>
      let s := s.publish (tileDie e.site.tile) e.arcs
      .done (s.issue e (.crdy t q a) (BitVec.ofNat 64 (c.die * 1024 + c.base + n)) 0 0 (.s 0) (s.after 3)).tick 0)

/-- An operation starts at an entry (R231, R284): a sending entry's chunks become ready in ascending chunk, then destination; a receiving entry
is posted, its accumulators are zero, and the chunks parked for it become ready in the order of their arrival. -/
def State.startOp (s : State) (key rq : Nat) : State :=
  match SMap.find? s.tables key with
  | none => s
  | some e =>
    let s := s.modEntry key (fun e => { (TEntry.idle e.word e.region) with rq := some rq, parked := e.parked })
    if e.recv then
      let s : State := if e.op = 2 then (List.range e.nchunk).foldl (fun s k => State.blurStage s key k) s else s
      match SMap.find? s.comms e.comm with
      | none => s
      | some m =>
        let mine (c : Chunk) : Bool := decide (e.local' + 1024 * c.index = c.dest.toNat) && decide (c.index < e.nchunk)
        (m.pool.filter mine).foldl (fun s c => State.addWork s (key / 1024) e.comm (.take key c))
          { s with comms := SMap.put s.comms e.comm { m with pool := m.pool.filter (fun c => !mine c) } }
    else (List.range e.nchunk).foldl (fun s k => (List.range e.dests).foldl (fun s d => State.addWork s (key / 1024) e.comm (.send key k d)) s) s

/-- A CRDY that has reached the engine: one behind an operation that has not completed waits (R231). -/
def State.admitCrdy (s : State) (r : Req) : State :=
  let key := r.x.toNat
  match s.entry? key with
  | none => s
  | some e =>
    let s := s.modReq r.id (fun x => { x with st := .waiting })
    if e.rq.isSome then s.modEntry key (fun e => { e with parked := e.parked ++ [r.id] }) else s.startOp key r.id

/-- A request is a CRDY. -/
def isCrdy (i : Instr) : Bool := match i with | .crdy _ _ _ => true | _ => false

/-! ## The engine (R232, R236, R284) -/

/-- The entry that a piece of work is for. -/
def EngWork.entry : EngWork → Nat
  | .send e _ _ => e
  | .take e _ => e

/-- A piece of work is one that elements can help with: a combine under OP 1, 3 or 4 (R232). -/
def State.helped (s : State) (w : EngWork) : Bool :=
  match w with
  | .send _ _ _ => false
  | .take k _ => match SMap.find? s.tables k with | some e => e.op == 1 || e.op == 3 || e.op == 4 | none => false

/-- The elements of a die that lend a slot now. -/
def State.helpers (s : State) (die : Nat) : List Nat :=
  (s.tiles.filter (fun (t, x) => tileDie t == die && ((x.elem.bind Elem.cslot).map CSlot.running).getD false)).map Prod.fst

/-- A die's engine changed. -/
def State.modEngine (s : State) (die : Nat) (f : Engine → Engine) : State :=
  { s with engines := Vector.upd (n := 3) s.engines die (f (Vector.at (n := 3) s.engines die)) }

/-- A slot's buffers take an 80-byte piece of a chunk: what the entry held, what the chunk brings, and what the element returns (R232; log 9). -/
def CSlot.lend (c : CSlot) (old new : TEntry) (k : Chunk) (lo : Nat) : CSlot :=
  let ps := old.piece lo (lo + 80)
  let at' (m : SMap Word) : List Word := ps.filterMap (fun i => SMap.find? m (old.per * k.index + i))
  { c with opA := at' old.acc, opB := ps.map (fun i => (Chunk.values k).getD i 0), res := at' new.acc }

/-- One cycle of a combine under OP 1, 3 or 4: the engine combines 256 bytes of the chunk and each slot the 80 bytes that it is handed next; at the
chunk's end its contributors are marked (R232, R233). -/
def State.servePiece (s : State) (die key : Nat) (c : Chunk) : State :=
  let g := Vector.at (n := 3) s.engines die
  let ended (s : State) : State := s.modEngine die (fun g => { g with now := none, busy := s.cycle + 1 })
  match SMap.find? s.tables key with
  | none => ended s
  | some e =>
    if e.rq.isNone then ended s
    else if g.pos = 0 && e.duplicate c then ended (s.duplicateCheck e c)
    else
      let hs := s.helpers die
      let hi := g.pos + 256 + 80 * hs.length
      let r := e.combine c g.pos hi
      let s := (s.modEntry key (fun x => { x with acc := r.1.acc })).entryFlags e r.2
      let s := hs.zipIdx.foldl (fun (s : State) (t, j) =>
        s.modElem t (fun x => { x with cslot := x.cslot.map (fun l => l.lend e r.1 c (g.pos + 256 + 80 * j)) })) s
      if 1024 ≤ hi then ended (s.markRanks key c) else s.modEngine die (fun g => { g with pos := hi, busy := s.cycle + 1 })

/-- The engine has finished with a chunk, though the region of its entry may have stopped since (R301). -/
def State.finishWork (s : State) (w : EngWork) : State :=
  match SMap.find? s.tables w.entry with
  | none => s
  | some e =>
    match w with
    | .send k i d => s.sendChunk k e i d
    | .take k c => if e.rq.isSome then s.takeChunk k e c else s

/-- The priority class of a communicator. -/
def State.commPrio (s : State) (i : Nat) : Nat := ((SMap.find? s.comms i).map Comm.prio).getD 3

/-- The communicator to serve next (R236): the lowest PRIO, and among equals the first after the one served last. -/
def State.nextComm (s : State) (last : Nat) (cs : List Nat) : Option Nat :=
  (sortBy (fun a b => decide (s.commPrio a < s.commPrio b)
    || (s.commPrio a == s.commPrio b && decide ((a + 127 - last) % 64 < (b + 127 - last) % 64))) cs).head?

/-- The engine takes its next chunk; work for entries that are gone is dropped (R301). -/
def State.startWork (s : State) (die : Nat) : State :=
  let e := Vector.at (n := 3) s.engines die
  let queue := e.queue.filter (fun w => (s.entry? w.2.entry).isSome)
  match s.nextComm e.last (queue.map Prod.fst) with
  | none => { s with engines := Vector.upd (n := 3) s.engines die { e with queue := queue } }
  | some c =>
    match takeFirst (fun w => w.1 == c) queue with
    | none => s
    | some (w, rest) =>
      { s with engines := Vector.upd (n := 3) s.engines die { e with queue := rest, now := some w, busy := s.cycle + 4, pos := 0, last := c } }

/-- A cycle of the chunk in service: a piece of it is combined, or after 4 cycles, of 256 bytes each, the engine has finished with it. -/
def State.serveNow (s : State) (die : Nat) : State :=
  let e := Vector.at (n := 3) s.engines die
  match e.now with
  | none => s
  | some (_, w) =>
    match w, s.helped w with
    | .take k c, true => if e.busy ≤ s.cycle then s.servePiece die k c else s
    | w, _ => if e.busy ≤ s.cycle + 1 then (s.modEngine die (fun g => { g with now := none })).finishWork w else s

/-- ENGINE_CHUNK_SERVE: CRDYs that have arrived are admitted; the chunk in service goes on; at a chunk boundary the next is chosen. -/
def execEngineChunkServe (die : Fin 4) (s : State) : Host.Outcome State Fault Refusal :=
  let s := (s.arrived (fun r => isCrdy r.op && r.x.toNat / 1024 == die.val)).foldl State.admitCrdy s
  let s := s.serveNow die.val
  let e := Vector.at (n := 3) s.engines die.val
  if e.now.isNone && decide (e.busy ≤ s.cycle) then
    let s := s.startWork die.val
    match (Vector.at (n := 3) s.engines die.val).now with
    | some (_, .take k c) => .next (if s.helped (.take k c) then s.servePiece die.val k c else s)
    | some (_, .send _ _ _) | none => .next s
  else .next s

/-! ## Completion (R229, R230, R231, R237, R284) -/

/-- The operation of an entry has done all that it waits for. -/
def TEntry.ready (e : TEntry) : Bool :=
  e.rq.isSome && (if e.recv then (List.range e.nchunk).all (fun k => decide (e.expect ≤ rankCount ((SMap.find? e.ranks k).getD 0)))
    else e.accepted == e.nchunk * e.dests)

/-- The bitmaps of an entry's chunks, ORed. -/
def TEntry.allRanks (e : TEntry) : BitVec 640 := e.ranks.foldl (fun a x => a ||| x.2) 0

/-- A result's elements in their format, with the flags of the drain. -/
def TEntry.result (e : TEntry) : List Byte × Flags :=
  (List.range (e.nchunk * e.per)).foldl (fun (a : List Byte × Flags) n =>
    let r : Nat × Flags :=
      if e.op = 2 then
        let d := exactDrain ((SMap.find? e.exact n).getD 0) ((SMap.find? e.sticky n).getD RedElem.zero)
        let b := drainBits e.fmt (.mode .rne) d.1
        (b.1, d.2 ||| b.2)
      else accBits e.fmt ((SMap.find? e.acc n).getD 0)
    (a.1 ++ leBytes (fmtSize e.fmt) r.1, a.2 ||| r.2)) ([], 0)

/-- The summary that the staged contributions make, in ascending rank (R192). -/
def State.detSum (s : State) (e : TEntry) (die : Nat) : State × List Byte :=
  let rs := (List.range 640).filter (fun r => e.allRanks.getLsbD r)
  let read (s : State) (r : Nat) : State × List Byte := s.engineRead e die (domKey e.local' + 4096 * (r + 1)) 4096
  match rs with
  | [] => (s, [])
  | r :: rest => rest.foldl (fun (a : State × List Byte) r =>
      let (s, bs) := read a.1 r
      ({ s with freeCtr := s.freeCtr + 4096 }, mergeSums a.2 bs s.freeCtr)) (read s r)

/-- The result written at LOCAL, and the staging area of OP 2 zeroed. -/
def State.writeResult (s : State) (key : Nat) (e : TEntry) : State :=
  let die := key / 1024
  let k := domKey e.local'
  if e.op = 0 then s
  else if e.op = 5 then
    let (s, bs) := if s.entryDet e then s.detSum e die else (s, e.merged.getD [])
    s.engineWrite e die k bs
  else
    let r := e.result
    let n := r.1.length
    let spoilt := e.spoilt || (e.op == 2 && (List.range e.nchunk).any (s.stageSpoilt e))
    let s : State := { (s.engineWrite e die k (if spoilt then openBytes s.freeCtr n else r.1)) with freeCtr := s.freeCtr + n }
    let s := s.entryFlags e r.2
    if e.op = 2 then s.engineWrite e die (k + 1024 * e.nchunk) (List.replicate (e.stage * e.nchunk) 0) else s

/-- COLLECTIVE_COMPLETE: the result is written, then the reply is sent, no sooner than 3 cycles before it enters its queue; the next CRDY of the
entry starts. -/
def execCollectiveComplete (die : Fin 4) (entry : Nat) (s : State) : Host.Outcome State Fault Refusal :=
  let key := die.val * 1024 + entry
  match s.entry? key with
  | none => .next s
  | some e =>
    match e.rq with
    | none => .next s
    | some rq =>
      if e.ready then
        let n := if e.recv then rankCount e.allRanks else e.nchunk * e.dests
        let s := if e.recv then s.writeResult key e else s
        let s := (s.answer rq (.s (BitVec.ofNat 64 n)) none {} (s.after 3)).tick
        let s := s.modEntry key (fun e => { (TEntry.idle e.word e.region) with parked := e.parked.drop 1 })
        match e.parked with
        | [] => .next s
        | next :: _ => .next (s.startOp key next)
      else .next s

/-! ## Switches (R234) -/

/-- Two chunks' elements combined by a switch: each sum rounds once to W40, and only the destination rounds to the format (R117; log 95). -/
def switchData (a b : Chunk) : List Word := ((Chunk.values a).zip (Chunk.values b)).map (fun (x, y) => (accValue a.op.val a.fmt.val x y).1)

/-- Two chunks meet in one slot. -/
def Chunk.meets (a b : Chunk) : Bool := a.tag == b.tag && a.dest == b.dest && a.index == b.index

/-- A chunk's bitmap holds EXPECT bits. -/
def Chunk.full (c : Chunk) : Bool := c.expect != 0 && decide (c.expect ≤ rankCount c.ranks)

/-- SWITCH_COMBINE: a chunk of OP 1, 3 or 4 under a SWLIMIT takes a slot or is combined with the one there; a full bitmap is forwarded; any other
chunk passes through unchanged. -/
def execSwitchCombine (c : Chunk) (s : State) : Host.Outcome State Fault Refusal :=
  let limit := ((s.comm? c.tag).map (fun x => x.2.swlimit)).getD 0
  if limit = 0 || !(c.op.val == 1 || c.op.val == 3 || c.op.val == 4) then .next (s.towards c)
  else
    match takeFirst (fun (x : SwSlot) => Chunk.meets x.chunk c) s.switches with
    | none => if Chunk.full c then .next (s.towards c) else .next { s with switches := s.switches ++ [⟨c, s.cycle, limit⟩] }
    | some (x, rest) =>
      if x.chunk.expect != c.expect then .next (s.towards c)
      else
        let d : Chunk := { x.chunk with ranks := x.chunk.ranks ||| c.ranks, wide := switchData x.chunk c, senders := x.chunk.senders ++ c.senders }
        if Chunk.full d then .next (State.towards { s with switches := rest } d)
        else .next { s with switches := mapIf (fun (y : SwSlot) => Chunk.meets y.chunk c) (fun y => { y with chunk := d }) s.switches }

/-- SWITCH_LIMIT_EXPIRY: a slot whose first chunk came SWLIMIT cycles ago forwards its partial. -/
def execSwitchLimitExpiry (i : Nat) (s : State) : Host.Outcome State Fault Refusal :=
  match s.switches[i]? with
  | none => .next s
  | some x =>
    if x.since + x.limit ≤ s.cycle then .next (State.towards { s with switches := s.switches.take i ++ s.switches.drop (i + 1) } x.chunk)
    else .next s

/-! ## Collective slots (R232, R302) -/

/-- CSLOT: a slot is asked for; a length of 0 or above 2,048 is taken as 2,048. -/
def execCslot (t : Trig) (q : Fin 4) (a : SSrc) (s : State) : Host.Outcome State Fault Refusal :=
  fire (.cslot t q a) s (fun e s =>
    let l := bits (e.s a).toNat 11 0
    let id := s.nextId
    let s := s.ask { s.request e (.cslot t q a) (e.s a) 0 0 (.s 0) s.cycle with st := .waiting }
    .done (s.modElem e.site.tile (fun x => { x with cslot := some ⟨id, if l = 0 || 2048 < l then 2048 else l, false, 0, [], [], []⟩ })) 0)

/-- CSLOT_START: the slot swaps in at a cycle of index 0. -/
def execCslotStart (tile : Nat) (s : State) : Host.Outcome State Fault Refusal :=
  .next (s.modElem tile (fun e =>
    match e.cslot with
    | some c => if e.idx == 0 && !c.running && !e.haltedBy s.cycle then { e with cslot := some { c with running := true, start := s.cycle } } else e
    | none => e))

/-- The engine of a die has a chunk for an element: a combine of OP 1, 3 or 4 in service or waiting. -/
def State.hasHelp (s : State) (die : Nat) : Bool :=
  let e := Vector.at (n := 3) s.engines die
  (e.now.toList ++ e.queue).any (fun w => s.helped w.2)

/-- The cycles that a slot has lasted, this one among them; none while it must go on. -/
def State.slotOver (s : State) (tile : Nat) (e : Elem) (c : CSlot) : Option Nat :=
  let used := if c.running then s.cycle - c.start + 1 else 0
  if e.haltedBy s.cycle then some used
  else if c.running && (decide (c.len ≤ used) || !s.hasHelp (tileDie tile)) then some used
  else none

/-- CSLOT_END: the slot ends after its length, or in the first cycle without a chunk for it, or with a halt; its reply is the cycles used. -/
def execCslotEnd (tile : Nat) (s : State) : Host.Outcome State Fault Refusal :=
  match s.elem? tile with
  | none => .next s
  | some e =>
    match e.cslot with
    | none => .next s
    | some c =>
      match s.slotOver tile e c with
      | none => .next s
      | some n => .next ((s.modElem tile (fun x => { x with cslot := none })).answer c.rq (.s (BitVec.ofNat 64 n)) none {} (s.cycle + 1))

end Sys2Proof.Machine
end

