-- ==== Sys2Proof/Machine/Push.lean ====
section
/-!
DEFINITION. QPUSH at the queue it names, and RNEXT at the range unit of its region (R40, R41, R203, R356 to R358, R364, R365).
-/
namespace Sys2Proof.Machine

/-! ## QPUSH (R356 to R358) -/

/-- LOG2SIZE as a number of packets. -/
def Queue.size (q : Queue) : Nat := 2 ^ bits q.cfg.toNat 4 0
/-- DEVPUSH. -/
def Queue.devpush (q : Queue) : Bool := q.cfg.getLsbD 24
/-- The key of packet n of a queue's ring (R197). -/
def Queue.slotKey (q : Queue) (n : Nat) : Nat := domKey (q.base.toNat + 64 * (n % q.size))

/-- The lanes of a vector as one number, lane 0 lowest. -/
def vecNat (x : Vec) : Nat := (List.range 16).foldr (fun i acc => (x.lane i).toNat + 2 ^ 40 * acc) 0

/-- A bit that R356 requires to be zero is set: lane 12 [39:32], lane 13 [39:10], lanes 14 and 15. -/
def pushBad (n : Nat) : Bool := bits n 519 512 != 0 || bits n 639 530 != 0

/-- QPUSH: one atomic step at the target queue; the writes with arcs to it are performed for the package first. -/
def execQpush (t : Trig) (q : Fin 4) (a : VSrc) (m : Fin 8) (s : State) : Host.Outcome State Fault Refusal :=
  fire (.qpush t q a m) s (fun e s =>
    let n := vecNat (e.v a)
    let qn := bits n 529 520
    let k := s.queue qn
    let bad : FaultInfo := ⟨kProt, 4, BitVec.ofNat 64 qn⟩
    if pushBad n || !k.devpush then s.issueFaultAt e (.qpush t q a m) bad (s.after 40)
    else
      let r := s.request e (.qpush t q a m) 0 0 0 (.s 0) (s.after 40)
      let s1 := s.publish (tileDie e.site.tile) e.arcs
      if k.kick.toNat - k.done.toNat < k.size then
        let at' := k.slotKey k.kick.toNat
        let s1 := ((s1.putWatched at' (leBytes 64 (n % 2 ^ 512))).clearRecords at' 64).modQueue qn (fun x => { x with kick := x.kick + 1 })
        .done (s1.askDone r ⟨.s k.kick, false, some false, e.arcs⟩).tick 0
      else .done (s1.askDone r ⟨.s (BitVec.allOnes 64), false, some true, e.arcs⟩).tick 0)

/-! ## RNEXT (R41, R364, R365) -/

/-- RNEXT: a request to the range unit. -/
def execRnext (t : Trig) (q : Fin 4) (m : Fin 8) (s : State) : Host.Outcome State Fault Refusal :=
  fire (.rnext t q m) s (fun e s => .done (s.issue e (.rnext t q m) 0 0 0 (.s 0) (s.after 1)).tick 0)

/-- A consumer: column and row relative to the region's origin, and the context (R40). -/
def Region.consumer (r : Region) (tile ctx : Nat) : Nat := ((tileY tile - r.y0) * 48 + (tileX tile - r.x0)) * 4 + ctx

/-- One grant (R41): start, count, over, and the unit after it. -/
def RangeUnit.grant (u : RangeUnit) (who : Nat) : Nat × Nat × Bool × RangeUnit :=
  let left := u.last - u.next
  if 0 < left then
    let n := min left (max u.minChunk ((left + u.p * u.f - 1) / (u.p * u.f)))
    (u.next, n, false, { u with next := u.next + n })
  else (u.last, 0, u.zeros.contains who, { u with zeros := if u.zeros.contains who then u.zeros else u.zeros ++ [who] })

/-- The reply vector of RNEXT (R364). -/
def rangeVec (start count : Nat) : Vec :=
  Vec.build (fun n =>
    if n = 0 then BitVec.ofNat 40 start else if n = 1 then BitVec.ofNat 40 (start / 2 ^ 40)
    else if n = 2 then BitVec.ofNat 40 count else if n = 3 then BitVec.ofNat 40 (count / 2 ^ 40) else 0)

/-- RANGE_UNIT_SERVE: one request, atomically; its reply comes no sooner than 12 cycles after the firing. -/
def execRangeUnitServe (rq : Nat) (s : State) : Host.Outcome State Fault Refusal :=
  match s.req? rq with
  | none => .next s
  | some r =>
    match r.op, s.region? r.region with
    | .rnext _ _ _, some g =>
      match g.ru with
      | none => .next s
      | some u =>
        if r.st != .sent || decide (s.cycle < r.due) then .next s
        else
          let (start, count, last, u') := u.grant (g.consumer r.tile r.ctx.val)
          .next (((s.modRegion r.region (fun x => { x with ru := some u' })).answer rq (.v (rangeVec start count)) (some last) {} (s.after 12)).tick)
    | _, _ => .next s

end Sys2Proof.Machine
end

