-- ==== Sys2Proof/Machine/Net.lean ====
section
/-!
DEFINITION. The routers (R24 to R27, R64, R65, R409), the request path that an XREQ token leaves its port onto (R405, R407), and the tokens
that enter queues from outside the routers: replies (R156), fault tokens (R211), the tokens of staging tiles.
-/
namespace Sys2Proof.Machine

/-! ## Entering a queue -/

/-- The place of the first scatter register at or after `i` that stands before a queue. -/
def Tile.scatterAt (t : Tile) (i : Nat) (q : Fin 4) : Option Nat := (List.range t.scatter.length).find? (fun j => decide (i ≤ j) && ((t.scatter[j]?).map (fun c => c.q == q)).getD false)

/-- The copies that a token goes to (R65). -/
def Scatter.copies (c : Scatter) (k : Token) : List Nat := if k.tag = 2 then List.range c.n else [c.k % c.n]

/-- A port of a region's plan has received a token: its completion port counts data tokens and sees the end of the pass (R39, R72). -/
def State.portTook (s : State) (region port : Nat) (k : Token) : State :=
  s.modRegion region (fun r =>
    if r.plan.compPort = some port then { r with compSeen := r.compSeen || k.tag == 2, compTokens := r.compTokens + (k.tag == 0).toNat } else r)

/-- A token at a port of a leaf that has passed `depth` of the PREPs that hold it: the end of a pass there ends the first operand of a PSEQ whose
completion port it is (R39, R64). -/
def State.endTook (s : State) (region leaf port depth : Nat) (k : Token) : State :=
  if k.tag != 2 then s
  else s.modRegion region (fun r =>
    { r with seqSeen := (r.plan.ends.filter (fun e => e.leaf == leaf && e.port == port && e.depth == depth)).foldl (fun n e => n ||| 2 ^ e.pseq) r.seqSeen })

/-- A token leaves a region by what a reference leads to. -/
def State.refTook (s : State) (region : Nat) (e : ExtRef) (k : Token) : State := match e with | .region i => s.portTook region i k | .joint _ | .gather _ _ _ | .none => s

/-- A packet takes a class of a tile whose port may be a port of the region. -/
def State.classTook (s : State) (t : Tile) (c : Fin 16) (k : Token) : State :=
  let o := t.classOwner c.val
  match s.region? o.1 with
  | none => s
  | some r =>
    let port := bits (t.routeWord c) 15 11
    if bit (t.routeWord c) 10 then (s.refTook o.1 (r.plan.extRef o.2 port) k).endTook o.1 o.2 port 0 k else s

/-- A token enters a queue that may be bound to a port at which the region receives. -/
def State.queueTook (s : State) (x : Nat) (t : Tile) (q : Fin 4) (k : Token) : State :=
  match s.region? (t.receiver q.val) with
  | none => s
  | some r =>
    let here (leaf port : Nat) : Bool := r.portDest leaf port == some ⟨x, q, none⟩
    let s := (r.plan.ends.filter (fun e => ((r.plan.portOf e.leaf e.port).map (fun p => !pSends p)).getD false && here e.leaf e.port)).foldl
      (fun (s : State) e => s.endTook r.num e.leaf e.port e.depth k) s
    match r.plan.ports.findIdx? (fun p => !pSends p.entry && here p.leaf p.port) with
    | some i => s.portTook r.num i k
    | none => s

/-- A token enters an input queue that has room. An element that accepts an accumulate token acknowledges it (R335). -/
def State.enterQueue (s : State) (x : Nat) (t : Tile) (q : Fin 4) (k : Token) : Option State :=
  if (t.iq.get q).length < 4 then
    let s := (s.enqueue x q k).queueTook x t q k
    match k.side with
    | .acc _ sender => some (if t.mem.isNone then s.ackAcc sender else s)
    | .none | .row _ _ | .ins _ | .xreq _ _ => some s
  else none

/-- A token enters a queue, or the next scatter register that stands before it. -/
def State.enterFrom (s : State) (x : Nat) (q : Fin 4) (i : Nat) (k : Token) : Option State :=
  match s.tile? x with
  | none => some s
  | some t =>
    match t.scatterAt i q with
    | none => s.enterQueue x t q k
    | some j =>
      match t.scatter[j]? with
      | none => some s
      | some c =>
        if c.held.isSome then none
        else some (s.modTile x (fun t => { t with scatter := modifyAt t.scatter j (fun c => { c with held := some (k, c.copies k) }) }))

/-- A token enters a gather register: the copy is known by the sender's column (R65). -/
def State.enterGather (s : State) (x i sender : Nat) (k : Token) : Option State :=
  match (s.tile? x).bind (fun t => t.gather.find? (fun g => g.key == i)) with
  | none => some s
  | some g =>
    let c := (tileX sender - tileX x) / g.stride
    if (g.bufs.getD c []).length < 2 then
      some (s.modTile x (fun t => { t with gather := mapIf (fun g => g.key == i) (fun g => { g with bufs := modifyAt g.bufs c (fun b => b ++ [k]) }) t.gather }))
    else none

/-! ## One branch (R26, R27) -/

/-- The branch of a packet at tile `x` is on its way, or stands before the next router or queue: `x` holds the packet until it has been
accepted there. -/
def State.pending (s : State) (pkt x : Nat) (b : Branch) : Bool := s.flights.any (fun g => g.pkt == pkt && g.hold == some (x, b))

/-- Whether a link takes one more packet of a sending port: one in a cycle, and for a packet that nothing holds any longer one before the
router. -/
def State.linkFree (s : State) (src tile ready : Nat) (into : Option (Fin 4)) (held : Bool) : Bool :=
  !s.flights.any (fun g => g.src == src && g.tile == tile && g.into == into && ((!held && decide (g.ready ≤ s.cycle)) || decide (ready ≤ g.ready)))

/-- A packet sets out for the router, or over the direct link for the queue, of a tile. -/
def State.fly (s : State) (src pkt tile dir ready : Nat) (into : Option (Fin 4)) (hold : Option (Nat × Branch)) (k : Token) (r : Route) : State :=
  let f : Flight := ⟨s.nextId, pkt, src, tile, dir, (k.depart s.cycle).arrive tile ready, r, none, into, hold, ready⟩
  State.fresh { s with flights := s.flights ++ [f] }

/-- What has been accepted at once, or is refused. -/
def State.orSame (s : State) (o : Option State) : State × Bool := match o with | some s => (s, true) | none => (s, false)

/-- A branch at router `x` of the packet named `pkt`, and whether it has been accepted. A packet routed by tables enters only tiles of its leaf. The
packet stays where it is until the next router or queue accepts it, but for one that nothing holds. -/
def State.branch (s : State) (x src pkt : Nat) (k : Token) (r : Route) (held : Bool) (b : Branch) : State × Bool :=
  let go (s : State) (n dir ready : Nat) (into : Option (Fin 4)) : State × Bool :=
    if s.linkFree src n ready into held then (s.fly src pkt n dir ready into (if held then some (x, b) else none) k r, !held) else (s, false)
  match b with
  | .loc q =>
    match r with
    | .table _ => match s.tile? x with | none => (s, true) | some t => s.orSame (s.enterQueue x t q k)
    | .dest _ => s.orSame (s.enterFrom x q 0 k)
  | .gat i => s.orSame (s.enterGather x i (src / 4) k)
  | .home q =>
    let n := homeTile x
    match s.tile? x, s.tile? n, r with
    | some t, some u, .table c =>
      if s.pending pkt x b then (s, false)
      else if u.ofLeaf (t.classOwner c.val) then go s n 5 (s.cycle + homeHop x) (some q) else (s, true)
    | _, _, _ => (s, true)
  | .dir d =>
    match neighbour x d.val with
    | none => (s, true)
    | some (n, extra) =>
      if s.pending pkt x b then (s, false)
      else
        match r with
        | .dest _ => go s n ((d.val + 2) % 4) (s.cycle + 1 + extra) none
        | .table c =>
          match s.tile? x, s.tile? n with
          | some t, some u =>
            if u.ofLeaf (t.classOwner c.val) then go s n ((d.val + 2) % 4) (s.cycle + 1 + extra) none else (s, true)
          | _, _ => (s, true)

/-- The branches of a packet tried in order: what is left. -/
def State.branches (s : State) (x src pkt : Nat) (k : Token) (r : Route) (bs : List Branch) : State × List Branch :=
  bs.foldl (fun (a : State × List Branch) b =>
    match a.1.branch x src pkt k r true b with
    | (s, true) => (s, a.2)
    | (s, false) => (s, a.2 ++ [b])) (s, [])

/-- A packet has been accepted: the branch of the port or router that held it is over, and what it held is free once all are (R26). -/
def State.acceptedFlight (s : State) (f : Flight) : State :=
  match f.hold with
  | none => s
  | some (x, b) =>
    let rest (ls : List Branch) : List Branch := ls.filter (fun y => y != b)
    if s.flights.any (fun g => g.id == f.pkt) then
      { s with flights := s.flights.filterMap (fun g =>
        if g.id == f.pkt then
          match g.left with
          | some ls => if (rest ls).isEmpty then none else some { g with left := some (rest ls) }
          | none => some g
        else some g) }
    else
      let q : Fin 4 := ⟨f.src % 4, Nat.mod_lt _ (by decide)⟩
      s.modTile x (fun t => t.setOp q ((t.op.get q).filterMap (fun o =>
        match o with
        | .full k (some (p, r, ls)) since => if p == f.pkt then (if (rest ls).isEmpty then none else some (.full k (some (p, r, rest ls)) since)) else some o
        | .full _ none _ | .reserved _ => some o)))

/-! ## XREQ leaves its port (R405, R407) -/

/-- The request path before the transfer unit that faces a row has room for a request: a unit that is full back-pressures it (R406). -/
def State.pathFree (s : State) (x : Nat) : Bool :=
  decide ((s.transfers.filter (fun y => !y.accepted && y.die == tileDie x && y.port == rowPort x)).length ≤ Config.pathRoom)

/-- The request of an XREQ token travels to the transfer unit that faces the element's row. -/
def State.sendRequest (s : State) (x : Nat) (k : Token) (ctx : Fin 4) (slot : Fin 32) : State :=
  match s.elem? x with
  | none => s
  | some e =>
    let c := e.ctx.get ctx
    let v := k.pay.vec
    let t : Transfer := {
      id := s.nextId, tile := x, ctx := ctx, slot := slot, region := c.region, leaf := c.leaf, task := ((s.region? c.region).map Region.task).getD 0
      words := reqWords v, ok := reqTail v, accepted := false, donePos := 0, due := s.after 1, arcs := k.arcs, die := tileDie x, port := rowPort x
      withheld := none, isCopy := none }
    ((State.fresh { s with transfers := s.transfers ++ [t] }).tick).sinkLog c.region k false

/-! ## TOKEN_DELIVER (R26) -/

/-- The router of a tile has served a direction (R27). -/
def State.serve (s : State) (x d : Nat) : State := { s with served := SMap.put s.served x d }

/-- The direction that the router of a tile served last. -/
def State.lastServed (s : State) (x : Nat) : Nat := (SMap.find? s.served x).getD 0

/-- A token of a port: its branches but for those where an earlier token of the port still waits, as far as they are accepted (R27). What the
slot holds then: nothing when all are. -/
def State.sendSlot (s : State) (x : Nat) (q : Fin 4) (t : Tile) (before : List Branch) (o : OutSlot) : State × Option OutSlot :=
  match o with
  | .reserved _ => (s, some o)
  | .full k left since =>
    match k.side with
    | .xreq ctx slot => if before.isEmpty && s.pathFree x then (s.sendRequest x k ctx slot, none) else (s, some o)
    | .none | .acc _ _ | .row _ _ | .ins _ =>
      let begun : Option (State × Nat × Route × List Branch) :=
        match left with
        | some (p, r, bs) => some (s, p, r, bs)
        | none => (s.turn x (.table (t.classOf q))).map (fun (r, bs) =>
            ((s.classTook t (t.classOf q) k).fresh, s.nextId, r, bs))
      match begun with
      | none => (s, some o)
      | some (s, p, r, bs) =>
        let (s, ls) := s.branches x (4 * x + q.val) p k r (bs.filter (fun b => !before.contains b))
        let ls := bs.filter (fun b => before.contains b || ls.contains b)
        if ls.isEmpty then (s, none) else (s, some (.full k (some (p, r, ls)) since))

/-- The tokens of a port: the slot of the first is free once every branch of it has been accepted; until then the second goes where the first has
gone (R26, R27). -/
def State.deliverPort (s : State) (x : Nat) (q : Fin 4) : State :=
  match s.tile? x with
  | none => s
  | some t =>
    let put (s : State) (xs : List OutSlot) : State :=
      if xs = t.op.get q then s else (s.modTile x (fun t => t.setOp q xs)).serve x 4
    match t.op.get q with
    | [] => s
    | o :: rest =>
      match s.sendSlot x q t [] o with
      | (s, none) => put s rest
      | (s, some (.full k (some (p, r, bs)) since)) =>
        match rest with
        | [] => put s [.full k (some (p, r, bs)) since]
        | o :: more =>
          let (s, o) := s.sendSlot x q t (bs.filter (fun b => !s.pending p x b)) o
          put s (.full k (some (p, r, bs)) since :: o.toList ++ more)
      | (s, some _) => s

/-- A branch that leads to another tile. -/
def Branch.onward (b : Branch) : Bool := match b with | .dir _ | .home _ => true | .loc _ | .gat _ => false

/-- A packet that has come over a link. One that a direct link or a last hop has brought is accepted when its queue takes it. A router from which
it goes on accepts it while it has room for one more of the same sending port (log 34). A packet of the same port that came before it goes first. -/
def State.deliverFlight (s : State) (id : Nat) : State :=
  match s.flights.find? (fun f => f.id == id) with
  | none => s
  | some f =>
    let mine := s.flights.filter (fun g => g.src == f.src && g.tile == f.tile && g.into == f.into)
    let before := mine.takeWhile (fun g => g.id != id)
    let drop (s : State) : State := State.acceptedFlight { s with flights := s.flights.filter (fun g => g.id != id) } f
    if s.cycle < f.ready then s
    else
      match f.into with
      | some q =>
        match s.tile? f.tile with
        | none => drop s
        | some t => if before.isEmpty then (match s.enterQueue f.tile t q f.tok with | some s => drop s | none => s) else s
      | none =>
        let begun : Option (Route × List Branch) := match f.left with | some bs => some (f.route, bs) | none => s.turn f.tile f.route
        match begun with
        | none => s
        | some (r, bs) =>
          let onward := bs.any Branch.onward
          let taken := (mine.filter (fun g => g.hold.isNone && g.id != id)).length
          if before.any (fun g => g.left.isNone) || (onward && f.hold.isSome && decide (1 + Config.routerRoom ≤ taken)) then s
          else
            let waits := before.flatMap (fun g => (g.left.getD []).filter (fun b => !s.pending g.id g.tile b))
            let s := match f.left, f.route, s.tile? f.tile with
              | none, .table c, some t => s.classTook t c f.tok
              | _, _, _ => s
            let s := if onward then s.acceptedFlight f else s
            let sent := s.nextId
            let (s, ls) := s.branches f.tile f.src f.id f.tok r (bs.filter (fun b => !waits.contains b))
            let ls := bs.filter (fun b => waits.contains b || ls.contains b)
            let s := if sent < s.nextId || decide (ls.length < bs.length) then s.serve f.tile f.dir else s
            if ls.isEmpty then (if onward then { s with flights := s.flights.filter (fun g => g.id != id) } else drop s)
            else { s with flights := mapIf (fun g => g.id == id) (fun g => { g with route := r, left := some ls, hold := if onward then none else g.hold }) s.flights }

/-- TOKEN_DELIVER. -/
def execTokenDeliver (h : HopRef) (s : State) : Host.Outcome State Fault Refusal :=
  match h with
  | .port x q => .next (s.deliverPort x q)
  | .flight id => .next (s.deliverFlight id)

/-! ## Scatter and gather registers, staging tiles (R64, R65) -/

/-- A token sent on by destination from a tile: nothing while it is not accepted. -/
def State.sendOn (s : State) (x : Nat) (q : Fin 4) (k : Token) (d : ExtTo) : Option State :=
  match d with
  | .drop => some s
  | .wait => none
  | .to d =>
    let p := s.nextId
    match (State.fresh s).branch x (4 * x + q.val) p k (.dest d) false (destBranch x d) with
    | (s, true) => some s
    | (_, false) => none

/-- The run counter after a token (R65). -/
def runAfter (k : Nat) (perToken : Bool) (t : Token) : Nat := if t.tag = 2 then 0 else if t.tag = 1 || (perToken && t.tag = 0) then k + 1 else k

/-- SCATTER_FORWARD: the token of a scatter register goes to the next of its copies; copy 0 is the tile itself. -/
def execScatterForward (tile i : Nat) (s : State) : Host.Outcome State Fault Refusal :=
  match (s.tile? tile).bind (fun t => t.scatter[i]?) with
  | none => .next s
  | some c =>
    match c.held with
    | none => .next s
    | some (k, []) =>
      .next (s.modTile tile (fun t => { t with scatter := modifyAt t.scatter i (fun c => { c with held := none, k := runAfter c.k c.perToken k }) }))
    | some (k, n :: rest) =>
      let sent := if n = 0 then s.enterFrom tile c.q (i + 1) k else s.sendOn tile c.q k (.to ⟨tile + c.stride * n, c.q, none⟩)
      match sent with
      | none => .next s
      | some s =>
        let after (c : Scatter) : Scatter := if rest.isEmpty then { c with held := none, k := runAfter c.k c.perToken k } else { c with held := some (k, rest) }
        .next (s.modTile tile (fun t => { t with scatter := modifyAt t.scatter i after }))

/-- The port queue number that a gather register's packets leave under. -/
def State.gatherPort (s : State) (g : Gather) : Fin 4 :=
  match s.region? (g.key / 4) with
  | none => 0
  | some r => match r.plan.portOf g.leaf g.port with | some e => pBq e | none => 0

/-- What a gather register has sent leaves the region where its port is one of the region's. -/
def State.gatherTook (s : State) (tile : Nat) (g : Gather) (k : Token) : State :=
  match s.region? (g.key / 4) with
  | none => s
  | some r =>
    match r.gatherOf tile g.key with
    | none => s
    | some (n, leaf, port) =>
      let depth := ((r.plan.prepsOf leaf).filter (fun (_, m) => decide (m ≤ n))).length
      (s.refTook r.num (r.plan.gatherRef n leaf port) k).endTook r.num leaf port depth k

/-- GATHER_FORWARD: the register forwards a token of copy K mod n, or one end-of-pass once every copy has sent its own. -/
def execGatherForward (tile i : Nat) (s : State) : Host.Outcome State Fault Refusal :=
  match (s.tile? tile).bind (fun t => t.gather[i]?) with
  | none => .next s
  | some g =>
    match (g.bufs.getD (g.k % g.n) []).head? with
    | none => .next s
    | some k =>
      let ended (b : List Token) : Bool := (b.head?.map (fun (k : Token) => k.tag == 2)).getD false
      if k.tag = 2 && !g.bufs.all ended then .next s
      else
        match s.sendOn tile (s.gatherPort g) k g.dest with
        | none => .next s
        | some s =>
          let s := s.gatherTook tile g k
          let bufs := if k.tag = 2 then g.bufs.map List.tail else modifyAt g.bufs (g.k % g.n) List.tail
          .next (s.modTile tile (fun t => { t with gather := modifyAt t.gather i (fun g => { g with bufs := bufs, k := runAfter g.k g.perToken k }) }))

/-- The granules that a token takes in a staging tile (R64, R410): a mark takes none. -/
def stageGranules (k : Token) : Nat := if k.tag = 1 || k.tag = 2 then 0 else match k.pay with | .v _ => 5 | .s _ => 1

/-- STAGING_SEND: the staging tile of a PSEQ takes the token at its queue while it has room, and sends its oldest token once B has been
loaded. -/
def execStagingSend (tile : Nat) (s : State) : Host.Outcome State Fault Refusal :=
  match s.tile? tile with
  | none => .next s
  | some t =>
    match t.mem.bind MTile.staging with
    | none => .next s
    | some g =>
      let put (s : State) (xs : List Token) : State := s.modMem tile (fun m => { m with staging := m.staging.map (fun g => { g with toks := xs }) })
      let held := (g.toks.map stageGranules).foldl (· + ·) 0
      let (s, toks) := match t.head 0 with
        | some k => if held + stageGranules k ≤ 32768 then (put (s.dequeue tile 0) (g.toks ++ [k]), g.toks ++ [k]) else (s, g.toks)
        | none => (s, g.toks)
      if g.active then
        match toks with
        | [] => .next s
        | k :: rest => match s.sendOn tile 0 k g.dest with | none => .next s | some s => .next (put s rest)
      else .next s

/-! ## Tokens from outside the routers -/

/-- A region's tiles stand where its requests and fault tokens say. -/
def State.stands (s : State) (n : Nat) : Bool := ((s.region? n).map Region.placed).getD false

/-- REPLY_TOKEN_ENTER: the reply of the oldest request of its queue enters it while it has room, and the predicate is written with it (R156). -/
def execReplyTokenEnter (rq : Nat) (s : State) : Host.Outcome State Fault Refusal :=
  match s.req? rq with
  | none => .next s
  | some r =>
    match r.st, r.q, s.tile? r.tile with
    | .done a, some q, some t =>
      let older := s.reqs.any (fun x => decide (x.id < rq) && x.tile == r.tile && x.q == r.q)
      if decide (s.cycle < r.due) || older || !s.stands r.region || decide (4 ≤ (t.iq.get q).length) then .next s
      else
        let pay := match a.pay with | .s w => kindPay (t.iqKind.getLsbD q.val) w | .v x => .v x
        let s := (s.enqueue r.tile q { tag := if a.fault then 3 else 0, pay := pay, arcs := a.arcs }).dropReq rq
        match r.pred, a.pred with
        | some p, some b => .next (s.modCtx r.tile r.ctx (fun c => { c with p := setPred c.p p b }))
        | _, _ => .next s
    | .done _, none, _ => .next (s.dropReq rq)
    | _, _, _ => .next s

/-- FAULT_TOKEN_DELIVER: fault tokens enter a fault queue in the order of their faults, while it has room; a frozen context whose token has been
delivered counts as halted (R211). -/
def execFaultTokenDeliver (f : Nat) (s : State) : Host.Outcome State Fault Refusal :=
  match s.faultToks.find? (fun x => x.id == f) with
  | none => .next s
  | some x =>
    match s.tile? x.tile with
    | none => .next s
    | some t =>
      let older := s.faultToks.any (fun y => decide (y.id < f) && y.tile == x.tile && y.q == x.q)
      if decide (s.cycle < x.due) || older || !s.stands x.region || decide (4 ≤ (t.iq.get x.q).length) then .next s
      else
        let s := s.enqueue x.tile x.q { tag := 3, pay := kindPay (t.iqKind.getLsbD x.q.val) x.pay }
        let s : State := { s with faultToks := s.faultToks.filter (fun y => y.id != f) }
        match x.froze with
        | some (ft, c) => .next (s.modCtx ft c (fun c => match c.st with | .frozen _ => { c with st := .frozen true } | .absent | .armed | .halted => c))
        | none => .next s

/-! ## Chains, slot tables, vector register entries (R19, R31, R34, R35) -/

/-- The leader's slot of a number is a HALT, and of which context (R35). -/
def State.leaderHalts (s : State) (tile : Nat) (slot : Fin 32) : Option (Fin 4) :=
  match s.elem? (s.leaderOf 16 tile).1 with
  | none => none
  | some e =>
    match decodeWord (e.slots.get slot) with
    | some (.halt _) => some (sideOwner (e.sides.get slot))
    | _ => none

/-- FOLLOWER_FIRE: the follower's due slot is over, and it fires unless its context has halted or frozen; a HALT of the leader passes to the same
context. -/
def execFollowerFire (tile : Nat) (slot : Fin 32) (s : State) : Host.Outcome State Fault Refusal :=
  match s.elem? tile with
  | none => .next s
  | some e =>
    match takeFirst (fun d => d.2 == slot && decide (d.1 ≤ s.cycle)) e.due with
    | none => .next s
    | some (_, rest) =>
      let s := s.modElem tile (fun x => { x with due := rest })
      let owner := sideOwner (e.sides.get slot)
      let own : List Work := if (e.ctx.get owner).st == .armed && (s.dueSite tile slot).isSome then [.run ⟨tile, owner, slot, false⟩] else []
      let halt : List Work := match s.leaderHalts tile slot, decodeWord (e.slots.get slot) with
        | some c, some (.halt _) => if c = owner then [] else [.halt tile c]
        | some c, _ => [.halt tile c]
        | none, _ => []
      .next { s with scan := own ++ halt ++ s.scan }

/-- SLOT_TABLE_APPLY: a slot table that the scheduler has written takes effect at a cycle of index 0 (R31). -/
def execSlotTableApply (tile : Nat) (s : State) : Host.Outcome State Fault Refusal :=
  .next (s.modElem tile (fun e =>
    match e.pendTable with
    | some t => if e.idx = 0 then { e with table := t, pendTable := none } else e
    | none => e))

/-- REGISTER_FILL_COMPLETE: a spilled register is resident with what the backing area holds, once the port tile that faces the row has given system
traffic its access (R19, R145, R146). -/
def execRegisterFillComplete (tile : Nat) (s : State) : Host.Outcome State Fault Refusal :=
  match s.elem? tile with
  | none => .next s
  | some e =>
    let pt := s.portAt (tileDie tile) (rowPort tile)
    if !s.portFree pt then .next s else
    match takeFirst (fun (m : RegMove) => m.isFill && decide (m.due ≤ s.cycle)) e.moves with
    | none => .next s
    | some (m, rest) =>
      let (c, n) := m.want
      let x : Vec := match s.region? (Vector.at (n := 3) e.ctx c).region with
        | some r => bytesVec (s.homeBytes (r.regAddr tile c n) 80)
        | none => Vec.zero
      let s := match s.region? (Vector.at (n := 3) e.ctx c).region with
        | some r => s.watch r.die (r.regAddr tile c n) 80 0 4
        | none => s
      .next ((s.usePort pt 6 none).modElem tile (fun e =>
        (Elem.modCtx { e with moves := rest, resident := m.want :: e.resident, spilled := e.spilled.filter (fun r => r != m.want) }
          ⟨c % 4, Nat.mod_lt _ (by decide)⟩ (fun k => { k with v := Vector.upd (n := 31) k.v n x }))))

/-- REGISTER_EVICT_COMPLETE: an entry is free, once the port tile that faces the row has given system traffic its access (R19, R145). -/
def execRegisterEvictComplete (tile : Nat) (s : State) : Host.Outcome State Fault Refusal :=
  let pt := s.portAt (tileDie tile) (rowPort tile)
  match s.elem? tile with
  | none => .next s
  | some e =>
    match takeFirst (fun (m : RegMove) => !m.isFill && decide (m.due ≤ s.cycle)) e.moves with
    | none => .next s
    | some (_, rest) => if s.portFree pt then .next ((s.usePort pt 6 none).modElem tile (fun e => { e with moves := rest })) else .next s

end Sys2Proof.Machine
end

