-- ==== Sys2Proof/Machine/Matcher.lean ====
section
/-!
DEFINITION. The motif table and the fragment library, and the commands by which software works them (R69, R70, R74 to R76, R347).
-/
namespace Sys2Proof.Machine

/-! ## Entries (R69) -/

/-- SIG of an entry. -/
def mtSig (m : Motif) : Word := m.extractLsb' 0 64
/-- LAUNCHES. -/
def mtLaunches (m : Motif) : Nat := bits m.toNat 95 64
/-- LAST_USE. -/
def mtUse (m : Motif) : Nat := bits m.toNat 127 96
/-- NALT. -/
def mtAlts (m : Motif) : Nat := bits m.toNat 130 128
/-- PIN. -/
def mtPin (m : Motif) : Nat := bits m.toNat 133 131
/-- NOEXPL. -/
def mtStill (m : Motif) : Bool := m.getLsbD 134
/-- FRAG of alternative `j`. -/
def mtFrag (m : Motif) (j : Nat) : Nat := bits m.toNat (191 + 80 * j) (160 + 80 * j)
/-- COST of alternative `j`. -/
def mtCost (m : Motif) (j : Nat) : Nat := bits m.toNat (223 + 80 * j) (192 + 80 * j)
/-- SAMPLES of alternative `j`. -/
def mtSamples (m : Motif) (j : Nat) : Nat := bits m.toNat (239 + 80 * j) (224 + 80 * j)

/-- A field of an entry replaced. -/
def mtSet (m : Motif) (hi lo v : Nat) : Motif := BitVec.ofNat 512 (setBits m.toNat hi lo v)

/-- The entry of a signature with its place. -/
def State.motif? (s : State) (sig : Word) : Option (Nat × Motif) := s.motifs.find? (fun e => mtSig e.2 == sig)

/-- A library fragment: its plan-table entry and its record. -/
def State.fragment? (s : State) (frag : Nat) : Option (Nat × Rec) :=
  (SMap.find? s.library frag).bind (fun k => ((SMap.find? s.plans k).bind PlanEnt.plan).bind (fun p => (p.leaves.head?).map (fun l => (k, s.readRec l.addr))))

/-! ## The commands (R75) -/

/-- AM_FLUSH: the table is emptied. -/
def State.amFlush (s : State) : State := { s with motifs := [], motifIds := [] }

/-- AM_FLUSH. -/
def execAmFlush (s : State) : Host.Outcome State Fault Refusal := .next s.amFlush

/-- AM_PIN: GO applies a PIN value to the AMSIG entry; NOTFOUND says whether there is one. -/
def State.amPin (s : State) (pin : BitVec 3) : State :=
  match s.motif? s.am.sig with
  | none => { s with am := { s.am with pin := pin, notFound := true } }
  | some (k, m) => { s with am := { s.am with pin := pin, notFound := false }, motifs := SMap.put s.motifs k (mtSet m 133 131 pin.toNat) }

/-- AM_PIN. -/
def execAmPin (pin : BitVec 3) (s : State) : Host.Outcome State Fault Refusal := .next (s.amPin pin)

/-- AM_READ_ENTRY: the AMSIG entry goes to AMENT. -/
def State.amReadEntry (s : State) : State :=
  match s.motif? s.am.sig with
  | none => { s with am := { s.am with notFound := true } }
  | some (_, m) => { s with am := { s.am with ent := m, notFound := false } }

/-- AM_READ_ENTRY. -/
def execAmReadEntry (s : State) : Host.Outcome State Fault Refusal := .next s.amReadEntry

/-- What alternatives of one motif must have in common: the record without FRAG_ID, II, LAT, BW, MEMUSE and ALT_FRAG (R70). -/
def Rec.common (r : Rec) : Nat × List Nat × List (BitVec 128) × List Nat :=
  (setBits (setBits r.hdr 191 104 0) 31 0 0, r.ports.map (fun e => setBits e.toNat 219 204 0), r.mems, r.holes)

/-- The alternatives of an entry are 1 to 4 library fragments with equal interfaces and result classes (R70). -/
def State.alternativesOk (s : State) (m : Motif) : Bool :=
  let rs := (List.range (mtAlts m)).map (fun j => s.fragment? (mtFrag m j))
  decide (1 ≤ mtAlts m) && decide (mtAlts m ≤ 4) && rs.all Option.isSome
    && (rs.map (Option.map (fun x => x.2.common))).eraseDups.length == 1

/-- AMENT as an entry of a signature: what software may write, the measured fields and the reserved ones zero. -/
def freshMotif (ent : BitVec 512) (sig : Word) : Motif :=
  let alts := (List.range (mtAlts ent)).map (fun j => (mtFrag ent j) * 2 ^ (160 + 80 * j))
  BitVec.ofNat 512 (sig.toNat + bits ent.toNat 134 128 * 2 ^ 128 + alts.foldl (· + ·) 0)

/-- The entry that a full table gives up: the one with the lowest LAST_USE (R74). -/
def oldestMotif (m : SMap Motif) : Option Nat :=
  match m with
  | [] => none
  | e :: rest => some (rest.foldl (fun a b => if mtUse b.2 < mtUse a.2 then b else a) e).1

/-- An entry put at a place of the table under a new name, by which a launch knows it again (R76). -/
def State.putMotif (s : State) (k : Nat) (m : Motif) : State :=
  State.fresh { s with motifs := SMap.put s.motifs k m, motifIds := SMap.put s.motifIds k s.nextId }

/-- AM_REGISTER (R70, R74): an entry of the signature is replaced in its place, a free place is taken, or a full table gives one up. -/
def State.amRegister (s : State) : State :=
  if s.am.freeze || !s.alternativesOk s.am.ent then s
  else
    let m := freshMotif s.am.ent s.am.sig
    match s.motif? s.am.sig with
    | some (k, _) => s.putMotif k m
    | none =>
      match (List.range 4096).find? (fun k => (SMap.find? s.motifs k).isNone) with
      | some k => s.putMotif k m
      | none =>
        match oldestMotif s.motifs with
        | none => s
        | some k => { s.putMotif k m with am := { s.am with repl := s.am.repl + 1 } }

/-- AM_REGISTER. -/
def execAmRegister (s : State) : Host.Outcome State Fault Refusal := .next s.amRegister

/-! ## The library (R347) -/

/-- A fragment leaves the library: its handles become stale, and its object goes with its last reference (R52, R347). -/
def State.dropFragment (s : State) (k : Nat) : State :=
  let (s, objs) := s.freePlan k
  objs.foldl State.releaseObj s

/-- A command that fails sets NOTFOUND; one that succeeds clears it. -/
def State.found (s : State) (ok : Bool) : State := { s with am := { s.am with notFound := !ok } }

/-- LIB_INSTALL (R347). -/
def State.libInstall (s : State) : State :=
  let a := domKey s.am.sig.toNat
  let r := s.readRec a
  let frag := bits r.hdr 31 0
  let old := SMap.find? s.library frag
  if s.am.sig.toNat % 64 != 0 || !r.ok || frag == 0 || (old.isNone && decide (65536 ≤ s.library.length)) then (s.found false)
  else
    let n := s.recordSize a r
    match s.alloc n 2 15 false with
    | .short => (s.starve.found false)
    | .never => (s.found false)
    | .made i s' =>
      let b := domKey (oBase (s'.obj i))
      let copied := ((s'.storeHome b (s.homeBytes a n)).watchImage a r).watchSys b n 1
      match copied.newPlan ((copied.readRec b).plan b) [] none (some i) with
      | none => (s.found false)
      | some (k, t) =>
        let t : State := match old with
          | none => t
          | some o => t.dropFragment o
        (State.found { t.checkLow with library := SMap.put t.library frag k } true)

/-- LIB_INSTALL. -/
def execLibInstall (s : State) : Host.Outcome State Fault Refusal := .next s.libInstall

/-- LIB_REMOVE (R347). -/
def State.libRemove (s : State) : State :=
  let frag := bits s.am.sig.toNat 31 0
  match SMap.find? s.library frag with
  | none => (s.found false)
  | some k => let s := s.dropFragment k; (State.found { s with library := SMap.erase s.library frag } true)

/-- LIB_REMOVE. -/
def execLibRemove (s : State) : Host.Outcome State Fault Refusal := .next s.libRemove

end Sys2Proof.Machine
end

