-- ==== Sys2Proof/Machine/Queues.lean ====
section
/-!
DEFINITION. Work queues, the dispatcher and the packets (R176, R196 to R203, R206).
-/
namespace Sys2Proof.Machine

/-! ## Packets (R197, R198) -/

/-- LOG2SIZE of a queue. -/
def Queue.log (x : Queue) : Nat := bits x.cfg.toNat 4 0
/-- CLASS. -/
def Queue.cls (x : Queue) : Nat := bits x.cfg.toNat 6 5
/-- GROUP. -/
def Queue.group (x : Queue) : Nat := bits x.cfg.toNat 14 7
/-- PRIV. -/
def Queue.priv (x : Queue) : Bool := x.cfg.getLsbD 15
/-- WEIGHT. -/
def Queue.weight (x : Queue) : Nat := bits x.cfg.toNat 23 17

/-- The eight words of packet `n` of a queue (R197). -/
def State.packetAt (s : State) (q n : Nat) : List Word :=
  let x := s.queue q
  let a := domKey (x.base.toNat + 64 * (n % 2 ^ x.log))
  (List.range 8).map (fun k => BitVec.ofNat 64 (s.homeWord (a + 8 * k) 8))

/-- The bits of words 2 to 7 that a kind uses (R198). -/
def usedBits (kind : Nat) : List Nat :=
  let all := 2 ^ 64 - 1
  match kind with
  | 1 => [all, 0, 0, 0, 0, 0]
  | 2 => [all, all, 0, 0, 0, 0]
  | 3 => [all, all, 3, 0, 0, all]
  | 4 => [all, all, 1, 0, 0, all]
  | 5 => [all, all, all, 0, 0, 0]
  | 6 => [0x703FF, 0, 0, 0, 0, 0]
  | _ => [1, 0, 0, 0, 0, 0]

/-- What keeps a packet from being started, nothing if it may start (R198): cause 1 for its KIND, else 4, with the word that offends (R98). -/
def packetBad (priv : Bool) (ws : List Word) : Option Illegal :=
  let w (k : Nat) : Nat := ((ws[k]?).getD 0).toNat
  let kind := pktKind (w 0)
  let x := (List.range 8).foldl (fun n k => n + w k * 2 ^ (64 * k)) 0
  let sig := kind == 3 || kind == 4
  let unused (m i : Nat) : Bool × Nat × Nat :=
    let v := (BitVec.ofNat 64 (w (i + 2)) &&& ~~~ BitVec.ofNat 64 m).toNat
    (v != 0, 4, 64 * (i + 2) + lowBit v 63 0)
  judge 9 0 x ((kind == 0 || decide (7 < kind), 1, 0) :: (bits (w 0) 31 10 != 0, 4, lowBit (w 0) 31 10) :: (bit (w 0) 8 && kind != 1, 4, 8)
    :: (w 1 % 64 != 0, 4, 64) :: (sig && w 2 % 8 != 0, 4, 128) :: (sig && w 7 != 0 && !priv, 4, 448 + lowBit (w 7) 63 0)
    :: (kind == 3 && w 4 == 3, 4, 256) :: (kind == 5 && w 4 % 16 != 0, 4, 256) :: (usedBits kind).zipIdx.map (fun (m, i) => unused m i))

/-- A packet that fails before it starts (R198, R213): STATUS 3. -/
def State.refusePacket (s : State) (p kind : Nat) (d0 d1 : Word) : State := s.endPacket p { status := 3, kind := kind, d0 := d0, d1 := d1 }

/-- A packet of a kind that has been fetched and whose turn has come. -/
def State.fetched? (s : State) (p kind : Nat) : Option Packet :=
  (s.packet? p).bind (fun k => if k.st = .fetched ∧ k.kind = kind ∧ k.due ≤ s.cycle then some k else none)

/-! ## The dispatcher (R201) -/

/-- The slots that are held, and those held by WAITs. -/
def State.slotsHeld (s : State) : Nat := (s.packets.filter Packet.holdsSlot).length
/-- The slots that WAITs hold. -/
def State.waitsHeld (s : State) : Nat := (s.packets.filter (fun p => p.holdsSlot && p.kind == 3)).length

/-- The queues that may be granted a slot now: a queue whose next packet is a WAIT is passed over while WAITs hold 32. -/
def State.grantable (s : State) : List Nat :=
  (s.queues.map Prod.fst).filter (fun q => s.eligible q
    && !(decide (32 ≤ s.waitsHeld) && pktKind ((s.packetAt q (s.queue q).read.toNat).headD 0).toNat == 3))

/-- The class of a queue after aging. -/
def State.effClass (s : State) (q : Nat) : Nat := (s.queue q).cls - (s.queue q).wait / s.regs.ageStep

/-- Every queue's credit becomes its weight. -/
def State.refill (s : State) : State := { s with queues := s.queues.map (fun (q, x) => (q, { x with credit := x.weight })), refilled := true }

/-- The queue that is granted among some: the lowest class with credit, in turn. -/
def State.choose (s : State) (qs : List Nat) : Option (Nat × Nat) :=
  match qs.filter (fun q => decide (0 < (s.queue q).credit)) with
  | [] => none
  | q :: rest =>
    let c := rest.foldl (fun m x => min m (s.effClass x)) (s.effClass q)
    let same := (q :: rest).filter (fun x => s.effClass x == c)
    match Vector.at (n := 3) s.lastQueue c with
    | none => some (same.headD q, c)
    | some l => some ((same.find? (fun x => decide (l < x))).getD (same.headD q), c)

/-- The dispatcher may grant a slot in this cycle. -/
def State.mayGrant (s : State) : Bool :=
  decide (s.slotsHeld < 64) && (match s.lastGrant with | none => true | some c => decide (c + 8 ≤ s.cycle)) && !s.grantable.isEmpty

/-- A packet is fetched for a queue (R197, R198); one that may not start ends at once. -/
def State.fetchPacket (s : State) (q : Nat) : State :=
  let x := s.queue q
  let n := x.read.toNat
  let ws := s.packetAt q n
  let p := s.nextId
  let k : Packet := ⟨p, q, n, ws, .fetched, s.after 1, [], false⟩
  let s := s.watchSys (domKey (x.base.toNat + 64 * (n % 2 ^ x.log))) 64 0
  let s := (State.fresh { s with packets := s.packets ++ [k] }).tick.modQueue q (fun x => { x with read := x.read + 1, credit := x.credit - 1, wait := 0 })
  match packetBad x.priv ws with
  | none => s
  | some w => s.refusePacket p kConfig w.d0 w.d1

/-- DISPATCH_GRANT (R201). -/
def execDispatchGrant (s : State) : Host.Outcome State Fault Refusal :=
  if s.mayGrant then
    let qs := s.grantable
    let s := if qs.any (fun q => decide (0 < (s.queue q).credit)) then s else s.refill
    match s.choose qs with
    | none => .next s
    | some (q, c) => .next (State.fetchPacket { s with lastQueue := Vector.upd (n := 3) s.lastQueue c (some q), lastGrant := some s.cycle } q)
  else .next s

/-! ## Registers of a queue (R196, R197) -/

/-- KICK is raised to the value written; a host's write to a queue of device programs is ignored. -/
def State.kick (s : State) (q : Nat) (v : Word) : State :=
  let x := s.queue q
  let k := if x.kick.toNat < v.toNat then v else x.kick
  if x.devpush then s
  else if x.done.toNat + 2 ^ x.log < k.toNat then s.modQueue q (fun x => { x with ovr := true })
  else s.modQueue q (fun x => { x with kick := k })

/-- KICK_WRITE. -/
def execKickWrite (q : Fin 1024) (v : Word) (s : State) : Host.Outcome State Fault Refusal := .next (s.kick q.val v)

/-- A write of ones to QSTAT clears FAULTED, OVR and HELD; PARKED cannot be written. -/
def State.qstat (s : State) (q : Nat) (v : Word) : State :=
  s.modQueue q (fun x => { x with faulted := x.faulted && !v.getLsbD 0, ovr := x.ovr && !v.getLsbD 1, held := x.held && !v.getLsbD 2 })

/-- QSTAT_WRITE. -/
def execQstatWrite (q : Fin 1024) (v : Word) (s : State) : Host.Outcome State Fault Refusal := .next (s.qstat q.val v)

/-! ## LAUNCH (R199, R200, R204) -/

/-- The launch header that a packet names, or what is illegal and makes the launch fail. -/
def State.packetHeader (s : State) (addr : Nat) : Except Illegal LHeader :=
  if addr % 64 != 0 then .error (broken (addr % 2 ^ 32))
  else match s.readHeader (domKey addr) with
    | (h, none) => .ok h
    | (_, some w) => .error w

/-- A packet's launch waits to be placed; the packet keeps its slot until its region is armed. -/
def State.startLaunch (s : State) (k : Packet) (plan : PlanRef) (h : LHeader) (sig : List (Word × Nat × Nat × Nat)) : State :=
  (s.addLaunch k.queue (some k.id) none none plan h sig).modPacket k.id (fun x => { x with st := .waiting })

/-- LAUNCH. -/
def execLaunch (p : Nat) (s : State) : Host.Outcome State Fault Refusal :=
  match s.fetched? p 1 with
  | none => .next s
  | some k =>
    let s := s.watchSys (domKey (k.word 2)) 128 0
    match s.packetHeader (k.word 2) with
    | .error w => .next (s.refusePacket p kConfig w.d0 w.d1)
    | .ok h =>
      if bit (k.word 0) 8 then .next (s.startLaunch k (.image (domKey h.plan.toNat)) h [])
      else
        match s.planOf h.plan with
        | none => .next (s.refusePacket p kHandle (faultWord (badHandle h.plan) 0 0 0 0 false 0) h.plan)
        | some (i, _, _) => .next (s.startLaunch k (.entry i) h [])

/-! ## WAIT (R198, R201, R202) -/

/-- The entries of the page tables that the armed ranges name: entry, table, page, pages, virtual address of the page. -/
def State.pageEntries (s : State) : List (Nat × Nat × Nat × Nat × Nat) :=
  s.regions.flatMap (fun (_, r) => r.ports.flatMap (fun (_, es) => (es.filter (fun e => e.valid && e.paged)).flatMap (fun e =>
    (List.range (2 * e.size)).map (fun j => (e.keyAt 0 + 8 * j, e.keyAt 0, j, 2 * e.size, e.vbase + 32768 * j)))))

/-- The page on which an address lies is not resident: an entry with a copy names its frame, and none that is present does (log 15). -/
def State.absentAt (s : State) (a : Nat) : Option (Nat × Nat × Nat × Nat × Nat) :=
  let here := s.pageEntries.filter (fun (p, _) => pteKey (s.homeWord p 8) / 32768 == domKey a / 32768)
  if here.any (fun (p, _) => bit (s.homeWord p 8) 0) then none else here.find? (fun (p, _) => bit (s.homeWord p 8) 1)

/-- The entries of a packet's buffer list, at most four (R176). -/
def State.buffers (s : State) (k : Packet) : List (Nat × Nat × Nat) :=
  if k.word 7 = 0 then [] else (Config.bufferEntries (s.homeBytes (domKey (k.word 7)) 128)).take 4

/-- What a satisfied WAIT acquires (R175, R176): with a buffer list it invalidates the listed buffers; without, it pulls the ranges of the
releases that it has read: the releasing dies write them back, and the other dies drop their copies. -/
def State.waitAcquires (s : State) (k : Packet) : State :=
  if k.word 7 = 0 then
    (s.recordAt (domKey (k.word 2))).foldl (fun (s : State) p =>
      let s := s.fromDies p.dies p.rng
      (fourDies.filter (fun d => p.dies != dieBit d)).foldl (fun (s : State) d => s.invalidate d p.rng) s) s
  else
    (s.buffers k).foldl (fun (s : State) (b, n, m) => if bit m 1 then fourDies.foldl (fun (s : State) d => s.invalidate d (rngOf (domKey b) n)) s else s) s

/-- A queue parks: the WAIT stays its next packet while its signal's page is fetched. -/
def State.park (s : State) (k : Packet) (e : Nat × Nat × Nat × Nat × Nat) : State :=
  let (pte, tb, page, pages, va) := e
  (State.modQueue { s with packets := s.packets.filter (fun x => x.id != k.id) } k.queue
    (fun x => { x with read := BitVec.ofNat 64 k.index, parked := true })).fetchPage 4096 va pte tb page pages

/-- A WAIT tests its condition: it holds, or a write to its signal's line has met it (R201). -/
def State.testWait (s : State) (k : Packet) : State :=
  let s := s.watchSys (domKey (k.word 2)) 8 0
  if k.met || s.waitHolds k then (s.waitAcquires k).endPacket k.id { status := 0 } else s.modPacket k.id (fun x => { x with st := .waiting })

/-- WAIT. -/
def execWait (p : Nat) (s : State) : Host.Outcome State Fault Refusal :=
  match s.fetched? p 3 with
  | none => .next s
  | some k =>
    match s.absentAt (k.word 2) with
    | some e => .next (s.park k e)
    | none => .next (s.testWait k)

/-- WAIT_RETEST: a WAIT that keeps its slot is tested again. -/
def execWaitRetest (p : Nat) (s : State) : Host.Outcome State Fault Refusal :=
  match s.packet? p with
  | none => .next s
  | some k =>
    if k.st = .waiting ∧ k.kind = 3 then
      match s.absentAt (k.word 2) with
      | some e => .next (s.park k e)
      | none => .next (s.testWait k)
    else .next s

/-- A parked queue's signal is resident. -/
def State.unparks (s : State) (q : Nat) : Bool :=
  (s.queue q).parked && (s.absentAt (((s.packetAt q (s.queue q).read.toNat)[2]?).getD 0).toNat).isNone

/-- QUEUE_UNPARK. -/
def execQueueUnpark (q : Fin 1024) (s : State) : Host.Outcome State Fault Refusal :=
  if s.unparks q.val then .next (s.modQueue q.val (fun x => { x with parked := false })) else .next s

/-! ## SIGNAL, COPY, BARRIER (R176, R198, R199) -/

/-- SIGNAL: the listed buffers are written back, then the value is stored or added. -/
def execSignal (p : Nat) (s : State) : Host.Outcome State Fault Refusal :=
  match s.fetched? p 4 with
  | none => .next s
  | some k =>
    let a := domKey (k.word 2)
    let s := (s.buffers k).foldl (fun (s : State) (b, n, m) => if bit m 0 then fourDies.foldl (fun (s : State) d => s.writeBack d (rngOf (domKey b) n)) s else s) s
    let v := if k.word 4 = 1 then s.homeWord a 8 + k.word 3 else k.word 3
    .next (((s.putHome a 8 v).watchSys a 8 1).endPacket p { status := 0 })

/-- COPY: its bytes wait for a transfer unit; a copy of no bytes is over. -/
def execCopy (p : Nat) (s : State) : Host.Outcome State Fault Refusal :=
  match s.fetched? p 5 with
  | none => .next s
  | some k =>
    if k.word 4 = 0 then .next (s.endPacket p { status := 0 })
    else
      let units := (List.range 64).filter (fun i => !s.regs.defects.contains (portMark (i / 16) (16 + i % 16)))
      let u := units.getD (Config.latency s.freeCtr % units.length) 0
      let t : Transfer := {
        id := s.nextId, tile := 0, ctx := 0, slot := 0, region := 4096, leaf := 0, task := 0
        words := [BitVec.ofNat 64 (k.word 2), BitVec.ofNat 64 (k.word 3), BitVec.ofNat 64 (k.word 4)], ok := true, accepted := false
        donePos := 0, due := s.cycle + 1, arcs := {}, die := u / 16, port := 16 + u % 16, withheld := none, isCopy := some p }
      .next ((State.fresh { s with transfers := s.transfers ++ [t] }).tick.modPacket p (fun x => { x with st := .waiting }))

/-- A packet has started. -/
def Packet.begun (k : Packet) : Bool := !k.holdsSlot

/-- What a BARRIER waits for: the earlier packets of its queue, and with GROUP what the queues of its group have started. -/
def State.barrierWaits (s : State) (k : Packet) : List Nat :=
  let g := (s.queue k.queue).group
  (s.packets.filter (fun x => (x.queue == k.queue && decide (x.index < k.index))
    || (bit (k.word 2) 0 && x.queue != k.queue && (s.queue x.queue).group == g && x.begun))).map Packet.id

/-- BARRIER: it starts and ends once every packet that it waits for has completed. -/
def execBarrier (p : Nat) (s : State) : Host.Outcome State Fault Refusal :=
  match s.packet? p with
  | none => .next s
  | some k =>
    if k.kind != 7 || decide (s.cycle < k.due) then .next s
    else
      match k.st with
      | .fetched =>
        let ws := s.barrierWaits k
        if ws.isEmpty then .next (s.endPacket p { status := 0 }) else .next (s.modPacket p (fun x => { x with st := .waiting, waits := ws }))
      | .waiting => if k.waits.any (fun w => (s.packet? w).isSome) then .next s else .next (s.endPacket p { status := 0 })
      | .started | .ended _ => .next s

/-! ## PREEMPT (R206) -/

/-- The queues that a PREEMPT names. -/
def State.preemptTargets (s : State) (k : Packet) : List Nat :=
  let q := bits (k.word 2) 9 0
  if bit (k.word 2) 18 then (List.range 1024).filter (fun n => (s.queue n).group == (s.queue q).group) else [q]

/-- A queue that is not privileged names queues of another group. -/
def State.preemptBarred (s : State) (k : Packet) : Bool :=
  !(s.queue k.queue).priv && (s.queue (bits (k.word 2) 9 0)).group != (s.queue k.queue).group

/-- ProtectionFault of a PREEMPT. -/
def barredFault : FaultInfo := ⟨kProt, 0, 0⟩

/-- The packet as it is refused. -/
def State.barPreempt (s : State) (p : Nat) : State := s.refusePacket p kProt (faultWord barredFault 0 0 0 0 false 0) 0

/-- With HOLD the target queues are marked. -/
def State.holdQueues (s : State) (k : Packet) (qs : List Nat) : State :=
  if bit (k.word 2) 16 then qs.foldl (fun s q => s.modQueue q (fun x => { x with held := true })) s else s

/-- PREEMPT: every armed region of the target queues is halted; the packet starts at once and ends when each is checkpointed. -/
def execPreempt (p : Nat) (s : State) : Host.Outcome State Fault Refusal :=
  match s.fetched? p 6 with
  | none => .next s
  | some k =>
    if bit (k.word 2) 17 then .next s
    else if s.preemptBarred k then .next (s.barPreempt p)
    else
      let qs := s.preemptTargets k
      let rs := ((s.regions.map Prod.snd).filter (fun r => qs.contains r.queue && (r.phase == .armed || r.phase == .halting))).map Region.num
      let s := rs.foldl State.haltRegion (s.holdQueues k qs)
      .next (s.modPacket p (fun x => { x with st := .started, waits := rs }))

/-- DrainTimeout of a kill (R209). -/
def killFault : FaultInfo := ⟨kDrain, 1, 0⟩

/-- PREEMPT_KILL: the regions of the target queues are stopped; one that is retiring retires normally. The packet ends when they are gone. -/
def execPreemptKill (p : Nat) (s : State) : Host.Outcome State Fault Refusal :=
  match s.fetched? p 6 with
  | none => .next s
  | some k =>
    if !bit (k.word 2) 17 then .next s
    else if s.preemptBarred k then .next (s.barPreempt p)
    else
      let qs := s.preemptTargets k
      let rs := ((s.regions.map Prod.snd).filter (fun r => qs.contains r.queue && r.phase != .retiring)).map Region.num
      let s := rs.foldl (fun (s : State) n => s.stopRegion n killFault (faultWord killFault 0 0 0 0 false 0)) (s.holdQueues k qs)
      .next (s.modPacket p (fun x => { x with st := .started, waits := rs }))

/-! ## Completion (R199, R213) -/

/-- A record's 64 bytes. -/
def Record.word (r : Record) (tag : Nat) : Nat :=
  (recordWord r.status r.kind r.alt r.region r.ver r.aborts).toNat + tag % 2 ^ 32 * 2 ^ 64 + r.ts.toNat * 2 ^ 128 + r.d0.toNat * 2 ^ 192
    + r.d1.toNat * 2 ^ 256 + r.armed % 2 ^ 64 * 2 ^ 320 + r.ended % 2 ^ 64 * 2 ^ 384 + r.die % 4 * 2 ^ 448 + r.x0 % 64 * 2 ^ 450 + r.y0 % 32 * 2 ^ 456

/-- The record that a packet is to write now: what it has ended with, or that of a PREEMPT whose regions have all been checkpointed or killed. -/
def State.recordOf (s : State) (k : Packet) : Option Record :=
  match k.st with
  | .ended r => if k.due ≤ s.cycle then some r else none
  | .started =>
    if k.kind = 6 && k.waits.all (fun n => match s.region? n with | some r => r.phase != .halting && r.phase != .stopped | none => true) then some { status := 0 } else none
  | .fetched | .waiting => none

/-- COMPLETION_RECORD: the record is written, and DONE advances after it. -/
def execCompletionRecord (p : Nat) (s : State) : Host.Outcome State Fault Refusal :=
  match s.packet? p with
  | none => .next s
  | some k =>
    match s.recordOf k with
    | none => .next s
    | some r =>
      let a := domKey (k.word 1)
      let s := if k.word 1 = 0 then s else ((s.storeHome a (leBytes 64 (r.word (bits (k.word 0) 63 32)))).clearRecords a 64).watchSys a 64 1
      .next (State.modQueue { s with packets := s.packets.filter (fun x => x.id != p) } k.queue (fun x => { x with done := x.done + 1 }))

end Sys2Proof.Machine
end

