-- ==== Sys2Proof/Machine/Graph.lean ====
section
/-!
DEFINITION. GRAPH packets: signatures, the choice of alternatives, adapters and fallback fragments (R68, R71, R73, R74). The layout of a graph,
how it is cut into subgraphs and which fallback a node has are free (log 10).
-/
namespace Sys2Proof.Machine

/-! ## Signatures (R68) -/

/-- A node of a graph: its kind, the words of its output format records, its predecessors. -/
abbrev GNode := Nat × List Nat × List Nat

/-- The order positions of a node's predecessors among the nodes ordered so far. -/
def positions (ordered : List Nat) (preds : List Nat) : List Nat := (preds.map (fun p => ordered.findIdx? (· == p))).filterMap id

/-- The key by which ties are broken: operator kind, lowest position of a predecessor (0 where there is none: log 108), number. -/
def tieKey (nodes : List GNode) (ordered : List Nat) (n : Nat) : Nat × Nat × Nat :=
  let (k, _, ps) := (nodes[n]?).getD (0, [], [])
  let at' := positions ordered ps
  (k, (match at' with | [] => 0 | a :: rest => rest.foldl min a), n)

/-- Keys are compared from the left. -/
def tieLt (a b : Nat × Nat × Nat) : Bool :=
  decide (a.1 < b.1) || (a.1 == b.1 && (decide (a.2.1 < b.2.1) || (a.2.1 == b.2.1 && decide (a.2.2 < b.2.2))))

/-- The nodes of a subgraph in topological order. -/
def topoOrder (nodes : List GNode) (sub : List Nat) : Nat → List Nat → List Nat
  | 0, ordered => ordered
  | fuel + 1, ordered =>
    let ready (n : Nat) : Bool := !ordered.contains n && (((nodes[n]?).getD (0, [], [])).2.2.filter sub.contains).all ordered.contains
    match sub.filter ready with
    | [] => ordered
    | n :: rest => topoOrder nodes sub fuel (ordered ++ [rest.foldl (fun a b => if tieLt (tieKey nodes ordered b) (tieKey nodes ordered a) then b else a) n])

/-- The signature of a subgraph. -/
def signature (nodes : List GNode) (sub : List Nat) : Word :=
  let order := topoOrder nodes sub sub.length []
  order.foldl (fun h n =>
    let (k, fs, ps) := (nodes[n]?).getD (0, [], [])
    let mask := (positions order ps).foldl (fun m p => m ||| 2 ^ (p % 16)) 0
    kcg64 h (BitVec.ofNat 64 (k % 2 ^ 16 + fs.foldl (· + ·) 0 % 2 ^ 16 * 2 ^ 16 + mask * 2 ^ 32))) 0

/-! ## A hit (R71) -/

/-- The least of some numbers by a measure, the first among equals. -/
def leastBy (f : Nat → Nat) (xs : List Nat) : Nat :=
  match xs with
  | [] => 0
  | x :: rest => rest.foldl (fun a b => if f b < f a then b else a) x

/-- The alternative that the matcher chooses; `n` is LAUNCHES after its increment. -/
def chooseAlt (m : Motif) (exploreOff : Bool) (n : Nat) : Nat :=
  let js := List.range (mtAlts m)
  if mtPin m != 0 then mtPin m - 1
  else if !mtStill m && !exploreOff && n % 64 == 0 then leastBy (mtSamples m) js
  else leastBy (mtCost m) js

/-- A part of what a graph becomes: a library entry, and the motif, the alternative, the fragment and the name of the entry if it is recognised. -/
structure Part where
  entry : Nat
  motif : Option (Word × Nat × Nat × Nat)

/-- The parts of a subgraph: a motif's fragment on a hit, its nodes' fallback fragments on a miss (none where the library lacks one). -/
def State.matchSub (s : State) (nodes : List GNode) (sub : List Nat) : State × Option (List Part) :=
  let sig := signature nodes sub
  let hit : Option (Nat × Motif × Nat × Nat × Nat) :=
    if 16 < sub.length then none
    else (s.motif? sig).bind (fun (k, m) =>
      let n := (mtLaunches m + 1) % 2 ^ 32
      let j := chooseAlt m s.am.exploreOff n
      (s.fragment? (mtFrag m j)).map (fun (e, _) => (k, mtSet m 95 64 n, j, mtFrag m j, e)))
  match hit with
  | some (k, m, j, frag, e) =>
    ({ s with
      launchCtr := s.launchCtr + 1
      motifs := SMap.put s.motifs k (mtSet m 127 96 (s.launchCtr + 1).toNat)
      am := { s.am with hits := s.am.hits + 1 } }, some [⟨e, some (sig, j, frag, (SMap.find? s.motifIds k).getD 0)⟩])
  | none =>
    let fs := (topoOrder nodes sub sub.length []).map (fun n => s.fragment? (Config.fallback ((nodes[n]?).getD (0, [], [])).1))
    ({ s with am := { s.am with miss := s.am.miss + 1 } },
      if fs.all Option.isSome then some (fs.filterMap (Option.map (fun (e, _) => ⟨e, none⟩))) else none)

/-- The parts of a graph's subgraphs in graph order. -/
def State.matchSubs (s : State) (nodes : List GNode) : List (List Nat) → State × Option (List Part)
  | [] => (s, some [])
  | sub :: rest =>
    let (s, ps) := s.matchSub nodes sub
    let (s, qs) := s.matchSubs nodes rest
    (s, match ps, qs with | some a, some b => some (a ++ b) | _, _ => none)

/-! ## Joining the parts (R73, R74) -/

/-- The last perimeter output of a plan with its number. -/
def Plan.lastOut (p : Plan) : Option (PlanPort × Nat) := (p.ports.zipIdx.filter (fun (x, _) => pOut x.entry && pHole x.entry == 0)).getLast?

/-- The first perimeter input of a plan with its number. -/
def Plan.firstIn (p : Plan) : Option (PlanPort × Nat) := p.ports.zipIdx.find? (fun (x, _) => !pOut x.entry && pHole x.entry == 0)

/-- The plan of an entry. -/
def State.planAt (s : State) (i : Nat) : Plan := ((SMap.find? s.plans i).bind PlanEnt.plan).getD Plan.zero

/-- The adapter for a joint that disagrees in a field: the lowest FRAG_ID of the library that agrees with both sides. -/
def State.adapter (s : State) (field out inp : Nat) : Option Nat :=
  s.library.findSome? (fun (_, i) =>
    let p := s.planAt i
    match p.firstIn, p.lastOut with
    | some (a, _), some (b, _) =>
      if p.hdr.adapter && p.hdr.adaptField == field && (disagree out (pFormat a.entry)).isNone && (disagree (pFormat b.entry) inp).isNone then some i else none
    | _, _ => none)

/-- A plan with the next one behind it: the result with the adapters inserted, or the payload of a JointMismatch (R62, FORM 2). -/
def State.joinNext (s : State) (a b : Plan) (known : Bool) : Except Word (Plan × List Nat) :=
  match a.lastOut, b.firstIn with
  | some (x, pa), some (y, pb) =>
    let pipe (a b : Plan) (pa pb : Nat) : Except Word Plan :=
      match composePpipe a b pa pb with
      | .error m => .error (misWord 2 0 m)
      | .ok (p, _) => .ok p
    match disagree (pFormat x.entry) (pFormat y.entry) with
    | none => (pipe a b pa pb).map (fun p => (p, []))
    | some f =>
      match if known then s.adapter f (pFormat x.entry) (pFormat y.entry) else none with
      | none => .error (misWord 2 0 ⟨f, pa, pb, 1⟩)
      | some i =>
        let d := s.planAt i
        match (d.firstIn).map Prod.snd with
        | none => .error (misWord 2 0 ⟨f, pa, pb, 1⟩)
        | some din =>
          match pipe a d pa din with
          | .error w => .error w
          | .ok ad =>
            match ad.lastOut with
            | none => .error (misWord 2 0 ⟨f, pa, pb, 1⟩)
            | some (_, po) => (pipe ad b po pb).map (fun p => (p, [i]))
  | _, _ => .error (misWord 2 0 ⟨0, 0, 0, 0⟩)

/-- The parts joined in order: the plan and the adapters. `prev` says that the part before was recognised. -/
def State.joinParts (s : State) (a : Plan) (prev : Bool) : List Part → Except Word (Plan × List Nat)
  | [] => .ok (a, [])
  | p :: rest =>
    match s.joinNext a (s.planAt p.entry) (prev || p.motif.isSome) with
    | .error w => .error w
    | .ok (b, ads) =>
      match s.joinParts b p.motif.isSome rest with
      | .error w => .error w
      | .ok (c, more) => .ok (c, ads ++ more)

/-! ## GRAPH -/

/-- The bytes in which the matcher finds a graph. -/
def State.graphBytes (s : State) (k : Packet) : List Byte := s.homeBytes (domKey (k.word 2)) 4096

/-- What a GRAPH packet is matched to is launched. -/
def State.launchParts (s : State) (k : Packet) (h : LHeader) (ps : List Part) : State :=
  let sig := ps.filterMap Part.motif
  match ps with
  | [] => s.refusePacket k.id kConfig (broken 0).d0 0
  | [p] => s.startLaunch k (.entry p.entry) h sig
  | p :: rest =>
    match s.joinParts (s.planAt p.entry) p.motif.isSome rest with
    | .error w => s.refusePacket k.id kJoint w 0
    | .ok (plan, ads) =>
      let s : State := { s with am := { s.am with adapt := s.am.adapt + BitVec.ofNat 64 ads.length } }
      match s.newPlan plan ((p :: rest).map Part.entry ++ ads) none none with
      | none => s.refusePacket k.id kTableFull (faultWord ⟨kTableFull, 0, 0⟩ 0 0 0 0 false 0) 0
      | some (i, s) => ((s.startLaunch k (.entry i) h sig).freePlan i).1

/-- A GRAPH packet with its header matched and launched. -/
def State.matchGraph (s : State) (k : Packet) (h : LHeader) : State :=
  let bs := s.graphBytes k
  let (s, ps) := (s.watchSys (domKey (k.word 2)) 4096 0).matchSubs (Config.graphNodes bs) (Config.subgraphs bs)
  match ps with
  | none => s.refusePacket k.id kHandle (faultWord ⟨kHandle, 0, 0⟩ 0 0 0 0 false 0) 0
  | some ps => s.launchParts k h ps

/-- GRAPH. -/
def execGraph (p : Nat) (s : State) : Host.Outcome State Fault Refusal :=
  match s.fetched? p 2 with
  | none => .next s
  | some k =>
    let s := s.watchSys (domKey (k.word 3)) 128 0
    match s.packetHeader (k.word 3) with
    | .error w => .next (s.refusePacket p kConfig w.d0 w.d1)
    | .ok h => .next (s.matchGraph k h)

end Sys2Proof.Machine
end

