-- ==== Sys2Proof/Machine/Retire.lean ====
section
/-!
DEFINITION. The end of a region and of a task: retirement, the turn of a PSEQ, commit and commit rounds (R39, R64, R72, R131, R133, R162, R163 to
R168, R211 to R213, R262, R344, R351, R377 to R379).
-/
namespace Sys2Proof.Machine

/-! ## What a retirement waits for (R39) -/

/-- A load, a store or an atomic, whose end a retirement waits for (log 18). -/
def isAccess (i : Instr) : Bool :=
  match i with
  | .ldsN _ _ _ | .ldsW _ _ _ | .ldsWc _ _ _ | .sts _ _ _ _ | .ldg _ _ _ | .stg _ _ _ _ | .ldw _ _ _ _ | .aadd _ _ _ _ | .afadd _ _ _ _
  | .amin _ _ _ _ | .amax _ _ _ _ | .aand _ _ _ _ | .aor _ _ _ _ | .axor _ _ _ _ | .aswp _ _ _ _ | .acas _ _ _ _ => true
  | _ => false

/-- A context fires no more: it has halted, or has frozen and its fault token has been delivered (R39, R211). -/
def Ctx.over (c : Ctx) : Bool := match c.st with | .absent | .halted => true | .armed => false | .frozen d => d

/-- Some contexts of a region, by the leaf that they run. -/
def State.ctxsOf (s : State) (r : Region) (leaf : Nat → Bool) : List Ctx :=
  (r.tilesOf s).flatMap (fun (_, t) => match t.elem with | none => [] | some e => e.ctx.toList.filter (fun c => c.region == r.num && c.st != .absent && leaf c.leaf))

/-- A closing stream (R39, R122): global, matrix row, direct, top-k and summary streams. -/
def closing (w : BitVec 512) : Bool :=
  let k := sKind w
  k == 3 || k == 4 || k == 9 || k == 6 || k == 7 || ((k == 1 || k == 2) && sDirect w)

/-- A stream that runs until retirement. -/
def runsOn (w : BitVec 512) : Bool := let k := sKind w; ((k == 1 || k == 2) && !sDirect w) || k == 5 || k == 8

/-- The closing streams of a memory tile have closed; one that a fault has stopped never does. -/
def MTile.streamsOver (m : MTile) : Bool :=
  (List.finRange 4).all (fun g => !(agOn m.ctrl g.val && closing (m.recs.get g)) || (m.gens.get g).st == .complete || (m.gens.get g).st == .closed)

/-- A request token still stands in an output port (R405). -/
def Tile.asks (t : Tile) : Bool := t.op.toList.any (fun xs => xs.any (fun o => match o with
  | .full k _ _ => (match k.side with | .xreq _ _ => true | .none | .acc _ _ | .row _ _ | .ins _ => false)
  | .reserved _ => false))

/-- The matrix unit has no row to gather and no panel to clear. -/
def Matrix.still (m : Matrix) : Bool := m.gaddr.isEmpty && !m.zb

/-- A tile of the region is one of these leaves. -/
def leafTile (leaf : Nat → Bool) (t : Tile) (region : Nat) : Bool :=
  (t.region == region && leaf t.leaf) || t.shared.any (fun x => x.region == region && leaf x.leaf)

/-- Everything that some leaves of a region have issued is complete, and their closing streams have closed. -/
def State.leavesOver (s : State) (r : Region) (leaf : Nat → Bool) : Bool :=
  s.reqs.all (fun q => !(q.region == r.num && leaf q.leaf && isAccess q.op) || (match q.st with | .done _ => true | .sent | .waiting => false))
    && s.transfers.all (fun x => !(x.isCopy.isNone && x.region == r.num && leaf x.leaf))
    && (r.tilesOf s).all (fun (_, t) => !leafTile leaf t r.num
        || (!t.asks && (match t.mem with | none => true | some m => m.streamsOver) && (match t.elem with | none => true | some e => e.mat.still)))

/-- All leaves. -/
def anyLeaf (_ : Nat) : Bool := true

/-- Every PSEQ of the region's plan has loaded its second operand. -/
def Region.lastTurn (r : Region) : Bool := (List.range r.plan.seqs).all (bit r.turn)

/-- Retirement begins: every context has halted, or the completion port has seen the end of a pass. -/
def State.retires (s : State) (r : Region) : Bool := r.compSeen || (r.lastTurn && (s.ctxsOf r anyLeaf).all Ctx.over)

/-- The waits of a retirement are over; a region does not retire before the children that it has launched (R351). -/
def State.retired (s : State) (r : Region) : Bool := s.leavesOver r anyLeaf && !s.launches.any (fun l => l.parent == some r.num)

/-- The streams that run until retirement stop. -/
def MTile.stopStreams (m : MTile) : MTile :=
  { m with gens := Vector.ofFn (fun g => if runsOn (m.recs.get g) then { m.gens.get g with st := .stopped } else m.gens.get g) }

/-! ## Tokens discarded (R39, R261) -/

/-- The tokens of a region that a tile holds, among those of others on a shared element. -/
def Tile.tokens (t : Tile) (region : Nat) : List Token :=
  let qs (mine : Nat → Nat) : List (Fin 4) := (List.finRange 4).filter (fun q => mine q.val == region)
  (qs t.receiver).flatMap (fun q => t.iq.get q)
    ++ (qs t.sender).flatMap (fun q => (t.op.get q).filterMap (fun o => match o with | .full k _ _ => some k | .reserved _ => none))
    ++ (t.scatter.filter (fun c => t.receiver c.q.val == region)).filterMap (fun c => c.held.map Prod.fst)
    ++ (t.gather.filter (fun g => g.key / 4 == region)).flatMap (fun g => g.bufs.flatMap id)
    ++ (match t.mem with | none => [] | some m => (m.staging.map Staging.toks).getD [] ++ m.gens.toList.flatMap (fun g => g.pendTok ++ g.flying.map Prod.fst))

/-- The logs of discarded tokens are written with DISC set. -/
def State.discardLogs (s : State) (r : Region) (ts : List Token) : State := ts.foldl (fun s k => s.sinkLog r.num k true) s

/-- The tokens of a region: in its tiles, and on their way from it or into it. -/
def State.tokensOf (s : State) (r : Region) : List Token :=
  (r.tilesOf s).flatMap (fun (_, t) => t.tokens r.num) ++ (s.flights.filter (fun f => s.ownFlight r f || s.inbound r f)).map Flight.tok

/-! ## The turn of a PSEQ (R64) -/

/-- The leaves of the first operand of a PSEQ. -/
def Region.firstOf (r : Region) (i : Nat) : List (PlanLeaf × Nat) := r.plan.leaves.zipIdx.filter (fun (l, _) => l.turn.contains (i, 0))

/-- The leaves of the first operand that run now. -/
def Region.running (r : Region) (i : Nat) (n : Nat) : Bool := (r.firstOf i).any (fun (l, k) => k == n && l.active r.turn)

/-- A staging tile of the region. -/
def State.isStaging (s : State) (t : Nat) : Bool := ((s.mem? t).map (fun m => m.staging.isSome)).getD false

/-- A packet, or a token in a port, is still on its way to a staging tile. -/
def State.toStaging (s : State) (r : Region) : Bool :=
  s.flights.any (fun f => s.ownFlight r f && (match f.route with | .dest d => s.isStaging d.tile | .table _ => false))
    || (r.tilesOf s).any (fun (_, t) => (List.finRange 4).any (fun q => !(t.op.get q).isEmpty
        && (match SMap.find? t.ext (t.classOf q).val with | some (.to d) => s.isStaging d.tile | _ => false)))

/-- The PSEQ whose first operand has retired while its second has not been loaded: every context of it has halted, or its completion port has seen the
end of a pass (R39). -/
def State.turnReady (s : State) (r : Region) : Option Nat :=
  (List.range r.plan.seqs).find? (fun i =>
    !bit r.turn i && !(r.firstOf i).isEmpty && (r.firstOf i).all (fun (l, _) => l.active r.turn || l.past r.turn)
      && ((s.ctxsOf r (r.running i)).all Ctx.over || bit r.seqSeen i) && s.leavesOver r (r.running i) && !s.toStaging r)

/-- The first operand leaves its tiles and the second is loaded into the same rectangle. -/
def State.takeTurn (s : State) (r : Region) (i : Nat) : State :=
  let gone (n : Nat) (t : Tile) : Bool := r.holds n && leafTile (r.running i) t r.num && !s.isStaging n
  let old := s.tiles.filter (fun (n, t) => gone n t)
  let out (n : Nat) : Bool := (SMap.find? old n).isSome
  let r' := { r with turn := r.turn + 2 ^ i }
  let s := s.discardLogs r (old.flatMap (fun (_, t) => t.tokens r.num) ++ (s.flights.filter (fun f => out (f.src / 4) && s.ownFlight r f)).map Flight.tok)
  let clear (n : Nat) (t : Tile) : Tile :=
    if gone n t then
      if t.shared.any (fun x => x.region != r.num) then t.leave r.num
      else { Tile.arming r.num t.leaf with scatter := t.scatter, gather := t.gather }
    else t
  let s : State := { s with
    tiles := s.tiles.map (fun (n, t) => (n, clear n t))
    sram := s.sram.filter (fun e => !out (e.1 / 2 ^ 19))
    full := s.full.filter (fun e => !out (e.1 / 2 ^ 15))
    flights := s.flights.filter (fun f => !(out (f.src / 4) && s.ownFlight r f))
    reqs := s.reqs.filter (fun q => !(q.region == r.num && r.running i q.leaf))
    faultToks := s.faultToks.filter (fun f => !(f.region == r.num && out f.tile))
    regions := SMap.put s.regions r.num r' }
  (s.loadActive r' (s.readLeaves r.plan) (fun l => l.active r'.turn && !l.active r.turn)).refreshLinks

/-! ## The end of a region -/

/-- A region's running pairs and logs go to its task (R131, R168). -/
def State.closeLogs (s : State) (r : Region) : State :=
  let g := r.closePairs
  (s.modTask r.task (fun t => { t with wr := t.wr ++ g.wlog, rd := t.rd ++ g.rlog })).modRegion r.num (fun x => { x with wlog := g.wlog, rlog := g.rlog, pairs := [] })

/-- The dies whose ports have served a region. -/
def Region.dies (r : Region) : List Nat := (r.die :: r.reuse.map Reuse.die ++ r.pairs.map RunPair.die).eraseDups

/-- The dirty sectors within the region's dirty-range log are written back (R133). -/
def State.writeBackLog (s : State) (r : Region) : State :=
  let g := r.closePairs
  r.dies.foldl (fun s d => g.wlog.foldl (fun (s : State) x => s.writeBack d x) s) s

/-- A port's reuse histogram as a record of KIND 2 (R262). -/
def Reuse.word (u : Reuse) (r : Region) : Nat :=
  2 + r.num % 4096 * 2 ^ 4 + r.ver.toNat * 2 ^ 16 + u.port % 32 * 2 ^ 64 + u.die % 4 * 2 ^ 69
    + 2 ^ 128 * (u.bins.foldr (fun b acc => b % 2 ^ 32 + 2 ^ 32 * acc) 0)

/-- Every port that has served the region writes its histogram. -/
def State.reuseRecords (s : State) (r : Region) : State := r.reuse.foldl (fun (s : State) u => s.traceRecord (u.word r)) s

/-- A sample enters an alternative of an entry (R72). -/
def sampleMotif (m : Motif) (j sample : Nat) : Motif :=
  let n := mtSamples m j
  let c := if n = 0 then sample else (7 * mtCost m j + sample + 4) / 8
  mtSet (mtSet m (223 + 80 * j) (192 + 80 * j) c) (239 + 80 * j) (224 + 80 * j) (min (n + 1) 0xFFFF)

/-- The matcher's sample of a launch that has retired without fault, pre-emption, drain and abort (R72); it is discarded where the entry that chose
the alternative is no longer there (R76). -/
def State.sampleLaunch (s : State) (r : Region) : State :=
  let ab := ((s.task? r.task).map Task.aborts).getD 0
  match s.launches.find? (fun l => l.id == r.launch) with
  | none => s
  | some l =>
    if r.faulted.isSome || r.replaced || ab != 0 || r.compTokens = 0 then s
    else
      l.sig.foldl (fun (s : State) (sig, j, frag, name) =>
        match s.motif? sig with
        | none => s
        | some (k, m) =>
          if mtFrag m j = frag ∧ SMap.find? s.motifIds k = some name then { s with motifs := SMap.put s.motifs k (sampleMotif m j (256 * (r.endedAt - r.armedAt) / r.compTokens)) } else s) s

/-- What a region holds beyond its rectangle is given back when it retires: its backing object and its handles, tile-table entries and communicators,
its reference to its plan (R52, R146, R162, R226, R228, R280). -/
def State.giveBack (s : State) (n : Nat) : State :=
  match s.region? n with
  | none => s
  | some r =>
    let s := r.objs.foldl (fun (s : State) i => s.releaseObj i) s
    let drop (c : Comm) : Comm := { c with users := c.users.filter (· != n) }
    let s : State := { s with
      tables := s.tables.filter (fun e => e.2.region != n)
      comms := (s.comms.map (fun (i, c) => (i, drop c))).filter (fun e => !e.2.users.isEmpty) }
    (s.unref r.planIdx).modRegion n (fun x => { x with objs := [], coll := none, planIdx := none, backing := 0 })

/-- A region is over: its number is free. -/
def State.release (s : State) (r : Region) : State :=
  let s := s.giveBack r.num
  State.refreshLinks { s with
    dbg := { s.dbg with dbgHeld := s.dbg.dbgHeld.filter (· != r.num) }
    regions := SMap.erase s.regions r.num }

/-- A task is over. -/
def State.dropTask (s : State) (t : Nat) : State := { s with tasks := s.tasks.filter (fun x => x.id != t) }

/-- The record of a region's launch: 0, or 1 with the fault that was delivered (R213). -/
def State.recordRegion (s : State) (r : Region) : State :=
  match r.faulted with
  | none => s.launchEnded r 0 0 0 0
  | some (k, tok, det) => s.launchEnded r 1 k tok det

/-- A region has retired: its tokens are discarded, its rectangle is free; an unordered task is over, an ordered one is complete (R39, R133, R163,
R167). -/
def State.finishRegion (s : State) (r0 : Region) : State :=
  let s := s.closeLogs r0
  let r := { ((s.region? r0.num).getD r0) with endedAt := s.cycle, phase := .writeBack }
  let s := (s.discardLogs r0 (s.tokensOf r0)).reuseRecords r
  let s := if r.hdr.ordered then s else s.writeBackLog r
  let s := State.freeRect { s with regions := SMap.put s.regions r.num r } r0
  if r.hdr.ordered then ((s.modTask r.task (fun t => { t with complete := true })).giveBack r.num).refreshLinks
  else ((((s.sampleLaunch r).recordRegion r).dropTask r.task).release r)

/-- A stopped region has halted, and what it has sent to port tiles, the transfers accepted from it and the chunks in service for its entries are
complete (R207, R212, R301, R407). -/
def State.stopOver (s : State) (r : Region) : Bool :=
  s.atBoundary r && s.reqs.all (fun q => !(q.region == r.num && toPort q.op && q.st == .sent))
    && s.transfers.all (fun x => !(x.isCopy.isNone && x.region == r.num && x.accepted))
    && s.engines.toList.all (fun e => ((e.now.bind (fun w => SMap.find? s.tables w.2.entry)).map TEntry.region) != some r.num)

/-- A stopped region is gone: its rectangle is free; an ordered task's pending versions and buffered atomics are discarded, and it counts as
committed with no writes (R164, R212). -/
def State.finishStop (s : State) (r : Region) : State :=
  let s := s.discardLogs r (s.tokensOf r)
  let s := if r.hdr.ordered then s.discardTask r.task else s.writeBackLog r
  let s := match s.task? r.task with
    | some t => let s := s.takeKey t; { s with maxTs := max s.maxTs ((((s.task? r.task).bind Task.key).map Prod.fst).getD 0) }
    | none => s
  (((((s.freeRect r).unhalt r).launchEnded r 2 r.stopKind r.stopTok r.stopDet).dropTask r.task).release r)

/-- REGION_RETIRE (R39, R64, R212): what the end of a region, or of the first operand of one of its PSEQs, brings about now. -/
def execRegionRetire (n : Nat) (s : State) : Host.Outcome State Fault Refusal :=
  match s.region? n with
  | none => .next s
  | some r =>
    match r.phase with
    | .armed =>
      if s.retires r then
        let s : State := { s with tiles := s.tiles.map (fun (k, t) =>
          (k, if r.holds k && t.region == n then { t with mem := t.mem.map MTile.stopStreams } else t)) }
        let r' := { r with phase := .retiring }
        let s : State := { s with regions := SMap.put s.regions n r' }
        if s.retired r' then .next (s.finishRegion r') else .next s
      else
        match s.turnReady r with
        | some i => .next (s.takeTurn r i)
        | none => .next s
    | .retiring => if s.retired r then .next (s.finishRegion r) else .next s
    | .stopped => if s.stopOver r then .next (s.finishStop r) else .next s
    | .halting | .checkpointed | .writeBack | .done => .next s

/-! ## Commit (R164, R166 to R168, R344) -/

/-- The bytes of a pending version replace those of the committed contents, and its sector becomes dirty (R167). -/
def State.commitVersion (s : State) (p : Pending) : State :=
  (List.range 64).foldl (fun (s : State) i => if p.mask.getLsbD i then s.clearRecords (p.sec * 64 + i) 1 else s) (s.commitSector p)

/-- A buffered commutative atomic is applied at its home. -/
def State.applyAtomic (s : State) (a : Nat × Instr × Word × Nat) : State :=
  let (k, i, b, _) := a
  let n := atomicSize i
  let s := fourDies.foldl (fun (s : State) d => s.writeBack d (rngOf k n)) s
  (s.putHome k n (atomicFn i (BitVec.ofNat 64 (s.homeWord k n)) b 0).toNat).clearRecords k n

/-- What a task has read so far: its own ranges and the logs of the region that runs it. -/
def State.readRanges (s : State) (u : Task) : List Rng :=
  u.rd ++ (match u.region.bind s.region? with
    | some r => if r.task = u.id then r.rlog ++ (r.pairs.filter (fun p => !p.write)).map RunPair.rng else []
    | none => [])

/-- The younger tasks that have read what a task writes. -/
def State.conflicts (s : State) (t : Task) : List Nat :=
  (s.tasks.filter (fun u => u.id != t.id && u.ordered && !s.stoppedTask u && keyLt (s.keyOf t) (s.keyOf u)
    && (s.readRanges u).any (fun a => t.wr.any (fun b => a.meets b)))).map Task.id

/-- The entries that a task's PFREEs have freed. -/
def State.freePlans (s : State) (is : List Nat) : State :=
  is.foldl (fun (s : State) i =>
    if ((SMap.find? s.plans i).map PlanEnt.own).getD false then
      let (s, objs) := s.freePlan i
      objs.foldl State.releaseObj s
    else s) s

/-- The commit of a task that has its key (R167): its pending versions, its buffered commutative atomics in the order of their issue, what the port caches
of the other dies hold of its write ranges, the conflicts; with the last task of a launch whose region has retired, the launch is over. -/
def State.commit (s : State) (t : Task) : State :=
  let s := (s.pend.filter (fun p => p.task == t.id)).foldl State.commitVersion s
  let s : State := { s with pend := s.pend.filter (fun p => p.task != t.id) }
  let s := (sortBy (fun (a b : Nat × Instr × Word × Nat) => decide (a.2.2.2 < b.2.2.2)) t.atomics).foldl State.applyAtomic s
  let s := t.rels.foldl (fun (s : State) (k, ps) => s.putRecord k ps) s
  let home := (t.region.bind s.region?).map Region.die
  let s := (fourDies.filter (fun d => home != some d)).foldl (fun s d => t.wr.foldl (fun (s : State) r => s.invalidate d r) s) s
  let s := (s.conflicts t).foldl State.abortTask s
  let s : State := s.freePlans t.frees
  let s : State := { s with maxTs := max s.maxTs ((t.key.map Prod.fst).getD 0) }
  let s : State := match t.region.bind (State.region? s) with
    | none => s
    | some r =>
      let s := s.modRegion r.num (fun x => { x with starts := x.starts.filter (fun y => y.1 != t.id) })
      let g := { r with task := t.id }
      if r.phase == .writeBack && !s.tasks.any (fun u => u.id != t.id && u.launch == t.launch) then ((s.sampleLaunch g).recordRegion g).release g else s
  s.dropTask t.id

/-- TASK_COMMIT: a complete task commits when every ordered task with a smaller key has. -/
def execTaskCommit (t : Nat) (s : State) : Host.Outcome State Fault Refusal :=
  match s.task? t with
  | none => .next s
  | some x =>
    if x.ordered && x.complete && s.isOldest x && !s.stoppedTask x then
      let s := s.takeKey x
      match s.task? t with
      | none => .next s
      | some x => .next (s.commit x)
    else .next s

/-! ## Commit rounds (R165, R377 to R379) -/

/-- A context owns an enabled TCOMMIT slot. -/
def Elem.ownsCommit (e : Elem) (c : Fin 4) : Bool :=
  (List.finRange 32).any (fun n => match e.slotOf c n with | some (.tcommit _ _) => true | _ => false)

/-- The contexts of a region that own a TCOMMIT slot. -/
def State.commitCtxs (s : State) (r : Region) : List Ctx :=
  (r.tilesOf s).flatMap (fun (_, t) => match t.elem with
    | none => []
    | some e => ((List.finRange 4).filter (fun c => (e.ctx.get c).region == r.num && (e.ctx.get c).st != .absent && e.ownsCommit c)).map (fun c => e.ctx.get c))

/-- A commit round is complete: every such context has fired TCOMMIT or has halted, and one is held (R377). -/
def State.roundDone (s : State) (r : Region) : Bool := let cs := s.commitCtxs r; cs.any Ctx.held && cs.all (fun c => c.held || c.st == .halted)

/-- The timestamp of the next task (R378). -/
def nextTs (now : Word) (proposals : List Word) : Word :=
  match proposals with
  | [] => now + 1
  | p :: rest => rest.foldl (fun a b => if a.toNat < b.toNat then b else a) p

/-- The contexts of a region are released. -/
def State.releaseCtxs (s : State) (r : Region) : State :=
  let one (e : Elem) : Elem := { e with ctx := e.ctx.map (fun c => if c.region == r.num then { c with held := false } else c) }
  { s with tiles := s.tiles.map (fun (k, t) => (k, if r.holds k then { t with elem := t.elem.map one } else t)) }

/-- The next task of an instance takes over the region; one that has been aborted before it began again keeps its key (R164). -/
def State.nextTask (s : State) (r : Region) (t : Task) : State :=
  let n := s.nextId
  let (key, aborts) := r.kept.headD (none, t.aborts)
  let new : Task := { t with
    id := n, ts := nextTs t.ts r.proposals, key := key, aborts := aborts, irrev := false, complete := false, mchecks := 0, atomics := [], wr := [], rd := [], rels := [], frees := []
    bars := hex Bar.zero }
  let s : State := State.fresh { s with
    tasks := s.tasks ++ [new]
    reqs := mapIf (fun q => q.region == r.num) (fun q => { q with task := n }) s.reqs
    transfers := mapIf (fun x => x.region == r.num && x.isCopy.isNone) (fun x => { x with task := n }) s.transfers
    launches := mapIf (fun l => l.region == some r.num) (fun l => { l with task := n }) s.launches }
  let s := (s.modRegion r.num (fun x => { x with task := n, wlog := [], rlog := [], pairs := [], proposals := [], commitAt := some s.cycle, kept := r.kept.tail })).releaseCtxs r
  if r.hdr.ordered then s.modRegion r.num (fun x => { x with starts := x.starts ++ [(n, s.snapshot x)] }) else s

/-- No token remains in any queue, port or router of a region (R263). -/
def State.noTokens (s : State) (r : Region) : Bool := (s.tokensOf r).isEmpty

/-- TCOMMIT_ROUND: the current task is complete and the next begins. -/
def execTcommitRound (n : Nat) (s : State) : Host.Outcome State Fault Refusal :=
  match s.region? n with
  | none => .next s
  | some r =>
    match s.task? r.task with
    | none => .next s
    | some t =>
      if r.phase == .armed && s.roundDone r then
        let s := s.closeLogs r
        let s := s.nextTask r t
        let s := if r.hdr.ordered then s.modTask t.id (fun x => { x with complete := true })
          else (s.writeBackLog r).dropTask t.id
        .next (if s.dbg.dbgArm && s.dbg.dbgRegion.toNat == n && s.noTokens r then s.first (.ev (.debugStop n)) else s)
      else .next s

end Sys2Proof.Machine
end

