-- ==== Sys2Proof/Machine/HostIf.lean ====
section
/-!
DEFINITION. What the host and the device's own monitors do: registers (R75, R193, R196, R259), host memory accesses (R238), debug stops (R263), power
(R266), machine checks (R267, R268), measurements (R269), start-up (R195).
-/
namespace Sys2Proof.Machine

/-! ## Debug stops (R263) -/

/-- DBGSTOP as ARM, RESUME and the region's number are written. -/
def State.armDebug (s : State) (region : BitVec 12) (arm : Bool) : State := { s with dbg := { s.dbg with dbgRegion := region, dbgArm := arm } }

/-- DEBUG_ARM. -/
def execDebugArm (region : BitVec 12) (s : State) : Host.Outcome State Fault Refusal := .next (s.armDebug region true)

/-- The regions held by debug stops are armed again in their places, and ARM is cleared. -/
def State.resumeDebug (s : State) : State :=
  let held := s.dbg.dbgHeld
  let s : State := { s with dbg := { s.dbg with dbgArm := false, dbgHeld := [] } }
  held.foldl (fun (s : State) n =>
    match s.region? n with
    | none => s
    | some r => match r.phase, r.save with | .checkpointed, some p => s.rearm r p r.die r.x0 r.y0 | _, _ => s) s

/-- DEBUG_RESUME. -/
def execDebugResume (s : State) : Host.Outcome State Fault Refusal := .next s.resumeDebug

/-- A region stands at a reconfiguration boundary: it has been armed in this cycle, or a commit round has left no token in it. -/
def State.atBreak (s : State) (r : Region) : Bool :=
  r.phase == .armed && ((r.armedAt == s.cycle && !r.replaced) || (r.commitAt == some s.cycle && s.noTokens r))

/-- DEBUG_STOP: the region that ARM names is checkpointed at its boundary; it keeps its rectangle until RESUME. -/
def execDebugStop (n : Nat) (s : State) : Host.Outcome State Fault Refusal :=
  match s.region? n with
  | none => .next s
  | some r =>
    if s.dbg.dbgArm && s.dbg.dbgRegion.toNat == n && s.atBreak r then
      let s := s.checkpoint r
      .next { s with dbg := { s.dbg with dbgHeld := n :: s.dbg.dbgHeld.filter (· != n) } }
    else .next s

/-! ## Registers (R75, R193, R196, R259) -/

/-- A package register of R193 written; a value outside a register's range leaves it (log 16). -/
def State.writePkg (s : State) (off : Nat) (v : Word) : State :=
  let n := v.toNat
  let free := s.objects.isEmpty
  let r := s.regs
  match off with
  | 0x1000 => if 1 ≤ bits n 6 0 ∧ bits n 6 0 ≤ 100 then { s with regs := { r with drainLimit := v.setWidth 7 } } else s
  | 0x1008 => if free then { s with regs := { r with objtab := v &&& 0xFFFFFFFFFFFFFF00 } } else s
  | 0x1010 => if free && decide (n ≤ 2 ^ 32) then { s with regs := { r with objcnt := n } } else s
  | 0x1018 => if v ≤ r.pwhigh then State.checkLow { s with regs := { r with pwlow := v } } else s
  | 0x1020 => if r.pwlow ≤ v then { s with regs := { r with pwhigh := v } } else s
  | 0x1028 =>
    if bits n 3 0 ≤ 8 ∧ bits n 7 4 ≤ 8 ∧ bits n 11 8 ≤ 8 ∧ bits n 15 12 ≤ 8 then { s with regs := { r with portmap := v.setWidth 16 } } else s
  | 0x1030 => if 256 ≤ n ∧ n ≤ 2 ^ 24 then { s with regs := { r with ageStep := n } } else s
  | 0x10A0 => if free then { s with regs := { r with pwbase := v &&& 0xFFFFFFFF00 } } else s
  | 0x10A8 => if free then { s with regs := { r with pwsize := v &&& 0xFFFFFFFFFFFFFF00 } } else s
  | _ => s

/-- A trace, debug, machine-check or watchpoint register of R259 written. -/
def State.writeDbg (s : State) (off : Nat) (v : Word) : State :=
  let n := v.toNat
  let d := s.dbg
  match off with
  | 0x1040 => { s with dbg := { d with trbase := v &&& 0xFFFFFFFFFFFFFF80 } }
  | 0x1048 => if 4 ≤ bits n 4 0 ∧ bits n 4 0 ≤ 24 then { s with dbg := { d with trsize := v.setWidth 5 } } else s
  | 0x1058 => { s with dbg := { d with trtail := v } }
  | 0x1060 => { s with dbg := { d with trdrop := d.trdrop &&& ~~~ v } }
  | 0x1068 => let s := s.armDebug (v.setWidth 12) (v.getLsbD 12); if v.getLsbD 14 then s.resumeDebug else s
  | 0x1078 => { s with dbg := { d with mclog := d.mclog &&& ~~~ v.setWidth 54 } }
  | _ =>
    if off = 0x1080 ∨ off = 0x1088 ∨ off = 0x1090 ∨ off = 0x1098 then
      { s with dbg := { d with watch := Vector.upd (n := 3) d.watch ((off - 0x1080) / 8) (v &&& 0x003FFFFFFFFFFFC0) } }
    else s

/-- The bits of AMENT that software writes: SIG, NALT, PIN, NOEXPL and the four FRAG; the measured fields are read-only and reserved bits read zero (R3,
R69, R75). -/
def entWritable : BitVec 512 :=
  BitVec.ofNat 512 (2 ^ 64 - 1 + (2 ^ 7 - 1) * 2 ^ 128 + (2 ^ 32 - 1) * (2 ^ 160 + 2 ^ 240 + 2 ^ 320 + 2 ^ 400))

/-- A register of the matcher block written (R75, R347). -/
def State.writeMatch (s : State) (off : Nat) (v : Word) : State :=
  let a := s.am
  match off with
  | 0x00 =>
    let s : State := { s with am := { a with exploreOff := v.getLsbD 0, freeze := v.getLsbD 2 } }
    if v.getLsbD 1 then s.amFlush else s
  | 0x08 => { s with am := { a with sig := v } }
  | 0x10 => if v.getLsbD 3 then s.amPin (v.setWidth 3) else { s with am := { a with pin := v.setWidth 3 } }
  | 0x38 =>
    match v.toNat with
    | 1 => s.amReadEntry
    | 2 => s.amRegister
    | 3 => s.libInstall
    | 4 => s.libRemove
    | _ => s
  | _ =>
    if 0x40 ≤ off ∧ off < 0x80 ∧ off % 8 = 0 then
      let b := 8 * (off - 0x40)
      let w := BitVec.ofNat 512 (setBits 0 (b + 63) b v.toNat)
      let m := BitVec.ofNat 512 (setBits 0 (b + 63) b (2 ^ 64 - 1)) &&& entWritable
      { s with am := { a with ent := (a.ent &&& ~~~ m) ||| (w &&& m) } }
    else s

/-- A register of a queue written (R196). QBASE and LOG2SIZE stay while the queue is enabled. -/
def State.writeQueue (s : State) (q off : Nat) (v : Word) : State :=
  let x := s.queue q
  let on := x.cfg.getLsbD 16
  match off with
  | 0x00 => if on then s else s.modQueue q (fun x => { x with base := v &&& 0xFFFFFFFFFFFFFFC0 })
  | 0x08 =>
    let c := v.setWidth 25
    let c := if on then (c &&& ~~~ (0x1F : BitVec 25)) ||| (x.cfg &&& 0x1F) else c
    if 6 ≤ bits c.toNat 4 0 ∧ bits c.toNat 4 0 ≤ 20 ∧ bits c.toNat 23 17 ≠ 0 then s.modQueue q (fun x => { x with cfg := c }) else s
  | 0x10 => s.kick q v
  | 0x28 => s.qstat q v
  | _ => s

/-- REGISTER_WRITE: a register at an offset of BAR0. Registers not listed, and those that cannot be written, stay. -/
def execRegisterWrite (off : Nat) (v : Word) (s : State) : Host.Outcome State Fault Refusal :=
  if 0x10000 ≤ off ∧ off < 0x10000 + 64 * 1024 then .next (s.writeQueue ((off - 0x10000) / 64) ((off - 0x10000) % 64) v)
  else if 0x2000 ≤ off ∧ off < 0x2080 then .next (s.writeMatch (off - 0x2000) v)
  else if 0x1040 ≤ off ∧ off < 0x10A0 then .next (s.writeDbg off v)
  else .next (s.writePkg off v)

/-! ## What a read of BAR0 gives (R3, R75, R193 to R196, R259) -/

/-- The identity record (R1, R12, R194): what is available is what the die has, less the Brass strip's 32 elements and less what the defect map
marks. -/
def PkgRegs.ident (r : PkgRegs) : Nat :=
  let marks := r.defects.eraseDups
  let count (p : Nat → Bool) : Nat := (marks.filter p).length
  let tile (b : Nat) : Bool := decide (b % 2048 < 1536)
  let strip (b : Nat) : Bool := decide (b / 2048 = 0) && b % 48 == 0
  let elems := 4064 - count (fun b => tile b && !isMemCol (b % 2048 % 48) && !strip b)
  let mtiles := 2048 - count (fun b => tile b && isMemCol (b % 2048 % 48))
  let ptiles := 128 - count (fun b => !tile b)
  0x53460004 + 0xB1 * 2 ^ 32 + r.romver.toNat * 2 ^ 40 + elems * 2 ^ 56 + mtiles * 2 ^ 69 + ptiles * 2 ^ 81

/-- A 64-bit word of the defect map (R195). -/
def PkgRegs.defectWord (r : PkgRegs) (n : Nat) : Nat :=
  (List.range 64).foldl (fun x i => if r.defects.contains (64 * n + i) then x + 2 ^ i else x) 0

/-- PWRSTAT. -/
def DebugRegs.pwrstat (d : DebugRegs) : Nat := d.mhz.toNat + d.cap.toNat * 2 ^ 11 + d.droop.toNat * 2 ^ 12

/-- DBGSTOP as it reads: RESUME is write-only. -/
def DebugRegs.dbgstop (d : DebugRegs) : Nat := d.dbgRegion.toNat + d.dbgArm.toNat * 2 ^ 12 + (!d.dbgHeld.isEmpty).toNat * 2 ^ 13

/-- A trace, debug, power, machine-check or watchpoint register as it reads (R259). -/
def DebugRegs.word (d : DebugRegs) (off : Nat) : Nat :=
  match off with
  | 0x1040 => d.trbase.toNat
  | 0x1048 => d.trsize.toNat
  | 0x1050 => d.trhead.toNat
  | 0x1058 => d.trtail.toNat
  | 0x1060 => d.trdrop.toNat
  | 0x1068 => d.dbgstop
  | 0x1070 => d.pwrstat
  | 0x1078 => d.mclog.toNat
  | 0x1080 | 0x1088 | 0x1090 | 0x1098 => (Vector.at (n := 3) d.watch ((off - 0x1080) / 8)).toNat
  | _ => 0

/-- A register of the matcher block as it reads; FLUSH, GO and AMCMD are write-only (R75). -/
def MatchRegs.word (a : MatchRegs) (off : Nat) : Nat :=
  match off with
  | 0x00 => a.exploreOff.toNat + a.freeze.toNat * 4
  | 0x08 => a.sig.toNat
  | 0x10 => a.pin.toNat + a.notFound.toNat * 16
  | 0x18 => a.hits.toNat
  | 0x20 => a.miss.toNat
  | 0x28 => a.adapt.toNat
  | 0x30 => a.repl.toNat
  | _ => if 0x40 ≤ off ∧ off < 0x80 then bits a.ent.toNat (8 * (off - 0x40) + 63) (8 * (off - 0x40)) else 0

/-- A register of a queue as it reads (R196). -/
def Queue.word (x : Queue) (off : Nat) : Nat :=
  match off with
  | 0x00 => x.base.toNat
  | 0x08 => x.cfg.toNat
  | 0x10 => x.kick.toNat
  | 0x18 => x.read.toNat
  | 0x20 => x.done.toNat
  | 0x28 => x.faulted.toNat + x.ovr.toNat * 2 + x.held.toNat * 4 + x.parked.toNat * 8
  | _ => 0

/-- A package register as it reads (R193). -/
def PkgRegs.word (r : PkgRegs) (off : Nat) : Nat :=
  match off with
  | 0x1000 => r.drainLimit.toNat
  | 0x1008 => r.objtab.toNat
  | 0x1010 => r.objcnt
  | 0x1018 => r.pwlow.toNat
  | 0x1020 => r.pwhigh.toNat
  | 0x1028 => r.portmap.toNat
  | 0x1030 => r.ageStep
  | 0x10A0 => r.pwbase.toNat
  | 0x10A8 => r.pwsize.toNat
  | _ => if off < 64 then bits r.ident (8 * off + 63) (8 * off) else if 0x400 ≤ off ∧ off < 0x800 then r.defectWord ((off - 0x400) / 8) else 0

/-- What a host's read of the register at an offset of BAR0, a multiple of 8, gives (log 109): zero where no register is listed. No read but that of PWRSTAT
(PWRSTAT_READ) changes anything, so this is all there is of the others. -/
def State.barWord (s : State) (off : Nat) : Nat :=
  if 0x10000 ≤ off ∧ off < 0x10000 + 64 * 1024 then (s.queue ((off - 0x10000) / 64)).word (off % 64)
  else if 0x2000 ≤ off ∧ off < 0x2080 then s.am.word (off - 0x2000)
  else if 0x1040 ≤ off ∧ off < 0x10A0 then s.dbg.word off
  else s.regs.word off

/-! ## Host accesses (R238) -/

/-- HOST_MEM_WRITE: the write is performed at the home, after the copies in the port caches have been invalidated. -/
def execHostMemWrite (pa : Nat) (bs : List Byte) (s : State) : Host.Outcome State Fault Refusal :=
  let k := domKey pa
  .next (((s.storeHome k bs).clearRecords k bs.length).watch ((homeDie k).getD 0) k bs.length 1 3)

/-- HOST_MEM_READ: what the home holds for the host goes to it. -/
def execHostMemRead (pa n : Nat) (s : State) : Host.Outcome State Fault Refusal :=
  let k := domKey pa
  .next (State.watch { s with hostOut := (List.range n).map (fun i => s.forHost (k + i)) } ((homeDie k).getD 0) k n 0 3)

/-! ## Power (R259, R266) -/

/-- DROOP_TRIP: the clock is stretched, which is time, and DROOP is set. -/
def execDroopTrip (s : State) : Host.Outcome State Fault Refusal := .next { s with dbg := { s.dbg with droop := true } }

/-- POWER_CAP_STEP: the clock steps down by 50 MHz, to no less than 550, and CAP is set. -/
def execPowerCapStep (s : State) : Host.Outcome State Fault Refusal :=
  .next { s with dbg := { s.dbg with mhz := BitVec.ofNat 11 (max 550 (s.dbg.mhz.toNat - 50)), cap := true } }

/-- PWRSTAT_READ: the host reads PWRSTAT, and DROOP is cleared. -/
def execPwrstatRead (s : State) : Host.Outcome State Fault Refusal :=
  .next { s with hostOut := leBytes 8 (s.barWord 0x1070), dbg := { s.dbg with droop := false } }

/-! ## Reliability (R267 to R269) -/

/-- MCLOG of an error. -/
def mclogOf (src : Fin 6) (addr : Nat) : BitVec 54 := BitVec.ofNat 54 (addr % 2 ^ 50 + src.val * 2 ^ 50 + 2 ^ 53)

/-- The region that an error hits is aborted and run again once, or stopped with what MCLOG holds of the error, the address in its low bits (R210,
R268; log 32). -/
def State.hitRegion (s : State) (n : Nat) (log : BitVec 54) : State :=
  match s.region? n with
  | none => s
  | some r =>
    let f : FaultInfo := ⟨kMachine, 0, log.setWidth 64⟩
    let stop (s : State) : State := s.stopRegion n f (faultWord f 0 0 0 0 false 0)
    match s.task? r.task with
    | some t => if t.ordered && !t.irrev && t.mchecks = 0 then (s.modTask t.id (fun x => { x with mchecks := 1 })).abortTask t.id else stop s
    | none => stop s

/-- A fill or a spill of an element of a region meets an address of the backing area: the context that waits for it, and its register. -/
def Region.moveAt (r : Region) (tile : Nat) (e : Elem) (addr : Nat) : Option RegMove :=
  e.moves.find? (fun m =>
    ((if m.isFill then [m.want] else []) ++ m.out.toList).any (fun (c, n) => (Vector.at (n := 3) e.ctx c).region == r.num && decide (r.regAddr tile c n ≤ addr) && decide (addr < r.regAddr tile c n + 80)))

/-- The elements whose fill or spill meets an address of a region's backing area. -/
def State.movesAt (s : State) (n addr : Nat) : List (Nat × RegMove) :=
  match s.region? n with
  | none => []
  | some r => s.tiles.filterMap (fun (t, x) => x.elem.bind (fun e => (r.moveAt t e addr).map (fun m => (t, m))))

/-- The fill or spill ends without a register, and the context that waits for it freezes with RegisterBacking (R19, R146). -/
def State.backingFault (s : State) (tile : Nat) (m : RegMove) : State :=
  match s.elem? tile with
  | none => s
  | some e =>
    let c : Fin 4 := ⟨m.want.1 % 4, Nat.mod_lt _ (by decide)⟩
    let k := e.ctx.get c
    let s := s.modElem tile (fun e => { e with moves := e.moves.filter (· != m) })
    (s.modCtx tile c (fun x => { x with st := .frozen false })).raiseFault k.region k.leaf tile c.val m.slot.val false ⟨kBacking, 0, 0⟩ (some (tile, c))

/-- MACHINE_CHECK: MCLOG records the error; a fill or a spill that meets it freezes its context (R146), any other hits its region. -/
def execMachineCheck (src : Fin 6) (addr region : Nat) (s : State) : Host.Outcome State Fault Refusal :=
  let s : State := { s with dbg := { s.dbg with mclog := mclogOf src addr } }
  match if src.val = 1 ∨ src.val = 2 then s.movesAt region addr else [] with
  | [] => .next (s.hitRegion region (mclogOf src addr))
  | ms => .next (ms.foldl (fun s (t, m) => s.backingFault t m) s)

/-- SPDM_GET_MEASUREMENTS: 48 bytes of the firmware (index 1) or of the ROM image (index 2). -/
def execSpdmGetMeasurements (idx : Nat) (s : State) : Host.Outcome State Fault Refusal :=
  .next { s with hostOut := if idx = 1 ∨ idx = 2 then (List.range 48).map (fun i => Config.measurement (48 * idx + i)) else [] }

/-- DEVICE_RESET (R195): the state after reset with the defect map of this start-up; the drives keep their blocks, and the ROM image its version. -/
def execDeviceReset (s : State) : Host.Outcome State Fault Refusal :=
  .next { State.reset with
    flash := s.flash
    freeCtr := s.freeCtr + 1
    regs := { State.reset.regs with romver := s.regs.romver, defects := (Config.defectMap s.freeCtr).filter (fun b => decide (b < 8192) && decide (b % 2048 < 1568)) } }

end Sys2Proof.Machine
end

