-- ==== Sys2Proof/Machine/Scalar.lean ====
section
/-!
DEFINITION. The scalar integer instructions (R294, R298 to R300, R306, R326, R339, R340, R342, R352, R355, R363, R366, R375, R404). None
sets a flag or faults (R286).
-/
namespace Sys2Proof.Machine

/-- A firing of two scalar sources and a scalar destination. -/
def scalar2 (i : Instr) (d : SDst) (a b : SSrc) (f : Word → Word → Word) (s : State) : Host.Outcome State Fault Refusal :=
  fire i s (fun e s => .done (s.writeS e d (f (e.s a) (e.s b))) 0)

/-- A firing of one scalar source and a scalar destination. -/
def scalar1 (i : Instr) (d : SDst) (a : SSrc) (f : Word → Word) (s : State) : Host.Outcome State Fault Refusal :=
  fire i s (fun e s => .done (s.writeS e d (f (e.s a))) 0)

/-- A firing that changes a scalar register by an immediate. -/
def scalarImm (i : Instr) (d : Fin 16) (f : Word → Word) (s : State) : Host.Outcome State Fault Refusal :=
  fire i s (fun e s => .done (s.putS e d (f (e.ctx.s.get d))) 0)

/-- A firing that writes a predicate, complemented when POL is 1 (R78). -/
def predWrite (i : Instr) (pd : Fin 8) (pol : Bool) (f : Env → Bool) (s : State) : Host.Outcome State Fault Refusal :=
  fire i s (fun e s => .done (s.putP e pd (f e != pol)) 0)

/-- The immediate of format I (R78). -/
def sextImm (imm : BitVec 13) : Word := imm.signExtend 64

/-- DIV (R306). -/
def divS (a b : Word) : Word := if b = 0 then BitVec.allOnes 64 else a.sdiv b
/-- DIVU (R306). -/
def divU (a b : Word) : Word := if b = 0 then BitVec.allOnes 64 else a / b
/-- REM (R363). -/
def remS (a b : Word) : Word := if b = 0 then a else a.srem b
/-- REMU (R363). -/
def remU (a b : Word) : Word := if b = 0 then a else a % b
/-- The high half of a signed product (R340). -/
def mulhS (a b : Word) : Word := BitVec.ofInt 64 (a.toInt * b.toInt / 2 ^ 64)
/-- The high half of an unsigned product (R340). -/
def mulhU (a b : Word) : Word := BitVec.ofNat 64 (a.toNat * b.toNat / 2 ^ 64)
/-- The count of a shift: b[5:0] (R366). -/
def shiftCount (b : Word) : Nat := b.toNat % 64
/-- The number of leading zeros (R299). -/
def clz64 (a : Word) : Word := if a = 0 then 64 else BitVec.ofNat 64 (63 - a.toNat.log2)
/-- The number of one bits (R355). -/
def popc64 (a : Word) : Word := BitVec.ofNat 64 ((List.range 64).filter a.getLsbD).length
/-- The mask of a field of `w` bits (R298). -/
def fieldMask (w : Nat) : Word := BitVec.ofNat 64 (2 ^ min w 64 - 1)
/-- BFX (R298). -/
def bfx64 (a b : Word) : Word := (a >>> (b.toNat % 64)) &&& fieldMask (b.toNat / 64 % 128)
/-- BFI into d (R298). -/
def bfi64 (d a b : Word) : Word :=
  let lo := b.toNat % 64
  let m : Word := fieldMask (b.toNat / 64 % 128) <<< lo
  (d &&& ~~~ m) ||| ((a <<< lo) &&& m)

/-- MOVI (R339). -/
def execMovi (t : Trig) (d : Fin 16) (imm : BitVec 13) (s : State) : Host.Outcome State Fault Refusal :=
  scalarImm (.movi t d imm) d (fun _ => sextImm imm) s

/-- MOVHI: IMM is unsigned (R339). -/
def execMovhi (t : Trig) (d : Fin 16) (imm : BitVec 13) (s : State) : Host.Outcome State Fault Refusal :=
  scalarImm (.movhi t d imm) d (fun x => (x <<< 13) ||| imm.setWidth 64) s

/-- ADD (R294). -/
def execAdd (t : Trig) (d : SDst) (a b : SSrc) (s : State) : Host.Outcome State Fault Refusal :=
  scalar2 (.add t d a b) d a b (fun x y => x + y) s

/-- ADDI (R294). -/
def execAddi (t : Trig) (d : Fin 16) (imm : BitVec 13) (s : State) : Host.Outcome State Fault Refusal :=
  scalarImm (.addi t d imm) d (fun x => x + sextImm imm) s

/-- SUB (R375). -/
def execSub (t : Trig) (d : SDst) (a b : SSrc) (s : State) : Host.Outcome State Fault Refusal :=
  scalar2 (.sub t d a b) d a b (fun x y => x - y) s

/-- MUL (R340). -/
def execMul (t : Trig) (d : SDst) (a b : SSrc) (s : State) : Host.Outcome State Fault Refusal :=
  scalar2 (.mul t d a b) d a b (fun x y => x * y) s

/-- MULH (R340). -/
def execMulh (t : Trig) (d : SDst) (a b : SSrc) (s : State) : Host.Outcome State Fault Refusal :=
  scalar2 (.mulh t d a b) d a b mulhS s

/-- MULHU (R340). -/
def execMulhu (t : Trig) (d : SDst) (a b : SSrc) (s : State) : Host.Outcome State Fault Refusal :=
  scalar2 (.mulhu t d a b) d a b mulhU s

/-- DIV (R306). -/
def execDiv (t : Trig) (d : SDst) (a b : SSrc) (s : State) : Host.Outcome State Fault Refusal :=
  scalar2 (.div t d a b) d a b divS s

/-- DIVU (R306). -/
def execDivu (t : Trig) (d : SDst) (a b : SSrc) (s : State) : Host.Outcome State Fault Refusal :=
  scalar2 (.divu t d a b) d a b divU s

/-- REM (R363). -/
def execRem (t : Trig) (d : SDst) (a b : SSrc) (s : State) : Host.Outcome State Fault Refusal :=
  scalar2 (.rem t d a b) d a b remS s

/-- REMU (R363). -/
def execRemu (t : Trig) (d : SDst) (a b : SSrc) (s : State) : Host.Outcome State Fault Refusal :=
  scalar2 (.remu t d a b) d a b remU s

/-- AND (R294). -/
def execAnd (t : Trig) (d : SDst) (a b : SSrc) (s : State) : Host.Outcome State Fault Refusal :=
  scalar2 (.and t d a b) d a b (fun x y => x &&& y) s

/-- ANDI (R294). -/
def execAndi (t : Trig) (d : Fin 16) (imm : BitVec 13) (s : State) : Host.Outcome State Fault Refusal :=
  scalarImm (.andi t d imm) d (fun x => x &&& sextImm imm) s

/-- OR (R342). -/
def execOr (t : Trig) (d : SDst) (a b : SSrc) (s : State) : Host.Outcome State Fault Refusal :=
  scalar2 (.or t d a b) d a b (fun x y => x ||| y) s

/-- ORI (R342). -/
def execOri (t : Trig) (d : Fin 16) (imm : BitVec 13) (s : State) : Host.Outcome State Fault Refusal :=
  scalarImm (.ori t d imm) d (fun x => x ||| sextImm imm) s

/-- XOR (R404). -/
def execXor (t : Trig) (d : SDst) (a b : SSrc) (s : State) : Host.Outcome State Fault Refusal :=
  scalar2 (.xor t d a b) d a b (fun x y => x ^^^ y) s

/-- XORI (R404). -/
def execXori (t : Trig) (d : Fin 16) (imm : BitVec 13) (s : State) : Host.Outcome State Fault Refusal :=
  scalarImm (.xori t d imm) d (fun x => x ^^^ sextImm imm) s

/-- SHL (R366). -/
def execShl (t : Trig) (d : SDst) (a b : SSrc) (s : State) : Host.Outcome State Fault Refusal :=
  scalar2 (.shl t d a b) d a b (fun x y => x <<< shiftCount y) s

/-- SHLI (R366). -/
def execShli (t : Trig) (d : Fin 16) (imm : Fin 64) (s : State) : Host.Outcome State Fault Refusal :=
  scalarImm (.shli t d imm) d (fun x => x <<< imm.val) s

/-- SHR (R366). -/
def execShr (t : Trig) (d : SDst) (a b : SSrc) (s : State) : Host.Outcome State Fault Refusal :=
  scalar2 (.shr t d a b) d a b (fun x y => x >>> shiftCount y) s

/-- SHRI (R366). -/
def execShri (t : Trig) (d : Fin 16) (imm : Fin 64) (s : State) : Host.Outcome State Fault Refusal :=
  scalarImm (.shri t d imm) d (fun x => x >>> imm.val) s

/-- SAR (R366). -/
def execSar (t : Trig) (d : SDst) (a b : SSrc) (s : State) : Host.Outcome State Fault Refusal :=
  scalar2 (.sar t d a b) d a b (fun x y => x.sshiftRight (shiftCount y)) s

/-- SARI (R366). -/
def execSari (t : Trig) (d : Fin 16) (imm : Fin 64) (s : State) : Host.Outcome State Fault Refusal :=
  scalarImm (.sari t d imm) d (fun x => x.sshiftRight imm.val) s

/-- MIN (R326). -/
def execMin (t : Trig) (d : SDst) (a b : SSrc) (s : State) : Host.Outcome State Fault Refusal :=
  scalar2 (.min t d a b) d a b (fun x y => if x.sle y then x else y) s

/-- MINU (R326). -/
def execMinu (t : Trig) (d : SDst) (a b : SSrc) (s : State) : Host.Outcome State Fault Refusal :=
  scalar2 (.minu t d a b) d a b (fun x y => if x.ule y then x else y) s

/-- MAX (R326). -/
def execMax (t : Trig) (d : SDst) (a b : SSrc) (s : State) : Host.Outcome State Fault Refusal :=
  scalar2 (.max t d a b) d a b (fun x y => if y.sle x then x else y) s

/-- MAXU (R326). -/
def execMaxu (t : Trig) (d : SDst) (a b : SSrc) (s : State) : Host.Outcome State Fault Refusal :=
  scalar2 (.maxu t d a b) d a b (fun x y => if y.ule x then x else y) s

/-- BFX (R298). -/
def execBfx (t : Trig) (d : SDst) (a b : SSrc) (s : State) : Host.Outcome State Fault Refusal :=
  scalar2 (.bfx t d a b) d a b bfx64 s

/-- CLZ (R299). -/
def execClz (t : Trig) (d : SDst) (a : SSrc) (s : State) : Host.Outcome State Fault Refusal :=
  scalar1 (.clz t d a) d a clz64 s

/-- POPC (R355). -/
def execPopc (t : Trig) (d : SDst) (a : SSrc) (s : State) : Host.Outcome State Fault Refusal :=
  scalar1 (.popc t d a) d a popc64 s

/-- BFI (R298). -/
def execBfi (t : Trig) (d : Fin 16) (a b : SSrc) (s : State) : Host.Outcome State Fault Refusal :=
  fire (.bfi t d a b) s (fun e s => .done (s.putS e d (bfi64 (e.ctx.s.get d) (e.s a) (e.s b))) 0)

/-- CMP (R300). -/
def execCmp (t : Trig) (pd : Fin 8) (pol : Bool) (a b : SSrc) (c : Cond) (s : State) : Host.Outcome State Fault Refusal :=
  predWrite (.cmp t pd pol a b c) pd pol (fun e => Cond.holds c (e.s a) (e.s b)) s

/-- CMPI (R300). -/
def execCmpi (t : Trig) (pd : Fin 8) (pol : Bool) (a : SSrc) (imm : BitVec 6) (c : Cond) (s : State) : Host.Outcome State Fault Refusal :=
  predWrite (.cmpi t pd pol a imm c) pd pol (fun e => Cond.holds c (e.s a) (imm.signExtend 64)) s

/-- PLOG (R352). -/
def execPlog (t : Trig) (pd : Fin 8) (pol : Bool) (a b : Fin 8) (f : LogOp) (s : State) : Host.Outcome State Fault Refusal :=
  predWrite (.plog t pd pol a b f) pd pol (fun e => LogOp.bool f (e.p a) (e.p b)) s

end Sys2Proof.Machine
end

