-- ==== Sys2Proof/Machine/System.lean ====
section
/-!
DEFINITION. The system cell, system registers, the work identifier and SEL (R37, R312, R341, R360 to R362, R367, R381, R382, R401, R402).
-/
namespace Sys2Proof.Machine

/-- The work identifier of a context: the launch base plus the copy offsets of its leaf, modulo 2^64 (R37, R58). -/
def Region.workId (r : Region) (leaf : Nat) : Word :=
  let offs := match r.plan.leaves[leaf]? with
    | some l => l.copies.foldl (fun n (m, j) => n + j * 2 ^ (r.hdr.widths.take m).foldl (· + ·) 0) 0
    | none => 0
  r.hdr.wid + BitVec.ofNat 64 offs

/-- A field of the work identifier (R36). -/
def Region.workField (r : Region) (leaf : Nat) (f : WField) : Word :=
  match f with
  | .whole => r.workId leaf
  | .field n =>
    let lo := (r.hdr.widths.take n.val).foldl (· + ·) 0
    BitVec.ofNat 64 ((r.workId leaf).toNat / 2 ^ lo % 2 ^ (r.hdr.widths.getD n.val 0))

/-- A system register as RDSR reads it (R361). A free fault record entry reads 0. -/
def State.sysReg (s : State) (e : Env) (r : SysReg) : Word :=
  match r with
  | .region => BitVec.ofNat 64 (e.region.num % 4096 + e.region.ver.toNat * 4096)
  | .cycle => BitVec.ofNat 64 s.cycle
  | .self =>
    BitVec.ofNat 64 ((tileX e.site.tile - e.region.x0) % 64 + (tileY e.site.tile - e.region.y0) % 32 * 64 + e.site.ctx.val * 2048
      + e.elem.follows.toNat * 8192)
  | .seed => e.region.hdr.seed
  | .flags => Flags.read e.region.flags
  | .tstamp => match s.task? e.region.task with
    | some t => t.ts
    | none => e.region.hdr.ts
  | .task => match s.task? e.region.task with
    | some t => BitVec.ofNat 64 (t.ordered.toNat + 2 * t.irrev.toNat)
    | none => BitVec.ofNat 64 e.region.hdr.ordered.toNat
  | .frec n => (e.region.frec.get n).getD 0

/-- What reading a system register changes: a fault record entry becomes free (R210, R362). -/
def State.readSysReg (s : State) (e : Env) (r : SysReg) : State :=
  match r with
  | .frec n => s.modRegion e.ctx.region (fun x => { x with frec := x.frec.set n.val none n.isLt })
  | .region | .cycle | .self | .seed | .flags | .tstamp | .task => s

/-- NOP (R341). -/
def execNop (t : Trig) (s : State) : Host.Outcome State Fault Refusal :=
  fire (.nop t) s (fun _ s => .done s 0)

/-- HALT (R312). -/
def execHalt (t : Trig) (s : State) : Host.Outcome State Fault Refusal :=
  fire (.halt t) s (fun e s => .done (s.modCtx e.site.tile e.site.ctx (fun c => { c with st := .halted })) 0)

/-- TRAP (R382). -/
def execTrap (t : Trig) (s : State) : Host.Outcome State Fault Refusal :=
  fire (.trap t) s (fun _ _ => .fault ⟨kTrap, 0, 0⟩)

/-- TMARK (R381). -/
def execTmark (t : Trig) (s : State) : Host.Outcome State Fault Refusal :=
  fire (.tmark t) s (fun e s => .done (s.modCtx e.site.tile e.site.ctx (fun c => { c with mark := true })) 0)

/-- RDSR (R360 to R362). -/
def execRdsr (t : Trig) (d : SDst) (r : SysReg) (s : State) : Host.Outcome State Fault Refusal :=
  fire (.rdsr t d r) s (fun e s => .done ((s.readSysReg e r).writeS e d (s.sysReg e r)) 0)

/-- WRSR of FLAGS (R402): the flags whose bits are 1 are cleared; a flag set in the same cycle stays set (R102). -/
def execWrsr (t : Trig) (a : SSrc) (s : State) : Host.Outcome State Fault Refusal :=
  fire (.wrsr t a) s (fun e s =>
    .done (s.modRegion e.ctx.region (fun r => { r with clrNow := r.clrNow ||| (e.s a).truncate 4 })) 0)

/-- SEL (R367): the destination keeps its value unless p[n] XOR POL is 1. -/
def execSel (t : Trig) (o : SelOp) (pol : Bool) (n : Fin 8) (s : State) : Host.Outcome State Fault Refusal :=
  fire (.sel t o pol n) s (fun e s =>
    let take := e.p n != pol
    .done (match o with
      | .s d a => if take then s.putS e d (e.s a) else s
      | .v d a => if take then s.putV e d (e.v a) else s) 0)

/-- WFLD (R401). -/
def execWfld (t : Trig) (d : SDst) (f : WField) (s : State) : Host.Outcome State Fault Refusal :=
  fire (.wfld t d f) s (fun e s => .done (s.writeS e d (e.region.workField e.ctx.leaf f)) 0)

end Sys2Proof.Machine
end

