-- ==== Sys2Proof/Machine/Vector.lean ====
section
/-!
DEFINITION. The vector instructions: float lanes (R273 to R276, R384, R385, R389, R390, R396, R400), integer lanes (R386, R387), moves
between lanes (R388, R391, R394, R395, R397 to R399), lane masks (R319, R320).
-/
namespace Sys2Proof.Machine

/-- The union of the flags of sixteen lanes. -/
def laneFlags (f : Nat → Flags) : Flags := (List.range 16).foldl (fun a n => a ||| f n) 0

/-- A lane operation on every lane, with the flags. -/
def lanewise (f : Nat → Lane × Flags) : Vec × Flags := (Vec.build (fun n => (f n).1), laneFlags (fun n => (f n).2))

/-- A firing of two vector sources, lane by lane. -/
def vector2 (i : Instr) (d : VDst) (a b : VSrc) (f : Lane → Lane → Lane × Flags) (s : State) : Host.Outcome State Fault Refusal :=
  fire i s (fun e s =>
    let r := lanewise (fun n => f ((e.v a).lane n) ((e.v b).lane n))
    .done (s.writeV e d r.1) r.2)

/-- A firing of one vector source, lane by lane. -/
def vector1 (i : Instr) (d : VDst) (a : VSrc) (f : Lane → Lane × Flags) (s : State) : Host.Outcome State Fault Refusal :=
  fire i s (fun e s =>
    let r := lanewise (fun n => f ((e.v a).lane n))
    .done (s.writeV e d r.1) r.2)

/-- A fused firing: the destination is the addend (R275). -/
def fused3 (i : Instr) (d : Fin 32) (a b : VSrc) (f : Lane → Lane → Lane → Lane × Flags) (s : State) : Host.Outcome State Fault Refusal :=
  fire i s (fun e s =>
    let r := lanewise (fun n => f ((e.v a).lane n) ((e.v b).lane n) ((e.ctx.v.get d).lane n))
    .done (s.putV e d r.1) r.2)

/-- A firing that moves lanes of one source. -/
def shuffle (i : Instr) (d : VDst) (a : VSrc) (f : Env → Vec → Vec) (s : State) : Host.Outcome State Fault Refusal :=
  fire i s (fun e s => .done (s.writeV e d (f e (e.v a))) 0)

/-- A lane mask made of sixteen bits. -/
def maskOf (f : Nat → Bool) : BitVec 16 := BitVec.ofNat 16 ((List.range 16).foldl (fun m n => m + (f n).toNat * 2 ^ n) 0)

/-- A lane mask, complemented when POL is 1 (R78). -/
def maskPol (pol : Bool) (m : BitVec 16) : BitVec 16 := if pol then ~~~ m else m

/-- An operation without flags. -/
def plain (f : Lane → Lane → Lane) (a b : Lane) : Lane × Flags := (f a b, 0)

/-- The count of a lane shift: b[5:0] (R386). -/
def laneCount (b : Lane) : Nat := b.toNat % 64

/-- VCPRS (R388). -/
def compress (m : BitVec 16) (x : Vec) : Vec :=
  let kept := ((List.range 16).filter m.getLsbD).map x.lane
  Vec.build (fun n => kept.getD n 0)

/-- VXPND (R388). -/
def expand (m : BitVec 16) (x : Vec) : Vec :=
  Vec.build (fun n => if m.getLsbD n then x.lane (((List.range n).filter m.getLsbD).length) else 0)

/-- VROT (R397). -/
def rotate (dn : Bool) (c : Nat) (x : Vec) : Vec := Vec.build (fun n => x.lane (if dn then n + c else n + 16 - c))

/-- The lanes 0 to n as values. -/
def lanesTo (x : Vec) (n : Nat) : List Num := (List.range (n + 1)).map (fun k => unpack (x.lane k))

/-- The non-canonical lanes among 0 to n set NV (R99). -/
def lanesNc (x : Vec) (n : Nat) : Flags := (List.range (n + 1)).foldl (fun a k => a ||| ncFlag (x.lane k)) 0

/-- The operator of a reduction or of a scan over lanes 0 to n (R395, R398). -/
def reduce (o : ScanOp) (x : Vec) (n : Nat) : Lane × Flags :=
  match o with
  | .add => finish (numSum (lanesTo x n)) (lanesNc x n)
  | .max => ((w40 ((lanesTo x n).foldl Num.pickMax .nan)).1, lanesNc x n)
  | .min => ((w40 ((lanesTo x n).foldl Num.pickMin .nan)).1, lanesNc x n)

/-- A result of a reduction written to a scalar or to every lane of a vector (R395). A port takes the kind that it is declared with. -/
def State.writeA (s : State) (e : Env) (d : ADst) (x : Lane) : State :=
  let vec (q : Fin 4) : Bool := e.tile.opKind.getLsbD q.val
  let pay (q : Fin 4) : Payload := if vec q then .v (Vec.all x) else .s (x.setWidth 64)
  match d with
  | .s n => s.putS e n (x.setWidth 64)
  | .v n => s.putV e n (Vec.all x)
  | .o q => s.send e q (sideTag e.side) (pay q) .none
  | .oe q => s.send e q 1 (pay q) .none
  | .nul => s

/-- A reduction (R395). -/
def reduction (i : Instr) (d : ADst) (a : VSrc) (o : ScanOp) (s : State) : Host.Outcome State Fault Refusal :=
  fire i s (fun e s =>
    let r := reduce o (e.v a) 15
    .done (s.writeA e d r.1) r.2)

/-- VADD (R384). -/
def execVadd (t : Trig) (d : VDst) (a b : VSrc) (s : State) : Host.Outcome State Fault Refusal :=
  vector2 (.vadd t d a b) d a b fAdd s

/-- VSUB (R384). -/
def execVsub (t : Trig) (d : VDst) (a b : VSrc) (s : State) : Host.Outcome State Fault Refusal :=
  vector2 (.vsub t d a b) d a b fSub s

/-- VMUL (R384). -/
def execVmul (t : Trig) (d : VDst) (a b : VSrc) (s : State) : Host.Outcome State Fault Refusal :=
  vector2 (.vmul t d a b) d a b fMul s

/-- VFMA (R275). -/
def execVfma (t : Trig) (d : Fin 32) (a b : VSrc) (s : State) : Host.Outcome State Fault Refusal :=
  fused3 (.vfma t d a b) d a b fFma s

/-- VFMS (R275). -/
def execVfms (t : Trig) (d : Fin 32) (a b : VSrc) (s : State) : Host.Outcome State Fault Refusal :=
  fused3 (.vfms t d a b) d a b fFms s

/-- VFNMA (R275). -/
def execVfnma (t : Trig) (d : Fin 32) (a b : VSrc) (s : State) : Host.Outcome State Fault Refusal :=
  fused3 (.vfnma t d a b) d a b fFnma s

/-- VMIN (R276). -/
def execVmin (t : Trig) (d : VDst) (a b : VSrc) (s : State) : Host.Outcome State Fault Refusal :=
  vector2 (.vmin t d a b) d a b fMin s

/-- VMAX (R276). -/
def execVmax (t : Trig) (d : VDst) (a b : VSrc) (s : State) : Host.Outcome State Fault Refusal :=
  vector2 (.vmax t d a b) d a b fMax s

/-- VABS (R273). -/
def execVabs (t : Trig) (d : VDst) (a : VSrc) (s : State) : Host.Outcome State Fault Refusal :=
  vector1 (.vabs t d a) d a (fun x => (x &&& 0x7FFFFFFFFF, 0)) s

/-- VNEG (R273). -/
def execVneg (t : Trig) (d : VDst) (a : VSrc) (s : State) : Host.Outcome State Fault Refusal :=
  vector1 (.vneg t d a) d a (fun x => (x ^^^ signW, 0)) s

/-- VMOV (R273). -/
def execVmov (t : Trig) (d : VDst) (a : VSrc) (s : State) : Host.Outcome State Fault Refusal :=
  vector1 (.vmov t d a) d a (fun x => (x, 0)) s

/-- VBCAST (R273). -/
def execVbcast (t : Trig) (d : VDst) (a : SSrc) (s : State) : Host.Outcome State Fault Refusal :=
  fire (.vbcast t d a) s (fun e s => .done (s.writeV e d (Vec.all ((e.s a).setWidth 40))) 0)

/-- VCMP (R387). -/
def execVcmp (t : Trig) (kd : Fin 4) (pol : Bool) (a b : VSrc) (c : Cond) (s : State) : Host.Outcome State Fault Refusal :=
  fire (.vcmp t kd pol a b c) s (fun e s =>
    let r (n : Nat) : Bool × Flags := fCmp c ((e.v a).lane n) ((e.v b).lane n)
    .done (s.putK e kd (maskPol pol (maskOf (fun n => (r n).1)))) (laneFlags (fun n => (r n).2)))

/-- VSEL: lanes outside the mask keep the value of the destination (R399). -/
def execVsel (t : Trig) (d : Fin 32) (a : VSrc) (m : Fin 4) (s : State) : Host.Outcome State Fault Refusal :=
  fire (.vsel t d a m) s (fun e s =>
    .done (s.putV e d (Vec.build (fun n => if (e.k m).getLsbD n then (e.v a).lane n else (e.ctx.v.get d).lane n))) 0)

/-- VEXTR (R391). -/
def execVextr (t : Trig) (d : SDst) (a : VSrc) (n : Fin 16) (s : State) : Host.Outcome State Fault Refusal :=
  fire (.vextr t d a n) s (fun e s => .done (s.writeS e d (((e.v a).lane n.val).setWidth 64)) 0)

/-- VRCPS (R274). -/
def execVrcps (t : Trig) (d : VDst) (a : VSrc) (s : State) : Host.Outcome State Fault Refusal :=
  vector1 (.vrcps t d a) d a fRcps s

/-- VRSQS (R274). -/
def execVrsqs (t : Trig) (d : VDst) (a : VSrc) (s : State) : Host.Outcome State Fault Refusal :=
  vector1 (.vrsqs t d a) d a fRsqs s

/-- VEXP2S (R274). -/
def execVexp2s (t : Trig) (d : VDst) (a : VSrc) (s : State) : Host.Outcome State Fault Refusal :=
  vector1 (.vexp2s t d a) d a fExp2s s

/-- VLOG2S (R274). -/
def execVlog2s (t : Trig) (d : VDst) (a : VSrc) (s : State) : Host.Outcome State Fault Refusal :=
  vector1 (.vlog2s t d a) d a fLog2s s

/-- VRND (R396). -/
def execVrnd (t : Trig) (d : VDst) (a : VSrc) (m : RMode) (s : State) : Host.Outcome State Fault Refusal :=
  vector1 (.vrnd t d a m) d a (fRnd m) s

/-- VCVTI (R389). -/
def execVcvti (t : Trig) (d : VDst) (a : VSrc) (m : RMode) (s : State) : Host.Outcome State Fault Refusal :=
  vector1 (.vcvti t d a m) d a (fCvti m) s

/-- VCVTF (R389). -/
def execVcvtf (t : Trig) (d : VDst) (a : VSrc) (m : RMode) (s : State) : Host.Outcome State Fault Refusal :=
  vector1 (.vcvtf t d a m) d a (fCvtf m) s

/-- VSCALE (R385). -/
def execVscale (t : Trig) (d : VDst) (a b : VSrc) (s : State) : Host.Outcome State Fault Refusal :=
  vector2 (.vscale t d a b) d a b fScale s

/-- VSRND: each lane draws its bits from the firing count, the place, the context, the slot and the lane (R114, R400). -/
def execVsrnd (t : Trig) (d : VDst) (a : VSrc) (p : Prec) (s : State) : Host.Outcome State Fault Refusal :=
  fire (.vsrnd t d a p) s (fun e s =>
    let (fx, fy) := e.rel
    let u (n : Nat) : Nat := drawVsrnd e.region.hdr.seed (e.elem.counts.get e.site.slot) (BitVec.ofNat 6 fx) (BitVec.ofNat 5 fy)
      (BitVec.ofNat 2 e.site.ctx.val) (BitVec.ofNat 5 e.site.slot.val) (BitVec.ofNat 4 n)
    let r := lanewise (fun n => fSrnd p (u n) ((e.v a).lane n))
    .done (s.writeV e d r.1) r.2)

/-- VIADD (R386). -/
def execViadd (t : Trig) (d : VDst) (a b : VSrc) (s : State) : Host.Outcome State Fault Refusal :=
  vector2 (.viadd t d a b) d a b (plain (fun x y => x + y)) s

/-- VISUB (R386). -/
def execVisub (t : Trig) (d : VDst) (a b : VSrc) (s : State) : Host.Outcome State Fault Refusal :=
  vector2 (.visub t d a b) d a b (plain (fun x y => x - y)) s

/-- VIMUL (R386). -/
def execVimul (t : Trig) (d : VDst) (a b : VSrc) (s : State) : Host.Outcome State Fault Refusal :=
  vector2 (.vimul t d a b) d a b (plain (fun x y => x * y)) s

/-- VIMIN (R386). -/
def execVimin (t : Trig) (d : VDst) (a b : VSrc) (s : State) : Host.Outcome State Fault Refusal :=
  vector2 (.vimin t d a b) d a b (plain (fun x y => if x.sle y then x else y)) s

/-- VIMAX (R386). -/
def execVimax (t : Trig) (d : VDst) (a b : VSrc) (s : State) : Host.Outcome State Fault Refusal :=
  vector2 (.vimax t d a b) d a b (plain (fun x y => if y.sle x then x else y)) s

/-- VAND (R386). -/
def execVand (t : Trig) (d : VDst) (a b : VSrc) (s : State) : Host.Outcome State Fault Refusal :=
  vector2 (.vand t d a b) d a b (plain (fun x y => x &&& y)) s

/-- VOR (R386). -/
def execVor (t : Trig) (d : VDst) (a b : VSrc) (s : State) : Host.Outcome State Fault Refusal :=
  vector2 (.vor t d a b) d a b (plain (fun x y => x ||| y)) s

/-- VXOR (R386). -/
def execVxor (t : Trig) (d : VDst) (a b : VSrc) (s : State) : Host.Outcome State Fault Refusal :=
  vector2 (.vxor t d a b) d a b (plain (fun x y => x ^^^ y)) s

/-- VSHL (R386). -/
def execVshl (t : Trig) (d : VDst) (a b : VSrc) (s : State) : Host.Outcome State Fault Refusal :=
  vector2 (.vshl t d a b) d a b (plain (fun x y => x <<< laneCount y)) s

/-- VSHR (R386). -/
def execVshr (t : Trig) (d : VDst) (a b : VSrc) (s : State) : Host.Outcome State Fault Refusal :=
  vector2 (.vshr t d a b) d a b (plain (fun x y => x >>> laneCount y)) s

/-- VSAR (R386). -/
def execVsar (t : Trig) (d : VDst) (a b : VSrc) (s : State) : Host.Outcome State Fault Refusal :=
  vector2 (.vsar t d a b) d a b (plain (fun x y => x.sshiftRight (laneCount y))) s

/-- VICMP (R387). -/
def execVicmp (t : Trig) (kd : Fin 4) (pol : Bool) (a b : VSrc) (c : Cond) (s : State) : Host.Outcome State Fault Refusal :=
  fire (.vicmp t kd pol a b c) s (fun e s =>
    .done (s.putK e kd (maskPol pol (maskOf (fun n => Cond.holds c ((e.v a).lane n) ((e.v b).lane n))))) 0)

/-- VPERM (R394). -/
def execVperm (t : Trig) (d : VDst) (a b : VSrc) (s : State) : Host.Outcome State Fault Refusal :=
  fire (.vperm t d a b) s (fun e s =>
    .done (s.writeV e d (Vec.build (fun n => (e.v a).lane (((e.v b).lane n).toNat % 16)))) 0)

/-- VROT (R397). -/
def execVrot (t : Trig) (d : VDst) (a : VSrc) (dn : Bool) (n : Fin 16) (s : State) : Host.Outcome State Fault Refusal :=
  shuffle (.vrot t d a dn n) d a (fun _ x => rotate dn n.val x) s

/-- Vreda (R395). -/
def execVreda (t : Trig) (d : ADst) (a : VSrc) (s : State) : Host.Outcome State Fault Refusal :=
  reduction (.vreda t d a) d a .add s

/-- VredmMax (R395). -/
def execVredmMax (t : Trig) (d : ADst) (a : VSrc) (s : State) : Host.Outcome State Fault Refusal :=
  reduction (.vredmMax t d a) d a .max s

/-- VredmMin (R395). -/
def execVredmMin (t : Trig) (d : ADst) (a : VSrc) (s : State) : Host.Outcome State Fault Refusal :=
  reduction (.vredmMin t d a) d a .min s

/-- VSCAN (R398). -/
def execVscan (t : Trig) (d : VDst) (a : VSrc) (o : ScanOp) (s : State) : Host.Outcome State Fault Refusal :=
  fire (.vscan t d a o) s (fun e s =>
    let r := lanewise (fun n => reduce o (e.v a) n)
    .done (s.writeV e d r.1) r.2)

/-- VCPRS (R388). -/
def execVcprs (t : Trig) (d : VDst) (a : VSrc) (m : Fin 4) (s : State) : Host.Outcome State Fault Refusal :=
  shuffle (.vcprs t d a m) d a (fun e x => compress (e.k m) x) s

/-- VXPND (R388). -/
def execVxpnd (t : Trig) (d : VDst) (a : VSrc) (m : Fin 4) (s : State) : Host.Outcome State Fault Refusal :=
  shuffle (.vxpnd t d a m) d a (fun e x => expand (e.k m) x) s

/-- KLOG (R319). -/
def execKlog (t : Trig) (kd : Fin 4) (pol : Bool) (a b : Fin 4) (f : LogOp) (s : State) : Host.Outcome State Fault Refusal :=
  fire (.klog t kd pol a b f) s (fun e s => .done (s.putK e kd (maskPol pol (LogOp.mask f (e.k a) (e.k b)))) 0)

/-- KMOV from a scalar (R320). -/
def execKmovToMask (t : Trig) (k : Fin 4) (a : SSrc) (s : State) : Host.Outcome State Fault Refusal :=
  fire (.kmovToMask t k a) s (fun e s => .done (s.putK e k ((e.s a).setWidth 16)) 0)

/-- KMOV to a scalar (R320). -/
def execKmovFromMask (t : Trig) (d : SDst) (k : Fin 4) (s : State) : Host.Outcome State Fault Refusal :=
  fire (.kmovFromMask t d k) s (fun e s => .done (s.writeS e d ((e.k k).setWidth 64)) 0)

end Sys2Proof.Machine
end

