-- ==== Sys2Proof/Machine/Dispatch.lean ====
section
/-!
DEFINITION. The meaning of every instruction and event: one arm per constructor of Instr.
-/
namespace Sys2Proof.Machine

/-- What an instruction does: each arm is one direct call of its meaning. -/
def exec (i : Instr) (s : State) : Host.Outcome State Fault Refusal :=
  match i with
  | .nop t => Sys2Proof.Machine.execNop t s
  | .halt t => Sys2Proof.Machine.execHalt t s
  | .trap t => Sys2Proof.Machine.execTrap t s
  | .tmark t => Sys2Proof.Machine.execTmark t s
  | .rdsr t d r => Sys2Proof.Machine.execRdsr t d r s
  | .wrsr t a => Sys2Proof.Machine.execWrsr t a s
  | .movi t d imm => Sys2Proof.Machine.execMovi t d imm s
  | .movhi t d imm => Sys2Proof.Machine.execMovhi t d imm s
  | .sel t o pol n => Sys2Proof.Machine.execSel t o pol n s
  | .wfld t d f => Sys2Proof.Machine.execWfld t d f s
  | .add t d a b => Sys2Proof.Machine.execAdd t d a b s
  | .addi t d imm => Sys2Proof.Machine.execAddi t d imm s
  | .sub t d a b => Sys2Proof.Machine.execSub t d a b s
  | .mul t d a b => Sys2Proof.Machine.execMul t d a b s
  | .mulh t d a b => Sys2Proof.Machine.execMulh t d a b s
  | .mulhu t d a b => Sys2Proof.Machine.execMulhu t d a b s
  | .div t d a b => Sys2Proof.Machine.execDiv t d a b s
  | .divu t d a b => Sys2Proof.Machine.execDivu t d a b s
  | .rem t d a b => Sys2Proof.Machine.execRem t d a b s
  | .remu t d a b => Sys2Proof.Machine.execRemu t d a b s
  | .and t d a b => Sys2Proof.Machine.execAnd t d a b s
  | .andi t d imm => Sys2Proof.Machine.execAndi t d imm s
  | .or t d a b => Sys2Proof.Machine.execOr t d a b s
  | .ori t d imm => Sys2Proof.Machine.execOri t d imm s
  | .xor t d a b => Sys2Proof.Machine.execXor t d a b s
  | .xori t d imm => Sys2Proof.Machine.execXori t d imm s
  | .shl t d a b => Sys2Proof.Machine.execShl t d a b s
  | .shli t d imm => Sys2Proof.Machine.execShli t d imm s
  | .shr t d a b => Sys2Proof.Machine.execShr t d a b s
  | .shri t d imm => Sys2Proof.Machine.execShri t d imm s
  | .sar t d a b => Sys2Proof.Machine.execSar t d a b s
  | .sari t d imm => Sys2Proof.Machine.execSari t d imm s
  | .min t d a b => Sys2Proof.Machine.execMin t d a b s
  | .minu t d a b => Sys2Proof.Machine.execMinu t d a b s
  | .max t d a b => Sys2Proof.Machine.execMax t d a b s
  | .maxu t d a b => Sys2Proof.Machine.execMaxu t d a b s
  | .clz t d a => Sys2Proof.Machine.execClz t d a s
  | .popc t d a => Sys2Proof.Machine.execPopc t d a s
  | .bfx t d a b => Sys2Proof.Machine.execBfx t d a b s
  | .bfi t d a b => Sys2Proof.Machine.execBfi t d a b s
  | .cmp t pd pol a b c => Sys2Proof.Machine.execCmp t pd pol a b c s
  | .cmpi t pd pol a imm c => Sys2Proof.Machine.execCmpi t pd pol a imm c s
  | .plog t pd pol a b f => Sys2Proof.Machine.execPlog t pd pol a b f s
  | .vadd t d a b => Sys2Proof.Machine.execVadd t d a b s
  | .vsub t d a b => Sys2Proof.Machine.execVsub t d a b s
  | .vmul t d a b => Sys2Proof.Machine.execVmul t d a b s
  | .vfma t d a b => Sys2Proof.Machine.execVfma t d a b s
  | .vfms t d a b => Sys2Proof.Machine.execVfms t d a b s
  | .vfnma t d a b => Sys2Proof.Machine.execVfnma t d a b s
  | .vmin t d a b => Sys2Proof.Machine.execVmin t d a b s
  | .vmax t d a b => Sys2Proof.Machine.execVmax t d a b s
  | .vabs t d a => Sys2Proof.Machine.execVabs t d a s
  | .vneg t d a => Sys2Proof.Machine.execVneg t d a s
  | .vmov t d a => Sys2Proof.Machine.execVmov t d a s
  | .vbcast t d a => Sys2Proof.Machine.execVbcast t d a s
  | .vcmp t kd pol a b c => Sys2Proof.Machine.execVcmp t kd pol a b c s
  | .vsel t d a m => Sys2Proof.Machine.execVsel t d a m s
  | .vextr t d a n => Sys2Proof.Machine.execVextr t d a n s
  | .vrcps t d a => Sys2Proof.Machine.execVrcps t d a s
  | .vrsqs t d a => Sys2Proof.Machine.execVrsqs t d a s
  | .vexp2s t d a => Sys2Proof.Machine.execVexp2s t d a s
  | .vlog2s t d a => Sys2Proof.Machine.execVlog2s t d a s
  | .vrnd t d a m => Sys2Proof.Machine.execVrnd t d a m s
  | .vscale t d a b => Sys2Proof.Machine.execVscale t d a b s
  | .vcvti t d a m => Sys2Proof.Machine.execVcvti t d a m s
  | .vcvtf t d a m => Sys2Proof.Machine.execVcvtf t d a m s
  | .vsrnd t d a p => Sys2Proof.Machine.execVsrnd t d a p s
  | .viadd t d a b => Sys2Proof.Machine.execViadd t d a b s
  | .visub t d a b => Sys2Proof.Machine.execVisub t d a b s
  | .vimul t d a b => Sys2Proof.Machine.execVimul t d a b s
  | .vimin t d a b => Sys2Proof.Machine.execVimin t d a b s
  | .vimax t d a b => Sys2Proof.Machine.execVimax t d a b s
  | .vand t d a b => Sys2Proof.Machine.execVand t d a b s
  | .vor t d a b => Sys2Proof.Machine.execVor t d a b s
  | .vxor t d a b => Sys2Proof.Machine.execVxor t d a b s
  | .vshl t d a b => Sys2Proof.Machine.execVshl t d a b s
  | .vshr t d a b => Sys2Proof.Machine.execVshr t d a b s
  | .vsar t d a b => Sys2Proof.Machine.execVsar t d a b s
  | .vicmp t kd pol a b c => Sys2Proof.Machine.execVicmp t kd pol a b c s
  | .vperm t d a b => Sys2Proof.Machine.execVperm t d a b s
  | .vrot t d a dn n => Sys2Proof.Machine.execVrot t d a dn n s
  | .vreda t d a => Sys2Proof.Machine.execVreda t d a s
  | .vredmMax t d a => Sys2Proof.Machine.execVredmMax t d a s
  | .vredmMin t d a => Sys2Proof.Machine.execVredmMin t d a s
  | .vscan t d a o => Sys2Proof.Machine.execVscan t d a o s
  | .vcprs t d a m => Sys2Proof.Machine.execVcprs t d a m s
  | .vxpnd t d a m => Sys2Proof.Machine.execVxpnd t d a m s
  | .klog t kd pol a b f => Sys2Proof.Machine.execKlog t kd pol a b f s
  | .kmovToMask t k a => Sys2Proof.Machine.execKmovToMask t k a s
  | .kmovFromMask t d k => Sys2Proof.Machine.execKmovFromMask t d k s
  | .mcfg t n => Sys2Proof.Machine.execMcfg t n s
  | .mldb t q => Sys2Proof.Machine.execMldb t q s
  | .mrow t o q => Sys2Proof.Machine.execMrow t o q s
  | .mrowG t o => Sys2Proof.Machine.execMrowG t o s
  | .mgath t a => Sys2Proof.Machine.execMgath t a s
  | .mdrain t o drop => Sys2Proof.Machine.execMdrain t o drop s
  | .mdrainR t o peek q drop => Sys2Proof.Machine.execMdrainR t o peek q drop s
  | .mzero t => Sys2Proof.Machine.execMzero t s
  | .ldsN t q a => Sys2Proof.Machine.execLdsN t q a s
  | .ldsW t q a => Sys2Proof.Machine.execLdsW t q a s
  | .ldsWc t q a => Sys2Proof.Machine.execLdsWc t q a s
  | .sts t r a b => Sys2Proof.Machine.execSts t r a b s
  | .feopClr t r n => Sys2Proof.Machine.execFeopClr t r n s
  | .feopSet t r n => Sys2Proof.Machine.execFeopSet t r n s
  | .ldg t q a => Sys2Proof.Machine.execLdg t q a s
  | .stg t r a b => Sys2Proof.Machine.execStg t r a b s
  | .ldw t q n m => Sys2Proof.Machine.execLdw t q n m s
  | .aadd t r n o => Sys2Proof.Machine.execAadd t r n o s
  | .afadd t r n o => Sys2Proof.Machine.execAfadd t r n o s
  | .amin t r n o => Sys2Proof.Machine.execAmin t r n o s
  | .amax t r n o => Sys2Proof.Machine.execAmax t r n o s
  | .aand t r n o => Sys2Proof.Machine.execAand t r n o s
  | .aor t r n o => Sys2Proof.Machine.execAor t r n o s
  | .axor t r n o => Sys2Proof.Machine.execAxor t r n o s
  | .aswp t r n o => Sys2Proof.Machine.execAswp t r n o s
  | .acas t r n o => Sys2Proof.Machine.execAcas t r n o s
  | .fence t r a o sc => Sys2Proof.Machine.execFence t r a o sc s
  | .bar t q a sc => Sys2Proof.Machine.execBar t q a sc s
  | .tset t a => Sys2Proof.Machine.execTset t a s
  | .tcommit t a => Sys2Proof.Machine.execTcommit t a s
  | .hnew t q a b z => Sys2Proof.Machine.execHnew t q a b z s
  | .hdup t r a => Sys2Proof.Machine.execHdup t r a s
  | .hrel t r a => Sys2Proof.Machine.execHrel t r a s
  | .hweak t d a => Sys2Proof.Machine.execHweak t d a s
  | .hupg t q a n => Sys2Proof.Machine.execHupg t q a n s
  | .hinfo t q a => Sys2Proof.Machine.execHinfo t q a s
  | .hprio t r a p => Sys2Proof.Machine.execHprio t r a p s
  | .sinitQs t r n => Sys2Proof.Machine.execSinitQs t r n s
  | .sinitHh t r n => Sys2Proof.Machine.execSinitHh t r n s
  | .sinitDc t r n => Sys2Proof.Machine.execSinitDc t r n s
  | .qsins t o a => Sys2Proof.Machine.execQsins t o a s
  | .hhins t o a => Sys2Proof.Machine.execHhins t o a s
  | .dcins t o a => Sys2Proof.Machine.execDcins t o a s
  | .smerge t r a b => Sys2Proof.Machine.execSmerge t r a b s
  | .qread t q n => Sys2Proof.Machine.execQread t q n s
  | .qrank t q n => Sys2Proof.Machine.execQrank t q n s
  | .hhget t q n => Sys2Proof.Machine.execHhget t q n s
  | .dcest t q n => Sys2Proof.Machine.execDcest t q n s
  | .tkinit t r n => Sys2Proof.Machine.execTkinit t r n s
  | .tkins t o a b => Sys2Proof.Machine.execTkins t o a b s
  | .tkout t q n => Sys2Proof.Machine.execTkout t q n s
  | .pfrag t q a => Sys2Proof.Machine.execPfrag t q a s
  | .pseq t q a b => Sys2Proof.Machine.execPseq t q a b s
  | .povl t q a b => Sys2Proof.Machine.execPovl t q a b s
  | .ppipe t q n b => Sys2Proof.Machine.execPpipe t q n b s
  | .pnest t q n b => Sys2Proof.Machine.execPnest t q n b s
  | .prep t q a b => Sys2Proof.Machine.execPrep t q a b s
  | .piface t q n => Sys2Proof.Machine.execPiface t q n s
  | .pcost t q a => Sys2Proof.Machine.execPcost t q a s
  | .plaunch t q a b => Sys2Proof.Machine.execPlaunch t q a b s
  | .plaunchC t q a b => Sys2Proof.Machine.execPlaunchC t q a b s
  | .pfree t r a => Sys2Proof.Machine.execPfree t r a s
  | .xreq t o a => Sys2Proof.Machine.execXreq t o a s
  | .xexp t a => Sys2Proof.Machine.execXexp t a s
  | .crdy t q a => Sys2Proof.Machine.execCrdy t q a s
  | .cslot t q a => Sys2Proof.Machine.execCslot t q a s
  | .qpush t q a m => Sys2Proof.Machine.execQpush t q a m s
  | .rnext t q m => Sys2Proof.Machine.execRnext t q m s
  | .rangeUnitServe rq => Sys2Proof.Machine.execRangeUnitServe rq s
  | .kickWrite q v => Sys2Proof.Machine.execKickWrite q v s
  | .qstatWrite q v => Sys2Proof.Machine.execQstatWrite q v s
  | .registerWrite off v => Sys2Proof.Machine.execRegisterWrite off v s
  | .amFlush => Sys2Proof.Machine.execAmFlush s
  | .amPin pin => Sys2Proof.Machine.execAmPin pin s
  | .amReadEntry => Sys2Proof.Machine.execAmReadEntry s
  | .amRegister => Sys2Proof.Machine.execAmRegister s
  | .libInstall => Sys2Proof.Machine.execLibInstall s
  | .libRemove => Sys2Proof.Machine.execLibRemove s
  | .debugArm region => Sys2Proof.Machine.execDebugArm region s
  | .debugResume => Sys2Proof.Machine.execDebugResume s
  | .debugStop region => Sys2Proof.Machine.execDebugStop region s
  | .spdmGetMeasurements idx => Sys2Proof.Machine.execSpdmGetMeasurements idx s
  | .hostMemWrite pa bytes => Sys2Proof.Machine.execHostMemWrite pa bytes s
  | .hostMemRead pa n => Sys2Proof.Machine.execHostMemRead pa n s
  | .dispatchGrant => Sys2Proof.Machine.execDispatchGrant s
  | .launch p => Sys2Proof.Machine.execLaunch p s
  | .graph p => Sys2Proof.Machine.execGraph p s
  | .wait p => Sys2Proof.Machine.execWait p s
  | .waitRetest p => Sys2Proof.Machine.execWaitRetest p s
  | .queueUnpark q => Sys2Proof.Machine.execQueueUnpark q s
  | .signal p => Sys2Proof.Machine.execSignal p s
  | .copy p => Sys2Proof.Machine.execCopy p s
  | .preempt p => Sys2Proof.Machine.execPreempt p s
  | .preemptKill p => Sys2Proof.Machine.execPreemptKill p s
  | .barrier p => Sys2Proof.Machine.execBarrier p s
  | .launchReserveTurn l => Sys2Proof.Machine.execLaunchReserveTurn l s
  | .regionPlace l => Sys2Proof.Machine.execRegionPlace l s
  | .slotTableApply tile => Sys2Proof.Machine.execSlotTableApply tile s
  | .registerFillComplete tile => Sys2Proof.Machine.execRegisterFillComplete tile s
  | .registerEvictComplete tile => Sys2Proof.Machine.execRegisterEvictComplete tile s
  | .followerFire tile slot => Sys2Proof.Machine.execFollowerFire tile slot s
  | .tokenDeliver h => Sys2Proof.Machine.execTokenDeliver h s
  | .scatterForward tile n => Sys2Proof.Machine.execScatterForward tile n s
  | .gatherForward tile n => Sys2Proof.Machine.execGatherForward tile n s
  | .stagingSend tile => Sys2Proof.Machine.execStagingSend tile s
  | .replyTokenEnter rq => Sys2Proof.Machine.execReplyTokenEnter rq s
  | .faultTokenDeliver f => Sys2Proof.Machine.execFaultTokenDeliver f s
  | .streamReadToken tile g => Sys2Proof.Machine.execStreamReadToken tile g s
  | .streamWriteToken tile g => Sys2Proof.Machine.execStreamWriteToken tile g s
  | .streamComplete tile g => Sys2Proof.Machine.execStreamComplete tile g s
  | .reduceContribution tile g => Sys2Proof.Machine.execReduceContribution tile g s
  | .summaryInsert tile g => Sys2Proof.Machine.execSummaryInsert tile g s
  | .topkInsert tile g => Sys2Proof.Machine.execTopkInsert tile g s
  | .walkRequest tile g => Sys2Proof.Machine.execWalkRequest tile g s
  | .accTokenAdd tile q => Sys2Proof.Machine.execAccTokenAdd tile q s
  | .accAck tile => Sys2Proof.Machine.execAccAck tile s
  | .mrowResult tile id => Sys2Proof.Machine.execMrowResult tile id s
  | .mrowReplayResult tile id ok => Sys2Proof.Machine.execMrowReplayResult tile id ok s
  | .mdrainResult tile id => Sys2Proof.Machine.execMdrainResult tile id s
  | .mzeroComplete tile => Sys2Proof.Machine.execMzeroComplete tile s
  | .mgathRowArrive tile => Sys2Proof.Machine.execMgathRowArrive tile s
  | .tileRequestServe rq => Sys2Proof.Machine.execTileRequestServe rq s
  | .ldsRelease rq => Sys2Proof.Machine.execLdsRelease rq s
  | .summaryOpServe rq => Sys2Proof.Machine.execSummaryOpServe rq s
  | .homePortServe rq => Sys2Proof.Machine.execHomePortServe rq s
  | .atomicPerform rq => Sys2Proof.Machine.execAtomicPerform rq s
  | .portAccess rq => Sys2Proof.Machine.execPortAccess rq s
  | .pageFetchComplete f => Sys2Proof.Machine.execPageFetchComplete f s
  | .pageEvict pte bdrive lba => Sys2Proof.Machine.execPageEvict pte bdrive lba s
  | .drainLimitExpiry region => Sys2Proof.Machine.execDrainLimitExpiry region s
  | .regionCheckpoint region => Sys2Proof.Machine.execRegionCheckpoint region s
  | .regionReplace region => Sys2Proof.Machine.execRegionReplace region s
  | .flashFetchError f => Sys2Proof.Machine.execFlashFetchError f s
  | .flashFetchTimeout f => Sys2Proof.Machine.execFlashFetchTimeout f s
  | .transferAccept x => Sys2Proof.Machine.execTransferAccept x s
  | .transferGranule x => Sys2Proof.Machine.execTransferGranule x s
  | .channelToken region ch => Sys2Proof.Machine.execChannelToken region ch s
  | .solderServe die => Sys2Proof.Machine.execSolderServe die s
  | .quantumRefresh die pa => Sys2Proof.Machine.execQuantumRefresh die pa s
  | .regionRetire region => Sys2Proof.Machine.execRegionRetire region s
  | .completionRecord p => Sys2Proof.Machine.execCompletionRecord p s
  | .taskCommit t => Sys2Proof.Machine.execTaskCommit t s
  | .tcommitRound region => Sys2Proof.Machine.execTcommitRound region s
  | .pewterEpochTick => Sys2Proof.Machine.execPewterEpochTick s
  | .objectDestroyBegin => Sys2Proof.Machine.execObjectDestroyBegin s
  | .destructionPoint => Sys2Proof.Machine.execDestructionPoint s
  | .engineChunkServe die => Sys2Proof.Machine.execEngineChunkServe die s
  | .chunkArrive c => Sys2Proof.Machine.execChunkArrive c s
  | .collectiveComplete die entry => Sys2Proof.Machine.execCollectiveComplete die entry s
  | .switchCombine c => Sys2Proof.Machine.execSwitchCombine c s
  | .switchLimitExpiry n => Sys2Proof.Machine.execSwitchLimitExpiry n s
  | .chunkReoffer n => Sys2Proof.Machine.execChunkReoffer n s
  | .cslotStart tile => Sys2Proof.Machine.execCslotStart tile s
  | .cslotEnd tile => Sys2Proof.Machine.execCslotEnd tile s
  | .pageMigrate pte mig dest => Sys2Proof.Machine.execPageMigrate pte mig dest s
  | .watchpointRecord wp cls die kind sec => Sys2Proof.Machine.execWatchpointRecord wp cls die kind sec s
  | .droopTrip => Sys2Proof.Machine.execDroopTrip s
  | .powerCapStep => Sys2Proof.Machine.execPowerCapStep s
  | .machineCheck src addr region => Sys2Proof.Machine.execMachineCheck src addr region s
  | .deviceReset => Sys2Proof.Machine.execDeviceReset s
  | .pwrstatRead => Sys2Proof.Machine.execPwrstatRead s

end Sys2Proof.Machine
end

