-- ==== Sys2Proof/Machine/Poll.lean ====
section
/-!
DEFINITION. What the units of the package can do at the end of a cycle, phase by phase (log 2). Every meaning checks its own condition again;
the lists here only say which units are asked, and in which order.
-/
namespace Sys2Proof.Machine

/-! ## Memory tiles -/

/-- A waiting LDS finds its granules full. -/
def State.granted (s : State) (r : Req) : Bool := ((s.reqTile r).map (fun t => s.allFull t (bits r.x.toNat 18 0) (s.ldsSize r))).getD false

/-- Waiting LDS requests whose granules are full, in the order of their arrival (R125). -/
def State.pollLds (s : State) : List Work :=
  (sortBy Req.before (s.reqs.filter (fun r => r.st == .waiting && s.stands r.region && (match r.op with | .ldsW _ _ _ | .ldsWc _ _ _ => true | _ => false)
    && s.granted r))).map (fun r => .ev (.ldsRelease r.id))

/-- The event of a generator by its kind and its phase. -/
def genEvent (t : Nat) (g : Fin 4) (kind : Nat) (st : GenSt) : Option Instr :=
  match st with
  | .finishing _ => some (.streamComplete t g)
  | .running | .endPass =>
    match kind with
    | 1 | 3 | 9 => some (.streamReadToken t g)
    | 2 | 4 => some (.streamWriteToken t g)
    | 5 => some (.reduceContribution t g)
    | 6 => some (.summaryInsert t g)
    | 7 => some (.topkInsert t g)
    | 8 => some (.walkRequest t g)
    | _ => none
  | .stopped => if kind = 3 then some (.streamReadToken t g) else none
  | .closed | .complete => none

/-- The first queue of a memory tile whose head is an accumulate token (R335). -/
def accQueue (t : Tile) (m : MTile) : Option (Fin 4) :=
  ([0, 1, 2, 3] : List (Fin 4)).find? (fun q => !m.qStop.getLsbD q.val && (match t.head q with
    | some k => (match k.side with | .acc _ _ => true | .none | .row _ _ | .ins _ | .xreq _ _ => false)
    | none => false))

/-- A generator that reads or writes at a stream port (R145). -/
def atPort (kind : Nat) (st : GenSt) : Bool := (kind == 3 || kind == 4 || kind == 8) && (match st with | .finishing _ => false | _ => true)

/-- A memory tile's work: its generators and the accumulator, in the order of their queues (R126, R335). -/
def State.pollMem (t : Nat) (x : Tile) (m : MTile) : List Work :=
  let gens := (List.finRange 4).filter (fun g => agOn m.ctrl g.val && !atPort (sKind (m.recs.get g)) (m.gens.get g).st)
  let works : List (Nat × Work) := gens.filterMap (fun g => (genEvent t g (sKind (m.recs.get g)) (m.gens.get g).st).map (fun i => ((agQueue m.ctrl g.val).val, .ev i)))
    ++ (match accQueue x m with | some q => [(q.val, .ev (.accTokenAdd t q))] | none => [])
  (sortBy (fun (a b : Nat × Work) => decide (a.1 < b.1)) works).map Prod.snd

/-- The memory tiles serve their input queues, then the waiting LDS whose granules were full when the cycle's work began (R126). -/
def State.pollTiles (s : State) : List Work := s.tiles.flatMap (fun (t, x) => match x.mem with | none => [] | some m => State.pollMem t x m) ++ s.pollLds

/-! ## Requests -/

/-- The event that serves a request at its unit. -/
def reqEvent (r : Req) : Option Instr :=
  match r.op with
  | .ldsN _ _ _ | .ldsW _ _ _ | .ldsWc _ _ _ | .sts _ _ _ _ | .feopClr _ _ _ | .feopSet _ _ _ | .tkinit _ _ _ | .tkout _ _ _ => some (.tileRequestServe r.id)
  | .sinitQs _ _ _ | .sinitHh _ _ _ | .sinitDc _ _ _ | .smerge _ _ _ _ | .qread _ _ _ | .qrank _ _ _ | .hhget _ _ _ | .dcest _ _ _ => some (.summaryOpServe r.id)
  | .hnew _ _ _ _ _ | .hdup _ _ _ | .hrel _ _ _ | .hupg _ _ _ _ | .hinfo _ _ _ | .hprio _ _ _ _ | .ldw _ _ _ _ => some (.homePortServe r.id)
  | .ldg _ _ _ | .stg _ _ _ _ => some (.portAccess r.id)
  | .aadd _ _ _ _ | .afadd _ _ _ _ | .amin _ _ _ _ | .amax _ _ _ _ | .aand _ _ _ _ | .aor _ _ _ _ | .axor _ _ _ _ | .aswp _ _ _ _ | .acas _ _ _ _ =>
    some (if r.pa.isSome then .atomicPerform r.id else .portAccess r.id)
  | _ => none

/-- A request that only the tiles of its region can serve. -/
def tileBound (i : Instr) : Bool := match i with | .tileRequestServe _ | .summaryOpServe _ => true | _ => false

/-- A request that a stream port serves (R145). -/
def Instr.isPortAccess (i : Instr) : Bool := match i with | .portAccess _ => true | _ => false

/-- When a request has arrived and whose it is: the order of R126. -/
structure Turn where
  due : Nat
  tile : Nat
  ctx : Nat
  id : Nat

/-- The order of requests of one cycle (R126). -/
def Turn.before (a b : Turn) : Bool :=
  decide (a.due < b.due) || (a.due == b.due && (decide (a.tile < b.tile) || (a.tile == b.tile && (decide (a.ctx < b.ctx)
    || (a.ctx == b.ctx && decide (a.id < b.id))))))

/-- The rows that elements gather: the next one's way to its tile or back is over. -/
def State.pollGather (s : State) : List (Turn × Work) :=
  s.tiles.filterMap (fun (t, x) => x.elem.bind (fun e =>
    if e.mat.garrived < 16 && !e.mat.gaddr.isEmpty && decide (e.mat.gdue ≤ s.cycle) then some (⟨e.mat.gdue, t, e.mat.gctx.val, e.mat.gid⟩, .ev (.mgathRowArrive t))
    else none))

/-- The requests that have arrived at other units than port tiles, with the rows of MGATH, in the order of their arrival. -/
def State.pollReqs (s : State) : List Work :=
  let rs := s.arrived (fun r => !((reqEvent r).any Instr.isPortAccess) && (match reqEvent r with | some i => !tileBound i || s.stands r.region | none => false))
  let works : List (Turn × Work) := rs.filterMap (fun r => (reqEvent r).map (fun i => (⟨r.due, r.tile, r.ctx.val, r.id⟩, .ev i)))
  (sortBy (fun (a b : Turn × Work) => Turn.before a.1 b.1) (works ++ s.pollGather)).map Prod.snd

/-- The first of some requests of each region, in row, column and context order (R41). -/
def firstPerRegion : List Req → List Nat → List Req
  | [], _ => []
  | r :: rest, seen => if seen.contains r.region then firstPerRegion rest seen else r :: firstPerRegion rest (r.region :: seen)

/-- The range units: one request of a region in a cycle. -/
def State.pollRange (s : State) : List Work :=
  (firstPerRegion (s.arrived (fun r => (match r.op with | .rnext _ _ _ => true | _ => false) && s.stands r.region)) []).map (fun r => .ev (.rangeUnitServe r.id))

/-- The Solder units that are free and have a request. -/
def State.pollSolder (s : State) : List Work :=
  (List.finRange 4).filterMap (fun d => if s.solderBusy.get d ≤ s.cycle && (s.nextPlan d.val).isSome then some (.ev (.solderServe d)) else none)

/-! ## Transfers and channels -/

/-- The oldest request before each transfer unit. -/
def firstPerUnit : List Transfer → List (Nat × Nat) → List Transfer
  | [], _ => []
  | x :: rest, seen => if seen.contains (x.die, x.port) then firstPerUnit rest seen else x :: firstPerUnit rest ((x.die, x.port) :: seen)

/-- Requests of transfers that a unit can accept. -/
def State.pollTransfers (s : State) : List Work :=
  let due := s.transfers.filter (fun x => decide (x.due ≤ s.cycle))
  let new := firstPerUnit (sortBy (fun (a b : Transfer) => decide (a.due < b.due)) (due.filter (fun x => !x.accepted))) []
  new.map (fun x => .ev (.transferAccept x.id))

/-- Channels whose expectations have been met. -/
def State.pollChannels (s : State) : List Work :=
  s.regions.flatMap (fun (n, r) => r.chans.filterMap (fun (k, c) => if 0 < c.p ∧ c.p ≤ c.a then some (.ev (.channelToken n k)) else none))

/-! ## The network -/

/-- What stands at a tile's router, by direction of arrival (4: its own ports; 5: the direct link). -/
def State.atRouter (s : State) (t : Nat) (x : Option Tile) : List (Nat × HopRef) :=
  (s.flights.filter (fun f => f.tile == t && decide (f.ready ≤ s.cycle))).map (fun f => (f.dir, .flight f.id))
    ++ (match x with
      | none => []
      | some x => ((List.finRange 4).filter (fun q => !(x.op.get q).isEmpty)).map (fun q => (4, .port t q)))

/-- The routers: each in turn from the direction after the one that it served last (R26). -/
def State.pollNet (s : State) : List Work :=
  let turn (t : Nat) (xs : List (Nat × HopRef)) : List Work :=
    let d := s.lastServed t
    (sortBy (fun (a b : Nat × HopRef) => decide ((a.1 + 5 - d) % 6 < (b.1 + 5 - d) % 6)) xs).map (fun h => .ev (.tokenDeliver h.2))
  s.tiles.flatMap (fun (t, x) => turn t (s.atRouter t (some x)))
    ++ ((s.flights.filter (fun f => (s.tile? f.tile).isNone)).map Flight.tile).eraseDups.flatMap (fun t => turn t (s.atRouter t none))

/-- Scatter and gather registers and staging tiles that hold a token. -/
def State.pollRegs (s : State) : List Work :=
  s.tiles.flatMap (fun (t, x) =>
    ((List.range x.scatter.length).filter (fun i => ((x.scatter[i]?).bind Scatter.held).isSome)).map (fun i => .ev (.scatterForward t i))
      ++ ((List.range x.gather.length).filter (fun i => ((x.gather[i]?).map (fun g => g.bufs.any (fun b => !b.isEmpty))).getD false)).map
          (fun i => .ev (.gatherForward t i))
      ++ (if ((x.mem.bind MTile.staging).map (fun g => !g.toks.isEmpty || (x.head 0).isSome)).getD false then [.ev (.stagingSend t)] else []))

/-- A request has been answered. -/
def Req.answered (r : Req) : Bool := match r.st with | .done _ => true | .sent | .waiting => false

/-- Replies and fault tokens that are due. -/
def State.pollReplies (s : State) : List Work :=
  (s.reqs.filter (fun r => r.answered && decide (r.due ≤ s.cycle) && s.stands r.region)).map (fun r => .ev (.replyTokenEnter r.id))
    ++ (s.faultToks.filter (fun f => decide (f.due ≤ s.cycle))).map (fun f => .ev (.faultTokenDeliver f.id))

/-! ## Elements -/

/-- A replay of a result of the matrix unit is under way (R267). -/
def State.replaying (s : State) (t id : Nat) : Bool := s.agenda.any (fun a => match a.2 with | .mrowReplayResult t' id' _ => t' == t && id' == id | _ => false)

/-- An element's matrix unit. -/
def State.pollElem (s : State) (t : Nat) (e : Elem) : List Work :=
  (e.mat.outs.filter (fun o => decide (o.due ≤ s.cycle) && !o.replayed && !s.replaying t o.id)).map (fun o => .ev (if o.isRow then .mrowResult t o.id else .mdrainResult t o.id))
    ++ (if e.mat.zb && decide (e.mat.zdue ≤ s.cycle) then [.ev (.mzeroComplete t)] else [])
    ++ (e.mat.acks.filter (fun d => decide (d ≤ s.cycle))).map (fun _ => .ev (.accAck t))

/-- The elements. -/
def State.pollElems (s : State) : List Work := s.tiles.flatMap (fun (t, x) => match x.elem with | none => [] | some e => s.pollElem t e)

/-! ## Port tiles (R145) -/

/-- What waits at the port tiles: the port tile, the requester, the generator, and the work. -/
def State.atPorts (s : State) : List (Nat × Nat × Nat × Work) :=
  (s.arrived (fun r => (reqEvent r).any Instr.isPortAccess)).map (fun r => (s.portAt (tileDie r.tile) (rowPort r.tile), 1, 0, .ev (.portAccess r.id)))
    ++ s.tiles.flatMap (fun (t, x) =>
      (match x.mem with
      | none => []
      | some m => (List.finRange 4).filterMap (fun g =>
        let w := m.recs.get g
        let st := (m.gens.get g).st
        if agOn m.ctrl g.val && atPort (sKind w) st then
          (genEvent t g (sKind w) st).map (fun i =>
            (s.portAt (tileDie t) (if sKind w = 8 then colPort t else sPtile w), (if sKind w = 8 then g.val else sSport w) + 1, 4 * t + g.val, .ev i))
        else none))
      ++ (match x.elem with
        | none => []
        | some e => (e.moves.filter (fun m => decide (m.due ≤ s.cycle))).map (fun m =>
          (s.portAt (tileDie t) (rowPort t), 6, 0, .ev (if m.isFill then .registerFillComplete t else .registerEvictComplete t)))))
    ++ (s.transfers.filter (fun x => x.accepted && decide (x.due ≤ s.cycle))).map (fun x => (portNo x.die x.port, 5, 0, .ev (.transferGranule x.id)))
    ++ (s.ports.filter (fun e => !e.2.walks.isEmpty)).map (fun e => (e.1, 6, 0, .walk e.1))

/-- The port tiles: each asks its requesters in the order of its slot table, the generators of one stream port in turn; the first that can use the
access takes it, and the others find it gone. -/
def State.pollPorts (s : State) : List Work :=
  let xs := s.atPorts
  let key (pt : Nat) (x : Nat × Nat × Nat × Work) : Nat :=
    (s.portOrder pt).findIdx (· == x.2.1) * 2 ^ 20 + (if x.2.2.1 = 0 then 0 else 1 + (x.2.2.1 + 2 ^ 16 - (s.portTile pt).turn - 1) % 2 ^ 16)
  (xs.map Prod.fst).eraseDups.flatMap (fun pt =>
    (sortBy (fun a b => decide (key pt a < key pt b)) (xs.filter (fun x => x.1 == pt))).map (fun x => x.2.2.2))

/-! ## Memory -/

/-- The Nickel core's time limits, and Pewter. -/
def State.pollMemory (s : State) : List Work :=
  (s.fetches.filter (fun f => decide (f.since + micros 1000000 ≤ s.time))).map (fun f => .ev (.flashFetchTimeout f.id))
    ++ s.regions.filterMap (fun (n, r) =>
      match s.withheldOf r with
      | (c, _) :: _ => if r.phase == .armed && decide (c + s.drainTime ≤ s.time) then some (.ev (.drainLimitExpiry n)) else none
      | [] => none)
    ++ (if s.reclaiming && s.dying.isNone then [.ev .objectDestroyBegin] else [])

/-! ## Collectives -/

/-- The engine of a die has something to do. -/
def State.engineAwake (s : State) (d : Fin 4) : Bool :=
  let e := s.engines.get d
  e.now.isSome || !e.queue.isEmpty || s.reqs.any (fun r => isCrdy r.op && r.st == .sent && decide (r.due ≤ s.cycle) && r.x.toNat / 1024 == d.val)

/-- Engines, completed operations, refused chunks, switches, collective slots. -/
def State.pollCollectives (s : State) : List Work :=
  ((List.finRange 4).filter s.engineAwake).map (fun d => .ev (.engineChunkServe d))

/-- What follows the engines. -/
def State.pollCollected (s : State) : List Work :=
  (s.tables.filter (fun e => e.2.ready)).map (fun e => .ev (.collectiveComplete ⟨e.1 / 1024 % 4, Nat.mod_lt _ (by decide)⟩ (e.1 % 1024)))
    ++ (s.engines.toList.flatMap (fun e => e.refused.filter (fun x => decide (x.2.2 ≤ s.cycle)))).map (fun x => .ev (.chunkReoffer x.1))
    ++ ((List.range s.switches.length).filter (fun i => ((s.switches[i]?).map (fun x => decide (x.since + x.limit ≤ s.cycle))).getD false)).reverse.map
        (fun i => .ev (.switchLimitExpiry i))
    ++ s.tiles.filterMap (fun (t, x) => x.elem.bind (fun e => e.cslot.bind (fun c => (s.slotOver t e c).map (fun _ => .ev (.cslotEnd t)))))

/-! ## Regions and tasks -/

/-- A region's retirement, or a turn of a PSEQ, has something to do. -/
def State.retireDue (s : State) (r : Region) : Bool :=
  match r.phase with
  | .armed => s.retires r || (s.turnReady r).isSome
  | .retiring => s.retired r
  | .stopped => true
  | .halting | .checkpointed | .writeBack | .done => false

/-- Checkpoints, rounds and retirements. -/
def State.pollRegions (s : State) : List Work :=
  s.regions.filterMap (fun (n, r) => if r.phase == .halting && s.atBoundary r then some (.ev (.regionCheckpoint n)) else none)
    ++ s.regions.filterMap (fun (n, r) => if r.phase == .armed && s.roundDone r then some (.ev (.tcommitRound n)) else none)
    ++ s.regions.filterMap (fun (n, r) => if s.retireDue r then some (.ev (.regionRetire n)) else none)

/-- Complete ordered tasks, the oldest first. -/
def State.pollTasks (s : State) : List Work :=
  (sortBy (fun a b => keyLt (s.keyOf a) (s.keyOf b)) (s.tasks.filter (fun t => t.ordered && t.complete))).map (fun t => .ev (.taskCommit t.id))

/-! ## Queues -/

/-- The event of a packet that has been fetched. -/
def packetEvent (p : Packet) : Option Instr :=
  match p.kind with
  | 1 => some (.launch p.id)
  | 2 => some (.graph p.id)
  | 3 => some (.wait p.id)
  | 4 => some (.signal p.id)
  | 5 => some (.copy p.id)
  | 6 => some (if bit (p.word 2) 17 then .preemptKill p.id else .preempt p.id)
  | 7 => some (.barrier p.id)
  | _ => none

/-- Packets: those that have been fetched, waiting WAITs whose condition holds, BARRIERs whose packets are over; parked queues. -/
def State.pollPackets (s : State) : List Work :=
  s.packets.filterMap (fun p =>
    match p.st with
    | .fetched => if p.due ≤ s.cycle then (packetEvent p).map Work.ev else none
    | .waiting =>
      if p.kind = 3 then (if p.met || s.waitHolds p || (s.absentAt (p.word 2)).isSome then some (.ev (.waitRetest p.id)) else none)
      else if p.kind = 7 then (if p.waits.any (fun w => (s.packet? w).isSome) then none else some (.ev (.barrier p.id)))
      else none
    | .started | .ended _ => none)
  ++ s.queues.filterMap (fun (q, x) => if x.parked && s.unparks q then some (.ev (.queueUnpark ⟨q % 1024, Nat.mod_lt _ (by decide)⟩)) else none)

/-- Completion records to be written. -/
def State.pollRecords (s : State) : List Work := s.packets.filterMap (fun p => if (s.recordOf p).isSome then some (.ev (.completionRecord p.id)) else none)

/-- Placement: turns reserved, regions placed again, launches. -/
def State.pollPlaces (s : State) : List Work :=
  (s.launches.filter (fun l => s.unplaced l && !l.reserved && decide (l.since + 2 ^ 20 ≤ s.cycle))).map (fun l => .ev (.launchReserveTurn l.id))
    ++ (sortBy (fun (a b : Nat × Region) => decide (s.rankOf a.2 < s.rankOf b.2)) (s.regions.filter (fun e => s.wantsReplace e.2))).map
        (fun e => .ev (.regionReplace e.1))
    ++ (sortBy (fun (a b : Launch) => decide (a.rank < b.rank)) (s.launches.filter (fun l => l.region.isNone && decide (l.due ≤ s.cycle)))).map
        (fun l => .ev (.regionPlace l.id))

/-- The dispatcher. -/
def State.pollGrant (s : State) : List Work := if s.mayGrant then [.ev .dispatchGrant] else []

/-! ## All phases -/

/-- The number of phases. -/
def pollPhases : Nat := 20

/-- The events that the units of one phase perform now. -/
def State.poll (s : State) (p : Nat) : List Work :=
  match p with
  | 0 => s.pollTiles
  | 1 => s.pollReqs
  | 2 => s.pollRange
  | 3 => s.pollSolder
  | 4 => s.pollTransfers
  | 5 => s.pollPorts
  | 6 => s.pollChannels
  | 7 => s.pollNet
  | 8 => s.pollRegs
  | 9 => s.pollReplies
  | 10 => s.pollElems
  | 11 => s.pollMemory
  | 12 => s.pollCollectives
  | 13 => s.pollCollected
  | 14 => s.pollRegions
  | 15 => s.pollTasks
  | 16 => s.pollRecords
  | 17 => s.pollPackets
  | 18 => s.pollPlaces
  | 19 => s.pollGrant
  | _ => []

/-- A HALT passes along a chain: the context of a follower halts (R35). -/
def State.passHalt (s : State) (t : Nat) (c : Fin 4) : State :=
  s.modCtx t c (fun x => if x.st == .armed then { x with st := .halted } else x)

end Sys2Proof.Machine
end

