-- ==== Sys2Proof/Machine/Step.lean ====
section
/-!
DEFINITION. One step of the machine: the next piece of work of this cycle, or the next event that is due, or the start of a cycle.
-/
namespace Sys2Proof.Machine

/-- One step. -/
def step (s : State) : Host.Outcome State Fault Refusal :=
  match s.scan with
  | .pick t :: rest =>
    match State.pick { s with scan := rest } t with
    | none => .next { s with scan := rest }
    | some (site, i) => exec i { s with scan := rest, cur := some site }
  | .run site :: rest =>
    match State.dueSite s site.tile site.slot with
    | none => .next { s with scan := rest }
    | some (_, i) => exec i { s with scan := rest, cur := some site }
  | .halt t c :: rest => .next (State.passHalt { s with scan := rest } t c)
  | .walk p :: rest => .next (State.walkPage { s with scan := rest } p)
  | .ev i :: rest => exec i { s with scan := rest, cur := none }
  | .poll p :: rest => .next { s with scan := s.poll p ++ rest }
  | [] =>
    match takeFirst (fun a => decide (a.1 ≤ s.cycle)) s.agenda with
    | some ((_, i), rest) => exec i { s with agenda := rest, cur := none }
    | none => .next (s.newCycle pollPhases)

/-- The state with one instruction where the next step fetches: in slot 0 of an armed element, ready to be picked. -/
def State.withFetchWord (s : State) (nbits w : Nat) : State := if nbits = 32 then s.placeWord (BitVec.ofNat 32 w) else s

end Sys2Proof.Machine
end

