-- ==== Sys2Proof/Safety.lean ====
section
/-!
DEFINITION. What counts as a safe run, and the words in which the statements speak of a state: the parts that are looked up, the canonical
form of the memories, what a completed firing leaves of its context.
-/
namespace Sys2Proof

/-- A step goes on: the device has no fault that ends it (R208 to R213). -/
def GoesOn (s : Machine.State) : Prop := ∃ t, Machine.step s = .next t

/-- A memory of bytes in canonical form. -/
def Memory.wf (m : SMap Byte) : Bool := Machine.SMap.wf 0 m

/-- Every memory of a state is in canonical form: HBM, the SRAM of the memory tiles, flash and the full-empty bits. -/
def Machine.State.memWf (s : Machine.State) : Bool :=
  Memory.wf s.hbm && Memory.wf s.sram && Memory.wf s.flash && Machine.SMap.wf false s.full

end Sys2Proof

namespace Sys2Proof.Machine

/-! ## Parts of a state -/

/-- A context of the element at a tile. -/
def State.ctx? (s : State) (t : Nat) (c : Fin 4) : Option Ctx := (s.elem? t).map (fun x => x.ctx.get c)

/-- The slots of an output port of a tile. -/
def State.port? (s : State) (t : Nat) (q : Fin 4) : Option (List OutSlot) := (s.tile? t).map (fun x => x.op.get q)

/-- The tokens of an input queue of a tile. -/
def State.queue? (s : State) (t : Nat) (q : Fin 4) : Option (List Token) := (s.tile? t).map (fun x => x.iq.get q)

/-- A byte of HBM, by its key. -/
def State.hbmByte (s : State) (k : Nat) : Byte := SMap.read 0 s.hbm k

/-- The trace ring holds the byte: the only HBM that a firing writes, and only for a sampled token (R259, R261). -/
def State.inRing (s : State) (k : Nat) : Prop :=
  s.dbg.trbase ≠ 0 ∧ ∃ n, n < 2 ^ s.dbg.trsize.toNat ∧ memKey (domKey (s.dbg.trbase.toNat + 128 * n)) ≤ k
    ∧ k < memKey (domKey (s.dbg.trbase.toNat + 128 * n)) + 128

/-- No watchpoint is armed (R264). -/
def State.Unwatched (s : State) : Prop := ∀ w, (s.dbg.watch.get w).getLsbD 53 = false

/-- A state without what the completion of a firing may change: tiles, regions, tasks, the commit sequence, the trace ring and
the matches of a watchpoint on it. -/
def State.bare (s : State) : State :=
  { s with tiles := [], regions := [], tasks := [], seq := 0, hbm := [], dbg := State.reset.dbg, cur := none, watched := [] }

/-- What two states have alike when only trace records have been written between them: the ring's place, the watchpoints, HBM outside
the ring, the canonical form, and the noted matches where no watchpoint is armed. -/
structure SameOutsideRing (s t : State) : Prop where
  base : t.dbg.trbase = s.dbg.trbase
  size : t.dbg.trsize = s.dbg.trsize
  watch : t.dbg.watch = s.dbg.watch
  watched : s.Unwatched → t.watched = s.watched
  wf : Memory.wf s.hbm = true → Memory.wf t.hbm = true
  byte : Memory.wf s.hbm = true → ∀ k, ¬ s.inRing k → t.hbmByte k = s.hbmByte k

/-! ## Firings -/

/-- The context of a firing once it has completed: what the meaning made of it, with the arcs of its tokens (R170) and the predicate
effect of the side halfword last (R85). -/
def Env.ctxAfter (e : Env) (c : Ctx) : Ctx := { c with arcs := e.arcs, p := predEffect e.side c.p }

end Sys2Proof.Machine

namespace Sys2Proof
open Sys2Proof.Machine

/-- The context with a result written to a scalar destination; a token sent clears the mark of TMARK (R79, R381). -/
def SDst.ctx (d : SDst) (w : Word) (c : Ctx) : Ctx :=
  match d with
  | .s n => { c with s := c.s.set n.val w n.isLt }
  | .o _ | .oe _ => { c with mark := false }
  | .nul => c

/-- The context with a result written to a vector destination (R79, R381). -/
def VDst.ctx (d : VDst) (x : Vec) (c : Ctx) : Ctx :=
  match d with
  | .v n => { c with v := c.v.set n.val x n.isLt }
  | .o _ | .oe _ => { c with mark := false }
  | .nul => c

end Sys2Proof

namespace Sys2Proof.Machine

/-- What a firing adds to port `q`: one token through codes 48 to 51 with the tag of the side halfword, through codes 52 to 55 with
tag 1, end-of-run (R79, R84). -/
def Env.sent (e : Env) (now : Nat) (d : ADst) (pay : Payload) (q : Fin 4) : List OutSlot :=
  match d with
  | .o p => if q = p then [.full (e.token now (sideTag e.side) pay .none) none now] else []
  | .oe p => if q = p then [.full (e.token now 1 pay .none) none now] else []
  | .s _ | .v _ | .nul => []

/-- The number of tokens that a firing dequeues from queue `q` (R23). -/
def Env.taken (e : Env) (i : Instr) (q : Fin 4) : Nat :=
  ((i.shape.takes.filter (fun x => x.1 == q)).map (fun x => min x.2 (e.tile.iq.get q).length)).sum

/-- The tokens that a firing dequeues. -/
def Env.dequeued (e : Env) (i : Instr) : List Token := i.shape.takes.flatMap (fun x => (e.tile.iq.get x.1).take x.2)

/-- The parts of an element beside its contexts, its picker, its firing counts and its vector register entries: the matrix unit, the
configuration (R88), the cycle index, the barriers, the collective slot, the halts. -/
structure ElemParts where
  mat : Matrix
  slots : Vector (BitVec 32) 32
  sides : Vector (BitVec 16) 32
  comps : Vector (BitVec 16) 16
  consts : Vector Word 8
  ctrl : BitVec 64
  table : BitVec 48
  pendTable : Option (BitVec 48)
  idx : BitVec 4
  bars : Vector Bar 16
  cslot : Option CSlot
  haltAt : Option Nat
  freeEnts : BitVec 16
deriving DecidableEq, Repr

/-- Those parts of an element. -/
def Elem.parts (x : Elem) : ElemParts :=
  ⟨x.mat, x.slots, x.sides, x.comps, x.consts, x.ctrl, x.table, x.pendTable, x.idx, x.bars, x.cslot, x.haltAt, x.freeEnts⟩

/-- What a firing's own instruction does, beside what every firing does: to its context, to the ports of its element, to the other
parts of the element, to its region, the flags it sets, and what the parts of the state outside tiles, regions and tasks are afterwards. -/
structure Effect where
  ctx : Ctx → Ctx := id
  sent : Fin 4 → List OutSlot := fun _ => []
  parts : ElemParts → ElemParts := id
  region : Region → Region := id
  flags : Flags := 0
  bare : State

/-- `t` is what a firing of `i`, in environment `e`, with effect `x`, makes of `s` outside HBM, and nothing else has changed: the context
and the ports by the effect, the sources dequeued (R23), the flags on their way to the status record (R86, R102), the firing count (R114); every
other context, port, queue, memory tile, element and region as before. -/
structure Fired (s t : State) (i : Instr) (e : Env) (x : Effect) : Prop where
  ctx : t.ctx? e.site.tile e.site.ctx = some (e.ctxAfter (x.ctx e.ctx))
  ctxs : ∀ u c, ¬(u = e.site.tile ∧ c = e.site.ctx) → t.ctx? u c = s.ctx? u c
  port : ∀ q, t.port? e.site.tile q = some (e.tile.op.get q ++ x.sent q)
  ports : ∀ u q, u ≠ e.site.tile → t.port? u q = s.port? u q
  queue : ∀ q, t.queue? e.site.tile q = some ((e.tile.iq.get q).drop (e.taken i q))
  queues : ∀ u q, u ≠ e.site.tile → t.queue? u q = s.queue? u q
  elem : ∃ y, t.elem? e.site.tile = some y ∧ y.parts = x.parts e.elem.parts
    ∧ y.counts.get e.site.slot = e.elem.counts.get e.site.slot + 1
  elems : ∀ u, u ≠ e.site.tile → (t.elem? u).map Elem.parts = (s.elem? u).map Elem.parts
  mems : ∀ u, t.mem? u = s.mem? u
  region : t.region? e.ctx.region = some { x.region e.region with setNow := (x.region e.region).setNow ||| e.raised x.flags }
  regions : ∀ n, n ≠ e.ctx.region → t.region? n = s.region? n
  bare : t.bare = x.bare.bare

/-- A firing that leaves HBM as it was, but for trace records of sampled tokens (R261). -/
structure Completed (s t : State) (i : Instr) (e : Env) (x : Effect) : Prop extends Fired s t i e x where
  ring : SameOutsideRing s t
  hbm : (∀ k ∈ e.dequeued i, k.log = none) → t.hbm = s.hbm ∧ t.dbg = s.dbg ∧ t.watched = s.watched

/-! ## Faults of a firing -/

/-- `t` is what a fault `f` of a firing in environment `e` makes of `s`, where the region has a fault port and a free record entry, and nothing
else has changed (R85, R209 to R211): the context is frozen, no token has been taken or sent, the lowest free record entry holds the detail,
the fault token is on its way. -/
structure Faulted (s t : State) (e : Env) (f : FaultInfo) (n pt : Nat) (pq : Fin 4) : Prop where
  ctx : t.ctx? e.site.tile e.site.ctx = some { e.ctx with st := .frozen false }
  ctxs : ∀ u c, ¬(u = e.site.tile ∧ c = e.site.ctx) → t.ctx? u c = s.ctx? u c
  ports : ∀ u q, t.port? u q = s.port? u q
  queues : ∀ u q, t.queue? u q = s.queue? u q
  elems : ∀ u, (t.elem? u).map Elem.parts = (s.elem? u).map Elem.parts
  mems : ∀ u, t.mem? u = s.mem? u
  token : ∃ due, s.cycle ≤ due ∧
    t.faultToks = s.faultToks ++ [⟨s.nextId, e.ctx.region, pt, pq,
      faultWord f (e.region.rel e.ctx.leaf e.site.tile).1 (e.region.rel e.ctx.leaf e.site.tile).2 e.site.ctx.val e.site.slot.val false n, due,
      some (e.site.tile, e.site.ctx)⟩]
  region : ∃ g, t.region? e.ctx.region = some g ∧ Vector.at g.frec n = some f.detail
    ∧ (∀ m, m < 16 → m ≠ n → Vector.at g.frec m = Vector.at e.region.frec m)
    ∧ g = { e.region with frec := g.frec, faulted := g.faulted }
  regions : ∀ m, m ≠ e.ctx.region → t.region? m = s.region? m
  bare : t.bare = State.bare { s with faultToks := t.faultToks, nextId := s.nextId + 1, freeCtr := t.freeCtr }
  rest : t.hbm = s.hbm ∧ t.dbg = s.dbg ∧ t.watched = s.watched ∧ t.tasks = s.tasks ∧ t.seq = s.seq

/-- The region of a fault without a fault port, or without a free record entry, has stopped with it, and no other region has changed (R212). -/
structure Stopped (s t : State) (n : Nat) (f : FaultInfo) : Prop where
  region : ∃ g, t.region? n = some g ∧ g.phase = .stopped ∧ g.stopKind = f.kind ∧ g.stopDet = f.detail ∧ g.endedAt = s.cycle
  regions : ∀ m, m ≠ n → t.region? m = s.region? m
  memory : t.hbm = s.hbm

end Sys2Proof.Machine
end

