-- ==== Sys2Proof/WellFormed.lean ====
section
/-!
DEFINITION. Which terms of `Instr` stand for something: the slot instructions that have a legal word (R78 to R95, R289, R307), and
the events whose operands lie in the ranges the machine has.
-/
namespace Sys2Proof

/-- The number of tiles of a package: four dies of 48 columns and 32 rows (R7). -/
def tileCount : Nat := 6144

/-- A shift count immediate and every register number is in range by its type; what is left to check of an atomic (R289). -/
def AtOrd.wf (r : RDst) (commutativeOk quantumOk : Bool) : AtOrd → Bool
  | .relaxed .commutative => commutativeOk && r == .nul
  | .relaxed .quantum => quantumOk
  | .relaxed _ => true
  | .sync .rel _ => true
  | .sync _ _ => r != .nul

/-- The ordering of a float comparison (R94). -/
def Cond.wfFloat (c : Cond) : Bool := c != .ltu && c != .leu

/-- With .MOV the second operand of PLOG or KLOG is zero (R80). -/
def LogOp.wf (f : LogOp) (b : Nat) : Bool := f != .mov || b == 0

/-- A packet about to move stands at a tile of the package. -/
def HopRef.wf : HopRef → Bool
  | .port tile _ => tile < tileCount
  | .flight _ => true

/-- A chunk has 16 data flits of 64 bytes, an operator and a format of R228, and at least one contributor (R228, R233); only a sum in arrival mode, a
maximum or a minimum travels as a partial (R234). -/
def Chunk.wf (c : Chunk) : Bool :=
  c.data.length == 1024 && decide (c.op.val ≤ 5) && decide (c.index < 1024) && decide (c.expect ≤ 640) && c.ranks != 0
    && (c.wide.isEmpty || c.op.val == 1 || c.op.val == 3 || c.op.val == 4)

/-- The well-formed instructions and events. -/
def Instr.wf : Instr → Bool
  | .nop _ => true
  | .halt _ => true
  | .trap _ => true
  | .tmark _ => true
  | .rdsr _ _ _ => true
  | .wrsr _ _ => true
  | .movi _ _ _ => true
  | .movhi _ _ _ => true
  | .sel _ _ _ _ => true
  | .wfld _ _ _ => true
  | .add _ _ _ _ => true
  | .addi _ _ _ => true
  | .sub _ _ _ _ => true
  | .mul _ _ _ _ => true
  | .mulh _ _ _ _ => true
  | .mulhu _ _ _ _ => true
  | .div _ _ _ _ => true
  | .divu _ _ _ _ => true
  | .rem _ _ _ _ => true
  | .remu _ _ _ _ => true
  | .and _ _ _ _ => true
  | .andi _ _ _ => true
  | .or _ _ _ _ => true
  | .ori _ _ _ => true
  | .xor _ _ _ _ => true
  | .xori _ _ _ => true
  | .shl _ _ _ _ => true
  | .shli _ _ _ => true
  | .shr _ _ _ _ => true
  | .shri _ _ _ => true
  | .sar _ _ _ _ => true
  | .sari _ _ _ => true
  | .min _ _ _ _ => true
  | .minu _ _ _ _ => true
  | .max _ _ _ _ => true
  | .maxu _ _ _ _ => true
  | .clz _ _ _ => true
  | .popc _ _ _ => true
  | .bfx _ _ _ _ => true
  | .bfi _ _ _ _ => true
  | .cmp _ _ _ _ _ _ => true
  | .cmpi _ _ _ _ _ _ => true
  | .plog _ _ _ _ b f => f.wf b.val
  | .vadd _ _ _ _ => true
  | .vsub _ _ _ _ => true
  | .vmul _ _ _ _ => true
  | .vfma _ _ _ _ => true
  | .vfms _ _ _ _ => true
  | .vfnma _ _ _ _ => true
  | .vmin _ _ _ _ => true
  | .vmax _ _ _ _ => true
  | .vabs _ _ _ => true
  | .vneg _ _ _ => true
  | .vmov _ _ _ => true
  | .vbcast _ _ _ => true
  | .vcmp _ _ _ _ _ c => c.wfFloat
  | .vsel _ _ _ _ => true
  | .vextr _ _ _ _ => true
  | .vrcps _ _ _ => true
  | .vrsqs _ _ _ => true
  | .vexp2s _ _ _ => true
  | .vlog2s _ _ _ => true
  | .vrnd _ _ _ _ => true
  | .vscale _ _ _ _ => true
  | .vcvti _ _ _ _ => true
  | .vcvtf _ _ _ _ => true
  | .vsrnd _ _ _ _ => true
  | .viadd _ _ _ _ => true
  | .visub _ _ _ _ => true
  | .vimul _ _ _ _ => true
  | .vimin _ _ _ _ => true
  | .vimax _ _ _ _ => true
  | .vand _ _ _ _ => true
  | .vor _ _ _ _ => true
  | .vxor _ _ _ _ => true
  | .vshl _ _ _ _ => true
  | .vshr _ _ _ _ => true
  | .vsar _ _ _ _ => true
  | .vicmp _ _ _ _ _ _ => true
  | .vperm _ _ _ _ => true
  | .vrot _ _ _ _ _ => true
  | .vreda _ _ _ => true
  | .vredmMax _ _ _ => true
  | .vredmMin _ _ _ => true
  | .vscan _ _ _ _ => true
  | .vcprs _ _ _ _ => true
  | .vxpnd _ _ _ _ => true
  | .klog _ _ _ _ b f => f.wf b.val
  | .kmovToMask _ _ _ => true
  | .kmovFromMask _ _ _ => true
  | .mcfg _ _ => true
  | .mldb _ _ => true
  | .mrow _ _ _ => true
  | .mrowG _ _ => true
  | .mgath _ _ => true
  | .mdrain _ _ _ => true
  | .mdrainR _ _ _ _ _ => true
  | .mzero _ => true
  | .ldsN _ _ _ => true
  | .ldsW _ _ _ => true
  | .ldsWc _ _ _ => true
  | .sts _ _ _ _ => true
  | .feopClr _ _ _ => true
  | .feopSet _ _ _ => true
  | .ldg _ _ _ => true
  | .stg _ _ _ _ => true
  | .ldw _ _ _ _ => true
  | .aadd _ r _ o => o.wf r true true
  | .afadd _ r _ o => o.wf r true true
  | .amin _ r _ o => o.wf r true true
  | .amax _ r _ o => o.wf r true true
  | .aand _ r _ o => o.wf r true true
  | .aor _ r _ o => o.wf r true true
  | .axor _ r _ o => o.wf r true true
  | .aswp _ r _ o => o.wf r false true
  | .acas _ r n o => o.wf r false false && decide (n.val ≤ 6)
  | .fence _ r _ o _ => o == .rel || r != .nul
  | .bar _ _ _ _ => true
  | .tset _ _ => true
  | .tcommit _ _ => true
  | .hnew _ _ _ _ _ => true
  | .hdup _ _ _ => true
  | .hrel _ _ _ => true
  | .hweak _ _ _ => true
  | .hupg _ _ _ _ => true
  | .hinfo _ _ _ => true
  | .hprio _ _ _ _ => true
  | .sinitQs _ _ _ => true
  | .sinitHh _ _ _ => true
  | .sinitDc _ _ _ => true
  | .qsins _ _ _ => true
  | .hhins _ _ _ => true
  | .dcins _ _ _ => true
  | .smerge _ _ _ _ => true
  | .qread _ _ _ => true
  | .qrank _ _ _ => true
  | .hhget _ _ _ => true
  | .dcest _ _ _ => true
  | .tkinit _ _ _ => true
  | .tkins _ _ _ _ => true
  | .tkout _ _ _ => true
  | .pfrag _ _ _ => true
  | .pseq _ _ _ _ => true
  | .povl _ _ _ _ => true
  | .ppipe _ _ _ _ => true
  | .pnest _ _ _ _ => true
  | .prep _ _ _ _ => true
  | .piface _ _ _ => true
  | .pcost _ _ _ => true
  | .plaunch _ _ _ _ => true
  | .plaunchC _ _ _ _ => true
  | .pfree _ _ _ => true
  | .xreq _ _ _ => true
  | .xexp _ _ => true
  | .crdy _ _ _ => true
  | .cslot _ _ _ => true
  | .qpush _ _ _ _ => true
  | .rnext _ _ _ => true
  | .rangeUnitServe _ => true
  | .kickWrite _ _ => true
  | .qstatWrite _ _ => true
  | .registerWrite off _ => decide (off < 2 ^ 20)
  | .amFlush => true
  | .amPin _ => true
  | .amReadEntry => true
  | .amRegister => true
  | .libInstall => true
  | .libRemove => true
  | .debugArm _ => true
  | .debugResume => true
  | .debugStop region => decide (region < 4096)
  | .spdmGetMeasurements _ => true
  | .hostMemWrite pa _ => decide (pa < 2 ^ 50)
  | .hostMemRead pa _ => decide (pa < 2 ^ 50)
  | .dispatchGrant => true
  | .launch _ => true
  | .graph _ => true
  | .wait _ => true
  | .waitRetest _ => true
  | .queueUnpark _ => true
  | .signal _ => true
  | .copy _ => true
  | .preempt _ => true
  | .preemptKill _ => true
  | .barrier _ => true
  | .launchReserveTurn _ => true
  | .regionPlace _ => true
  | .slotTableApply tile => decide (tile < tileCount)
  | .registerFillComplete tile => decide (tile < tileCount)
  | .registerEvictComplete tile => decide (tile < tileCount)
  | .followerFire tile _ => decide (tile < tileCount)
  | .tokenDeliver h => h.wf
  | .scatterForward tile _ => decide (tile < tileCount)
  | .gatherForward tile _ => decide (tile < tileCount)
  | .stagingSend tile => decide (tile < tileCount)
  | .replyTokenEnter _ => true
  | .faultTokenDeliver _ => true
  | .streamReadToken tile _ => decide (tile < tileCount)
  | .streamWriteToken tile _ => decide (tile < tileCount)
  | .streamComplete tile _ => decide (tile < tileCount)
  | .reduceContribution tile _ => decide (tile < tileCount)
  | .summaryInsert tile _ => decide (tile < tileCount)
  | .topkInsert tile _ => decide (tile < tileCount)
  | .walkRequest tile _ => decide (tile < tileCount)
  | .accTokenAdd tile _ => decide (tile < tileCount)
  | .accAck tile => decide (tile < tileCount)
  | .mrowResult tile _ => decide (tile < tileCount)
  | .mrowReplayResult tile _ _ => decide (tile < tileCount)
  | .mdrainResult tile _ => decide (tile < tileCount)
  | .mzeroComplete tile => decide (tile < tileCount)
  | .mgathRowArrive tile => decide (tile < tileCount)
  | .tileRequestServe _ => true
  | .ldsRelease _ => true
  | .summaryOpServe _ => true
  | .homePortServe _ => true
  | .atomicPerform _ => true
  | .portAccess _ => true
  | .pageFetchComplete _ => true
  | .pageEvict pte _ lba => decide (pte < 2 ^ 50) && decide (lba < 2 ^ 42)
  | .drainLimitExpiry region => decide (region < 4096)
  | .regionCheckpoint region => decide (region < 4096)
  | .regionReplace region => decide (region < 4096)
  | .flashFetchError _ => true
  | .flashFetchTimeout _ => true
  | .transferAccept _ => true
  | .transferGranule _ => true
  | .channelToken region ch => decide (region < 4096) && decide (ch % 4096 ≠ 0)
  | .solderServe _ => true
  | .quantumRefresh _ pa => decide (pa < 2 ^ 50)
  | .regionRetire region => decide (region < 4096)
  | .completionRecord _ => true
  | .taskCommit _ => true
  | .tcommitRound region => decide (region < 4096)
  | .pewterEpochTick => true
  | .objectDestroyBegin => true
  | .destructionPoint => true
  | .engineChunkServe _ => true
  | .chunkArrive c => c.wf
  | .collectiveComplete _ entry => decide (entry < 1024)
  | .switchCombine c => c.wf
  | .switchLimitExpiry _ => true
  | .chunkReoffer _ => true
  | .cslotStart tile => decide (tile < tileCount)
  | .cslotEnd tile => decide (tile < tileCount)
  | .pageMigrate pte mig dest => decide (pte < 2 ^ 50) && decide (mig < 2 ^ 50) && decide (dest < 2 ^ 50)
  | .watchpointRecord _ _ _ _ _ => true
  | .droopTrip => true
  | .powerCapStep => true
  | .machineCheck _ addr region => decide (addr < 2 ^ 50) && decide (region < 4096)
  | .deviceReset => true
  | .pwrstatRead => true

end Sys2Proof
end

