-- ==== Sys2Proof/Certificates/Slice0/Obligations.lean ====
section
/-!
DEFINITION. The statements of this model for the provers, each `Obligations.<Name>`, and the tables in which they say what instructions give.
-/
namespace Sys2Proof.Claims
open Sys2Proof.Machine

/-! ## Scalar results -/

/-- The number of leading zero bits of a 64-bit value, counted from bit 63 down (R299). -/
def leadingZeros (a : Word) : Nat := ((List.range 64).find? (fun n => a.getLsbD (63 - n))).getD 64

/-- The number of one bits of a 64-bit value (R355). -/
def oneBits (a : Word) : Nat := (List.range 64).foldl (fun n k => n + (a.getLsbD k).toNat) 0

/-- Where an instruction that makes one scalar result writes it, and the result (R294, R298, R299, R306, R326, R339, R340, R342, R355, R363,
R366, R375, R391, R401, R404, R320, R316), on the operands of a firing. -/
def scalarResult (e : Env) (i : Instr) : Option (SDst × Word) :=
  match i with
  | .add _ d a b => some (d, BitVec.ofNat 64 ((e.s a).toNat + (e.s b).toNat))
  | .sub _ d a b => some (d, BitVec.ofInt 64 ((e.s a).toInt - (e.s b).toInt))
  | .mul _ d a b => some (d, BitVec.ofNat 64 ((e.s a).toNat * (e.s b).toNat))
  | .mulh _ d a b => some (d, BitVec.ofInt 64 ((e.s a).toInt * (e.s b).toInt / 2 ^ 64))
  | .mulhu _ d a b => some (d, BitVec.ofNat 64 ((e.s a).toNat * (e.s b).toNat / 2 ^ 64))
  | .div _ d a b => some (d, if e.s b = 0 then BitVec.ofInt 64 (-1) else BitVec.ofInt 64 ((e.s a).toInt.tdiv (e.s b).toInt))
  | .divu _ d a b => some (d, if e.s b = 0 then BitVec.ofNat 64 (2 ^ 64 - 1) else BitVec.ofNat 64 ((e.s a).toNat / (e.s b).toNat))
  | .rem _ d a b => some (d, if e.s b = 0 then e.s a
      else BitVec.ofInt 64 ((e.s a).toInt - (e.s a).toInt.tdiv (e.s b).toInt * (e.s b).toInt))
  | .remu _ d a b => some (d, if e.s b = 0 then e.s a else BitVec.ofNat 64 ((e.s a).toNat - (e.s a).toNat / (e.s b).toNat * (e.s b).toNat))
  | .and _ d a b => some (d, e.s a &&& e.s b)
  | .or _ d a b => some (d, e.s a ||| e.s b)
  | .xor _ d a b => some (d, e.s a ^^^ e.s b)
  | .shl _ d a b => some (d, BitVec.ofNat 64 ((e.s a).toNat * 2 ^ ((e.s b).toNat % 64)))
  | .shr _ d a b => some (d, BitVec.ofNat 64 ((e.s a).toNat / 2 ^ ((e.s b).toNat % 64)))
  | .sar _ d a b => some (d, BitVec.ofInt 64 ((e.s a).toInt / 2 ^ ((e.s b).toNat % 64)))
  | .min _ d a b => some (d, if (e.s a).toInt ≤ (e.s b).toInt then e.s a else e.s b)
  | .minu _ d a b => some (d, if (e.s a).toNat ≤ (e.s b).toNat then e.s a else e.s b)
  | .max _ d a b => some (d, if (e.s b).toInt ≤ (e.s a).toInt then e.s a else e.s b)
  | .maxu _ d a b => some (d, if (e.s b).toNat ≤ (e.s a).toNat then e.s a else e.s b)
  | .clz _ d a => some (d, BitVec.ofNat 64 (leadingZeros (e.s a)))
  | .popc _ d a => some (d, BitVec.ofNat 64 (oneBits (e.s a)))
  | .bfx _ d a b => some (d, BitVec.ofNat 64 ((e.s a).toNat / 2 ^ ((e.s b).toNat % 64) % 2 ^ min ((e.s b).toNat / 64 % 128) 64))
  | .bfi _ d a b =>
    let lo := (e.s b).toNat % 64
    let m : Word := BitVec.ofNat 64 ((2 ^ min ((e.s b).toNat / 64 % 128) 64 - 1) * 2 ^ lo)
    some (.s d, (e.ctx.s.get d &&& ~~~ m) ||| (BitVec.ofNat 64 ((e.s a).toNat * 2 ^ lo) &&& m))
  | .addi _ d imm => some (.s d, BitVec.ofInt 64 ((e.ctx.s.get d).toInt + imm.toInt))
  | .andi _ d imm => some (.s d, e.ctx.s.get d &&& BitVec.ofInt 64 imm.toInt)
  | .ori _ d imm => some (.s d, e.ctx.s.get d ||| BitVec.ofInt 64 imm.toInt)
  | .xori _ d imm => some (.s d, e.ctx.s.get d ^^^ BitVec.ofInt 64 imm.toInt)
  | .shli _ d n => some (.s d, BitVec.ofNat 64 ((e.ctx.s.get d).toNat * 2 ^ n.val))
  | .shri _ d n => some (.s d, BitVec.ofNat 64 ((e.ctx.s.get d).toNat / 2 ^ n.val))
  | .sari _ d n => some (.s d, BitVec.ofInt 64 ((e.ctx.s.get d).toInt / 2 ^ n.val))
  | .movi _ d imm => some (.s d, BitVec.ofInt 64 imm.toInt)
  | .movhi _ d imm => some (.s d, BitVec.ofNat 64 ((e.ctx.s.get d).toNat * 2 ^ 13 + imm.toNat))
  | .wfld _ d f => some (d, e.region.workField e.ctx.leaf f)
  | .vextr _ d a n => some (d, BitVec.ofNat 64 ((e.v a).lane n.val).toNat)
  | .kmovFromMask _ d k => some (d, BitVec.ofNat 64 (e.ctx.k.get k).toNat)
  | .hweak _ d a => some (d, e.s a &&& ~~~ BitVec.ofNat 64 (2 ^ 56))
  | _ => none

/-- The fields of format T in their places, or those of format U with FN = 2 * b + x (R77). -/
def fieldsT (t : Trig) (opc d a b x : Nat) : Nat := t.enc * 2 ^ 26 + opc * 2 ^ 19 + d * 2 ^ 13 + a * 2 ^ 7 + b * 2 + x

/-- The fields of format I in their places (R77). -/
def fieldsI (t : Trig) (opc d imm : Nat) : Nat := t.enc * 2 ^ 26 + opc * 2 ^ 19 + d * 2 ^ 13 + imm

/-- The words of the scalar arithmetic of R294, R299, R306, R326, R340, R355, R363, R366, R375 and R404. -/
def scalarWord (i : Instr) : Option Nat :=
  match i with
  | .add t d a b => some (fieldsT t 0x08 d.enc a.enc b.enc 0)
  | .sub t d a b => some (fieldsT t 0x0A d.enc a.enc b.enc 0)
  | .mul t d a b => some (fieldsT t 0x0B d.enc a.enc b.enc 0)
  | .mulh t d a b => some (fieldsT t 0x0C d.enc a.enc b.enc 0)
  | .mulhu t d a b => some (fieldsT t 0x0D d.enc a.enc b.enc 0)
  | .div t d a b => some (fieldsT t 0x0E d.enc a.enc b.enc 0)
  | .divu t d a b => some (fieldsT t 0x0F d.enc a.enc b.enc 0)
  | .rem t d a b => some (fieldsT t 0x10 d.enc a.enc b.enc 0)
  | .remu t d a b => some (fieldsT t 0x11 d.enc a.enc b.enc 0)
  | .and t d a b => some (fieldsT t 0x12 d.enc a.enc b.enc 0)
  | .shl t d a b => some (fieldsT t 0x18 d.enc a.enc b.enc 0)
  | .shr t d a b => some (fieldsT t 0x1A d.enc a.enc b.enc 0)
  | .sar t d a b => some (fieldsT t 0x1C d.enc a.enc b.enc 0)
  | .min t d a b => some (fieldsT t 0x1E d.enc a.enc b.enc 0)
  | .minu t d a b => some (fieldsT t 0x1F d.enc a.enc b.enc 0)
  | .max t d a b => some (fieldsT t 0x20 d.enc a.enc b.enc 0)
  | .maxu t d a b => some (fieldsT t 0x21 d.enc a.enc b.enc 0)
  | .xor t d a b => some (fieldsT t 0x16 d.enc a.enc b.enc 0)
  | .addi t d imm => some (fieldsI t 0x09 (32 + d.val) imm.toNat)
  | .andi t d imm => some (fieldsI t 0x13 (32 + d.val) imm.toNat)
  | .xori t d imm => some (fieldsI t 0x17 (32 + d.val) imm.toNat)
  | .shli t d n => some (fieldsI t 0x19 (32 + d.val) n.val)
  | .shri t d n => some (fieldsI t 0x1B (32 + d.val) n.val)
  | .sari t d n => some (fieldsI t 0x1D (32 + d.val) n.val)
  | .clz t d a => some (fieldsT t 0x22 d.enc a.enc 0 0)
  | .popc t d a => some (fieldsT t 0x22 d.enc a.enc 0 1)
  | _ => none

/-! ## Predicates and lane masks -/

/-- The conditions of R94 and R300, on the numbers that two patterns of one width stand for. -/
def condTrue {w : Nat} (c : Cond) (a b : BitVec w) : Bool :=
  match c with
  | .eq => decide (a.toNat = b.toNat)
  | .ne => decide (a.toNat ≠ b.toNat)
  | .lt => decide (a.toInt < b.toInt)
  | .ltu => decide (a.toNat < b.toNat)
  | .le => decide (a.toInt ≤ b.toInt)
  | .leu => decide (a.toNat ≤ b.toNat)

/-- The operations of PLOG and KLOG, on one bit of each operand (R94). -/
def logTrue (f : LogOp) (a b : Bool) : Bool :=
  match f with
  | .and => a && b
  | .or => a || b
  | .xor => xor a b
  | .andn => a && !b
  | .orn => a || !b
  | .mov => a

/-- The predicate that CMP, CMPI or PLOG writes, and its value (R300, R352). -/
def predResult (e : Env) (i : Instr) : Option (Fin 8 × Bool) :=
  match i with
  | .cmp _ pd pol a b c => some (pd, xor (condTrue c (e.s a) (e.s b)) pol)
  | .cmpi _ pd pol a imm c => some (pd, xor (condTrue c (e.s a) (BitVec.ofInt 64 imm.toInt)) pol)
  | .plog _ pd pol a b f => some (pd, xor (logTrue f (e.ctx.p.getLsbD a.val) (e.ctx.p.getLsbD b.val)) pol)
  | _ => none

/-- The lane mask that VCMP, VICMP, KLOG or KMOV writes, its bits, and the flags (R319, R320, R387): a float comparison sets NV for a
non-canonical operand of any lane. -/
def maskResult (e : Env) (i : Instr) : Option (Fin 4 × (Nat → Bool) × Flags) :=
  match i with
  | .vcmp _ kd pol a b c =>
    some (kd, fun n => xor (fCmp c ((e.v a).lane n) ((e.v b).lane n)).1 pol,
      Flags.when ((List.range 16).any (fun n => nonCanonical ((e.v a).lane n) || nonCanonical ((e.v b).lane n))) NV)
  | .vicmp _ kd pol a b c => some (kd, fun n => xor (condTrue c ((e.v a).lane n) ((e.v b).lane n)) pol, 0)
  | .klog _ kd pol a b f => some (kd, fun n => xor (logTrue f ((e.ctx.k.get a).getLsbD n) ((e.ctx.k.get b).getLsbD n)) pol, 0)
  | .kmovToMask _ k a => some (k, fun n => (e.s a).getLsbD n, 0)
  | _ => none

/-! ## Vector results -/

/-- An integer result of a lane, without flags. -/
def lane40 (n : Int) : Lane × Flags := (BitVec.ofInt 40 n, 0)

/-- Where a vector instruction writes its sixteen lanes, and each lane with the flags it sets (R273 to R276, R384 to R389, R394, R396 to R400):
float lanes by the W40 operations of R99 to R111, integer lanes as 40-bit two's-complement numbers. -/
def vectorResult (e : Env) (i : Instr) : Option (VDst × (Nat → Lane × Flags)) :=
  let a2 (d : VDst) (a b : VSrc) (f : Lane → Lane → Lane × Flags) : Option (VDst × (Nat → Lane × Flags)) :=
    some (d, fun n => f ((e.v a).lane n) ((e.v b).lane n))
  let a1 (d : VDst) (a : VSrc) (f : Lane → Lane × Flags) : Option (VDst × (Nat → Lane × Flags)) := some (d, fun n => f ((e.v a).lane n))
  match i with
  | .vadd _ d a b => a2 d a b fAdd
  | .vsub _ d a b => a2 d a b fSub
  | .vmul _ d a b => a2 d a b fMul
  | .vscale _ d a b => a2 d a b fScale
  | .vmin _ d a b => a2 d a b fMin
  | .vmax _ d a b => a2 d a b fMax
  | .vfma _ d a b => some (.v d, fun n => fFma ((e.v a).lane n) ((e.v b).lane n) ((e.ctx.v.get d).lane n))
  | .vfms _ d a b => some (.v d, fun n => fFms ((e.v a).lane n) ((e.v b).lane n) ((e.ctx.v.get d).lane n))
  | .vfnma _ d a b => some (.v d, fun n => fFnma ((e.v a).lane n) ((e.v b).lane n) ((e.ctx.v.get d).lane n))
  | .vabs _ d a => a1 d a (fun x => (BitVec.ofNat 40 (x.toNat % 2 ^ 39), 0))
  | .vneg _ d a => a1 d a (fun x => (x ^^^ BitVec.ofNat 40 (2 ^ 39), 0))
  | .vmov _ d a => a1 d a (fun x => (x, 0))
  | .vbcast _ d a => some (d, fun _ => (BitVec.ofNat 40 (e.s a).toNat, 0))
  | .vrcps _ d a => a1 d a fRcps
  | .vrsqs _ d a => a1 d a fRsqs
  | .vexp2s _ d a => a1 d a fExp2s
  | .vlog2s _ d a => a1 d a fLog2s
  | .vrnd _ d a m => a1 d a (fRnd m)
  | .vcvti _ d a m => a1 d a (fCvti m)
  | .vcvtf _ d a m => a1 d a (fCvtf m)
  | .vsrnd _ d a p => some (d, fun n => fSrnd p (drawVsrnd e.region.hdr.seed (e.elem.counts.get e.site.slot) (BitVec.ofNat 6 e.rel.1)
      (BitVec.ofNat 5 e.rel.2) (BitVec.ofNat 2 e.site.ctx.val) (BitVec.ofNat 5 e.site.slot.val) (BitVec.ofNat 4 n)) ((e.v a).lane n))
  | .viadd _ d a b => a2 d a b (fun x y => lane40 (x.toInt + y.toInt))
  | .visub _ d a b => a2 d a b (fun x y => lane40 (x.toInt - y.toInt))
  | .vimul _ d a b => a2 d a b (fun x y => lane40 (x.toInt * y.toInt))
  | .vimin _ d a b => a2 d a b (fun x y => lane40 (min x.toInt y.toInt))
  | .vimax _ d a b => a2 d a b (fun x y => lane40 (max x.toInt y.toInt))
  | .vand _ d a b => a2 d a b (fun x y => (x &&& y, 0))
  | .vor _ d a b => a2 d a b (fun x y => (x ||| y, 0))
  | .vxor _ d a b => a2 d a b (fun x y => (x ^^^ y, 0))
  | .vshl _ d a b => a2 d a b (fun x y => (BitVec.ofNat 40 (x.toNat * 2 ^ (y.toNat % 64)), 0))
  | .vshr _ d a b => a2 d a b (fun x y => (BitVec.ofNat 40 (x.toNat / 2 ^ (y.toNat % 64)), 0))
  | .vsar _ d a b => a2 d a b (fun x y => lane40 (x.toInt / 2 ^ (y.toNat % 64)))
  | .vperm _ d a b => some (d, fun n => ((e.v a).lane (((e.v b).lane n).toNat % 16), 0))
  | .vrot _ d a dn k => some (d, fun n => ((e.v a).lane (if dn then n + k.val else n + 16 - k.val), 0))
  | .vscan _ d a o => some (d, fun n => reduce o (e.v a) n)
  | .vsel _ d a m => some (.v d, fun n => (if (e.ctx.k.get m).getLsbD n then (e.v a).lane n else (e.ctx.v.get d).lane n, 0))
  | .vcprs _ d a m => some (d, fun n => ((((List.range 16).filter (fun k => (e.ctx.k.get m).getLsbD k))[n]?.map (e.v a).lane).getD 0, 0))
  | .vxpnd _ d a m => some (d, fun n => (if (e.ctx.k.get m).getLsbD n
      then (e.v a).lane ((List.range n).filter (fun k => (e.ctx.k.get m).getLsbD k)).length else 0, 0))
  | _ => none

/-- What a reduction gives: the destination, the lane and the flags (R395). -/
def reductionResult (e : Env) (i : Instr) : Option (ADst × Lane × Flags) :=
  match i with
  | .vreda _ d a => some (d, reduce .add (e.v a) 15)
  | .vredmMax _ d a => some (d, reduce .max (e.v a) 15)
  | .vredmMin _ d a => some (d, reduce .min (e.v a) 15)
  | _ => none

/-- The context with a reduction's lane written: a scalar register takes it in bits [39:0], a vector register in every lane (R395). -/
def reductionCtx (d : ADst) (x : Lane) (c : Ctx) : Ctx :=
  match d with
  | .s n => { c with s := c.s.set n.val (x.setWidth 64) n.isLt }
  | .v n => { c with v := c.v.set n.val (Vec.all x) n.isLt }
  | .o _ | .oe _ => { c with mark := false }
  | .nul => c

/-- The payload of a reduction for a port, in the kind that the port is declared with (R22, R395). -/
def reductionPay (e : Env) (d : ADst) (x : Lane) : Payload :=
  match d with
  | .o q | .oe q => if e.tile.opKind.getLsbD q.val then .v (Vec.all x) else .s (x.setWidth 64)
  | .s _ | .v _ | .nul => .s (x.setWidth 64)

/-! ## The system cell -/

/-- A system register as R361 lays it out. -/
def systemRegister (s : State) (e : Env) (r : SysReg) : Word :=
  let t := s.task? e.region.task
  match r with
  | .region => BitVec.ofNat 64 (e.region.num % 4096) ||| (BitVec.ofNat 64 e.region.ver.toNat <<< 12)
  | .cycle => BitVec.ofNat 64 s.cycle
  | .self => BitVec.ofNat 64 ((tileX e.site.tile - e.region.x0) % 64) ||| (BitVec.ofNat 64 ((tileY e.site.tile - e.region.y0) % 32) <<< 6)
      ||| (BitVec.ofNat 64 e.site.ctx.val <<< 11) ||| (BitVec.ofNat 64 e.elem.follows.toNat <<< 13)
  | .seed => e.region.hdr.seed
  | .flags => BitVec.ofNat 64 e.region.flags.toNat
  | .tstamp => (t.map Task.ts).getD e.region.hdr.ts
  | .task => BitVec.ofNat 64 (((t.map Task.ordered).getD e.region.hdr.ordered).toNat + 2 * ((t.map Task.irrev).getD false).toNat)
  | .frec n => (e.region.frec.get n).getD 0

/-- Reading a fault record entry frees it (R210, R362). -/
def freesEntry (r : SysReg) (g : Region) : Region :=
  match r with
  | .frec n => { g with frec := g.frec.set n.val none n.isLt }
  | .region | .cycle | .self | .seed | .flags | .tstamp | .task => g

/-- What SEL does to its context: the destination keeps its value unless the predicate, XORed with POL, is 1 (R367). -/
def selCtx (e : Env) (o : SelOp) (take : Bool) (c : Ctx) : Ctx :=
  if take then
    match o with
    | .s d a => { c with s := c.s.set d.val (e.s a) d.isLt }
    | .v d a => { c with v := c.v.set d.val (e.v a) d.isLt }
  else c

/-- The effect of an instruction of the system cell, of RDSR, WRSR or SEL (R312, R341, R360 to R362, R367, R381, R402). -/
def systemEffect (s : State) (e : Env) (i : Instr) : Option Effect :=
  match i with
  | .nop _ => some { bare := s }
  | .halt _ => some { ctx := fun c => { c with st := .halted }, bare := s }
  | .tmark _ => some { ctx := fun c => { c with mark := true }, bare := s }
  | .rdsr _ d r => some { ctx := d.ctx (systemRegister s e r), sent := e.sent s.cycle d.any (.s (systemRegister s e r)), region := freesEntry r, bare := s }
  | .wrsr _ a => some { region := fun g => { g with clrNow := g.clrNow ||| BitVec.ofNat 4 (e.s a).toNat }, bare := s }
  | .sel _ o pol n => some { ctx := selCtx e o (xor (e.ctx.p.getLsbD n.val) pol), bare := s }
  | .tset _ a => some { region := fun g => { g with proposals := g.proposals ++ [e.s a] }, bare := s }
  | .tcommit _ _ => some { ctx := fun c => { c with held := true }, bare := s }
  | _ => none

end Sys2Proof.Claims

open Sys2Proof Sys2Proof.Machine Sys2Proof.Claims

/-- A ready slot that holds an instruction with one scalar result completes: its destination takes the result, and nothing else of the
machine changes than what `Completed` names. The words of the scalar arithmetic decode to it, with every operand. -/
def Obligations.ScalarResultsAreWritten : Prop :=
  (∀ (s s1 : State) (i : Instr) (e : Env) (d : SDst) (w : Word), s.enter i = some (e, s1) → scalarResult e i = some (d, w) →
    ∃ t, exec i s = .next t ∧ Completed s t i e { ctx := d.ctx w, sent := e.sent s.cycle d.any (.s w), bare := s }) ∧
  (∀ i n, scalarWord i = some n → decodeWord (BitVec.ofNat 32 n) = some i) ∧
  [decodeWord 0xE04C7FFF, decodeWord 0xE1143480, decodeWord 0xE1143481, decodeWord 0xE05C51C8, decodeWord 0xE05451C8, decodeWord 0xE10451C8,
    decodeWord 0xE0FC51C8, decodeWord 0xE0E451C8, decodeWord 0xE0CC6004, decodeWord 0xE0B451C8, decodeWord 0xE0BC7FFF]
    = [some (.addi .always 3 (-1)), some (.clz .always (.s 1) (.s 9)), some (.popc .always (.s 1) (.s 9)),
      some (.mul .always (.s 2) (.s 3) (.s 4)), some (.sub .always (.s 2) (.s 3) (.s 4)), some (.max .always (.s 2) (.s 3) (.s 4)),
      some (.minu .always (.s 2) (.s 3) (.s 4)), some (.sar .always (.s 2) (.s 3) (.s 4)), some (.shli .always 3 4),
      some (.xor .always (.s 2) (.s 3) (.s 4)), some (.xori .always 3 (-1))]

/-- A ready CMP, CMPI or PLOG completes: its predicate takes the result. A ready VCMP, VICMP, KLOG or KMOV to a mask completes unless its flags trap: bit L of its mask takes the result of lane L. -/
def Obligations.PredicatesAndMasksAreWritten : Prop :=
  (∀ (s s1 : State) (i : Instr) (e : Env) (p : Fin 8) (b : Bool), s.enter i = some (e, s1) → predResult e i = some (p, b) →
      ∃ t, exec i s = .next t ∧ Completed s t i e { ctx := fun c => { c with p := setPred c.p p b }, bare := s }) ∧
  (∀ (s s1 : State) (i : Instr) (e : Env) (k : Fin 4) (b : Nat → Bool) (f : Flags), s.enter i = some (e, s1) →
      maskResult e i = some (k, b, f) → (sideTrapf e.side && f.traps) = false →
      ∃ t m, exec i s = .next t ∧ (∀ n, n < 16 → BitVec.getLsbD m n = b n) ∧
        Completed s t i e { ctx := fun c => { c with k := c.k.set k.val m k.isLt }, flags := f, bare := s })

/-- A ready vector instruction completes unless its flags trap: lane L of its destination takes the result of lane L, and the region's
flags take the union of what the lanes set. A ready VREDA or VREDM completes unless its flags trap: its destination takes the reduced lane. -/
def Obligations.VectorAndReducedResultsAreWritten : Prop :=
  (∀ (s s1 : State) (i : Instr) (e : Env) (d : VDst) (r : Nat → Lane × Flags), s.enter i = some (e, s1) → vectorResult e i = some (d, r) →
      (sideTrapf e.side && (laneFlags (fun n => (r n).2)).traps) = false →
      ∃ t x, exec i s = .next t ∧ (∀ n, n < 16 → Vec.lane x n = (r n).1) ∧
        Completed s t i e { ctx := d.ctx x, sent := e.sent s.cycle d.any (.v x), flags := laneFlags (fun n => (r n).2), bare := s }) ∧
  (∀ (s s1 : State) (i : Instr) (e : Env) (d : ADst) (x : Lane) (f : Flags), s.enter i = some (e, s1) →
      reductionResult e i = some (d, x, f) → (sideTrapf e.side && f.traps) = false →
      ∃ t, exec i s = .next t ∧
        Completed s t i e { ctx := reductionCtx d x, sent := e.sent s.cycle d (reductionPay e d x), flags := f, bare := s }) ∧
  (∀ t d a b, decodeWord (BitVec.ofNat 32 (fieldsT t 0x45 d.enc (VSrc.enc a) (VSrc.enc b) 0)) = some (.vperm t d a b)) ∧
  (∀ t d a (dn : Bool) (n : Fin 16), decodeWord (BitVec.ofNat 32 (fieldsT t 0x46 d.enc (VSrc.enc a) 0 (16 * dn.toNat + n.val))) = some (.vrot t d a dn n)) ∧
  decodeWord 0xE2282106 = some (.vperm .always (.v 1) (.v 2) (.v 3)) ∧ decodeWord 0xE2302103 = some (.vrot .always (.v 1) (.v 2) false 3) ∧
    decodeWord 0xE2302113 = some (.vrot .always (.v 1) (.v 2) true 3)

/-- A ready NOP, HALT, TMARK, RDSR, WRSR, SEL, TSET or TCOMMIT completes with its effect. -/
def Obligations.SystemCellCompletes : Prop :=
  ∀ (s s1 : State) (i : Instr) (e : Env) (x : Effect), s.enter i = some (e, s1) → systemEffect s e i = some x →
    ∃ t, exec i s = .next t ∧ Completed s t i e x


namespace Sys2Proof.Claims
open Sys2Proof.Machine

/-! ## The matrix unit -/

/-- The conditions on a panel record of R331, word 0 in its low half. -/
def panelFits (s : State) (e : Env) (p : BitVec 128) : Prop :=
  (1 ≤ p.toNat % 2 ^ 12 ∧ p.toNat % 2 ^ 12 ≤ 2048) ∧ p.toNat / 2 ^ 12 % 2 ^ 13 + p.toNat % 2 ^ 12 ≤ 8192
    ∧ p.toNat / 2 ^ 25 % 2 ^ 4 ∈ [0, 2, 3, 4, 5, 6]
    ∧ p.toNat / 2 ^ 54 % 2 ^ 6 + (s.leaderOf 16 e.site.tile).2 < p.toNat / 2 ^ 48 % 2 ^ 6 + 1
    ∧ (p.toNat / 2 ^ 29 % 2 ^ 3 = 0 ∧ p.toNat / 2 ^ 60 % 2 ^ 4 = 0 ∧ p.toNat / 2 ^ 126 = 0)
    ∧ ∃ m, s.mem? (homeTile e.site.tile) = some m ∧ m.ctrl.toNat % 8 = 3

/-- What an instruction that sets the matrix unit up does to it, and how many cycles after the firing its `due` is at the least: MCFG with a
record that fits, MLDB with a valid row pair in a B format that the latch takes, MGATH and MZERO with a panel; MGATH takes `ids` names, one, for its reads
(R331 to R333, R337). -/
def matrixSetup (s : State) (e : Env) (i : Instr) (ok : Prop) (least ids : Nat) (f : Nat → Matrix → Matrix) : Prop :=
  match i with
  | .mcfg _ n =>
    ok = panelFits s e ((e.pair n).2 ++ (e.pair n).1) ∧ least = 0 ∧ ids = 0
      ∧ f = fun _ m => { m with panel := some ((e.pair n).2 ++ (e.pair n).1), rp := 0, dp := 0 }
  | .mldb _ q => ∃ fmt row, rowPair (e.tile.iq.get q) = some (fmt, row) ∧ fmt ∈ [2, 3, 4, 5, 6, 9] ∧ least = 0 ∧ ids = 0
      ∧ ok = (e.elem.mat.bc = 16 ∨ e.elem.mat.bfmt = none ∨ e.elem.mat.bfmt = some fmt)
      ∧ f = fun _ m =>
        if m.bc = 16 then { m with latch := Vector.upd (n := 15) (hex 0) 0 row, bc := 1, bfmt := some fmt }
        else { m with latch := Vector.upd (n := 15) m.latch m.bc row, bc := m.bc + 1, bfmt := some fmt }
  | .mgath _ a => ∃ p, e.elem.mat.panel = some p ∧ least = 2 ∧ ids = 1
      ∧ ok = (pGfmt p ≠ 0 ∧ gatherFault e.region e.ctx.leaf (gatherSize (pGfmt p)) (e.v a) = none)
      ∧ f = fun due m => { m with
        gr := 0, garrived := 0, gfmt := pGfmt p, gheld := none, gdue := due, gfired := s.cycle, gctx := e.site.ctx, gid := s.nextId
        gaddr := (List.range 16).map (fun n => ((e.v a).lane n).toNat) }
  | .mzero _ => ∃ p, e.elem.mat.panel = some p ∧ ok = True ∧ least = 1 ∧ ids = 0
      ∧ f = fun due m => { m with zb := true, zdue := due, zdone := 0, rp := 0, dp := 0 }
  | _ => False

/-- The result of a row against the latch, and its flags: in lane n the exact sum of the products of the row and column n, rounded once (R110,
R334). -/
def rowResult (e : Env) (fmt k : Nat) (row : BitVec 1280) (n : Nat) : Lane × Flags :=
  rowDot fmt (e.elem.mat.bfmt.getD 0) row (Vector.at (n := 15) e.elem.mat.latch n) k

/-- The row that MROW multiplies: the pair at the head of its queue, or gather-latch row GR. -/
def rowOf (e : Env) (i : Instr) : Option (Fin 4 × Nat × BitVec 1280) :=
  match i with
  | .mrow _ o q => (rowPair (e.tile.iq.get q)).map (fun x => (o, x))
  | .mrowG _ o => some (o, e.elem.mat.gfmt, Vector.at (n := 15) e.elem.mat.gather e.elem.mat.gr)
  | _ => none

/-- A port takes a reserved slot and the matrix unit a result that fills it: the token that the firing sends, entering in `delay` cycles
(R334, R336). -/
def reserved (s : State) (e : Env) (o : Fin 4) (x : Vec) (side : SideBand) (delay : Nat) (isRow : Bool) (f : Matrix → Matrix)
    (sram : SMap Byte) (fl : Flags) : Effect where
  ctx := fun c => { c with mark := false }
  sent := fun q => if q = o then [.reserved s.nextId] else []
  parts := fun p =>
    { p with mat := f { p.mat with outs := p.mat.outs ++ [⟨s.nextId, o, e.token s.cycle 0 (.v x) side, s.cycle + delay, isRow, false⟩] } }
  flags := fl
  bare := { s with nextId := s.nextId + 1, sram := sram }

/-- The port, the residual and the dropout of an MDRAIN (R336). -/
def drainForm (e : Env) (i : Instr) : Option (Fin 4 × Option Vec × Bool) :=
  match i with
  | .mdrain _ o drop => some (o, none, drop)
  | .mdrainR _ o _ q drop => some (o, some (e.head q).vec, drop)
  | _ => none

/-- Lane n of an MDRAIN with its flags: the accumulator as W40, the dropout mask, the residual (R336). -/
def drainResult (s : State) (e : Env) (p : BitVec 128) (res : Option Vec) (drop : Bool) (n : Nat) : Lane × Flags :=
  drainLane (s.cElem (homeTile e.site.tile) (pCbase p + e.elem.mat.dp) n)
    (if drop then some (drawDropout e.region.hdr.seed (BitVec.ofNat 31 (pTrow p + e.elem.mat.dp))
      (BitVec.ofNat 31 (pTcol p + 16 * (pSlice0 p + (s.leaderOf 16 e.site.tile).2) + n)), pKeep p) else none)
    (res.map (fun v => v.lane n))

end Sys2Proof.Claims

/-- A ready MCFG, MLDB, MGATH or MZERO that meets its conditions completes: the matrix unit takes what the rules say. -/
def Obligations.MatrixUnitIsSetUp : Prop :=
  ∀ (s s1 : State) (i : Instr) (e : Env) (ok : Prop) (least ids : Nat) (f : Nat → Matrix → Matrix), s.enter i = some (e, s1) →
    matrixSetup s e i ok least ids f → ok →
    ∃ t due n, exec i s = .next t ∧ s.cycle + least ≤ due ∧
      Completed s t i e { parts := fun p => { p with mat := f due p.mat }, bare := { s with freeCtr := n, nextId := s.nextId + ids } }

/-- MCFG with a record that does not fit faults with FormatMismatch: PANEL and everything else of the element stay (R331). (A region that has stopped takes no
further fault, R212: so the premise.) -/
def Obligations.PanelsThatDoNotFitFault : Prop :=
  ∀ (s s1 : State) (t : Trig) (n : Fin 8) (e : Env) (k pt : Nat) (pq : Fin 4), s.enter (.mcfg t n) = some (e, s1) →
    ¬ panelFits s e ((e.pair n).2 ++ (e.pair n).1) → e.region.ended = false → e.region.freeRec = some k → e.region.faultPort e.ctx.leaf = some (pt, pq) →
    ∃ u, exec (.mcfg t n) s = .next u ∧ Faulted s u e ⟨2, 0, 0⟩ k pt pq

/-- A ready MROW whose row, latch and panel are as R334 asks completes unless its flags trap: the accumulate token for row CBASE + RP is on its
way to its port, and RP, OUT and GR move on. -/
def Obligations.MatrixRowsAreMultiplied : Prop :=
  ∀ (s s1 : State) (i : Instr) (e : Env) (o : Fin 4) (fmt k b : Nat) (row : BitVec 1280) (p : BitVec 128),
    s.enter i = some (e, s1) → rowOf e i = some (o, fmt, row) → e.elem.mat.panel = some p → e.elem.mat.bfmt = some b → 0 < e.elem.mat.bc →
    (fmt, k) ∈ [(4, 128), (5, 128), (2, 64), (3, 64), (6, 256)] →
    (fmt, b) ∈ [(4, 4), (4, 5), (4, 9), (5, 4), (5, 5), (5, 9), (2, 2), (3, 3), (6, 6)] →
    (sideTrapf e.side && (laneFlags (fun n => (rowResult e fmt k row n).2)).traps) = false →
    ∃ t x, exec i s = .next t ∧ (∀ n, n < 16 → Vec.lane x n = (rowResult e fmt k row n).1) ∧
      Completed s t i e (reserved s e o x (.acc (p.toNat / 2 ^ 12 % 2 ^ 13 + e.elem.mat.rp) e.site.tile) 40 true
        (fun m => { m with rp := (m.rp + 1) % (p.toNat % 2 ^ 12), out := m.out + 1, gr := (match i with | .mrowG _ _ => m.gr + 1 | _ => m.gr) })
        s.sram (laneFlags (fun n => (rowResult e fmt k row n).2)))

/-- A ready MDRAIN with a panel completes unless its flags trap: the row's token is on its way to its port, the row reads +0, DP moves on. -/
def Obligations.MatrixRowsAreDrained : Prop :=
  ∀ (s s1 : State) (i : Instr) (e : Env) (o : Fin 4) (res : Option Vec) (drop : Bool) (p : BitVec 128), s.enter i = some (e, s1) →
    drainForm e i = some (o, res, drop) → e.elem.mat.panel = some p →
    (sideTrapf e.side && (laneFlags (fun n => (drainResult s e p res drop n).2)).traps) = false →
    ∃ t x, exec i s = .next t ∧ (∀ n, n < 16 → Vec.lane x n = (drainResult s e p res drop n).1) ∧
      Completed s t i e (reserved s e o x .none 8 false (fun m => { m with dp := (m.dp + 1) % (p.toNat % 2 ^ 12) })
        (writeBytes s.sram (sramKey (homeTile e.site.tile) (64 * (p.toNat / 2 ^ 12 % 2 ^ 13 + e.elem.mat.dp))) (List.replicate 64 0))
        (laneFlags (fun n => (drainResult s e p res drop n).2)))

namespace Sys2Proof.Claims
open Sys2Proof.Machine

/-! ## Requests (R156) -/

/-- The request of a firing as its unit finds it: who sent it, for which queue and predicate, its operands, its arcs. -/
def sentRequest (s : State) (e : Env) (i : Instr) (x y z : Word) (pay : Payload) (rel : Option (List Rng)) (due : Nat) : Req := {
  id := s.nextId, tile := e.site.tile, ctx := e.site.ctx, slot := e.site.slot, region := e.ctx.region, leaf := e.ctx.leaf,
  task := e.region.task, q := i.shape.reply, pred := i.shape.pred, op := i, x := x, y := y, z := z, pay := pay, arcs := e.arcs,
  rel := rel, due := due, st := .sent }

/-- The memory tile that a local address names for an access of `size` bytes aligned to `align`, if the checks of R124 pass: the tile is a
memory tile of the fragment instance, the reserved bits are zero, the offset is aligned and the access ends within the tile. -/
def localTarget (e : Env) (a : Word) (size align : Nat) : Option Nat :=
  match e.region.localTile e.ctx.leaf a.toNat with
  | none => none
  | some t =>
    if a.toNat / 2 ^ 30 % 2 ^ 34 = 0 ∧ a.toNat % 2 ^ 19 % align = 0 ∧ a.toNat % 2 ^ 19 + size ≤ 2 ^ 19 then some t else none

/-- The bytes of an access by the kind of its queue: 8, or 80 for a vector queue (R323). -/
def kindSize (e : Env) (q : Fin 4) : Nat := if e.tile.iqKind.getLsbD q.val then 80 else 8

/-- The alignment of an access of so many bytes: 16 for 80 bytes, else 8 (R124). -/
def sizeAlign (n : Nat) : Nat := if n = 80 then 16 else 8

/-- A request to a memory tile whose checks at the firing pass: the tile that it goes to first, and its operands x, y and payload (R124,
R180, R224, R303, R310, R318, R323, R359, R368 to R370, R373). -/
def tileRequest (e : Env) (i : Instr) : Option (Nat × Word × Word × Payload) :=
  let obj (n : Fin 8) (size limit : Nat) : Option (Nat × Word × Word × Payload) :=
    if (e.pair n).2.toNat ≤ limit then (localTarget e (e.pair n).1 size 256).map (fun t => (t, (e.pair n).1, (e.pair n).2, .s 0)) else none
  let feop (n : Fin 8) : Option (Nat × Word × Word × Payload) :=
    if 1 ≤ (e.pair n).2.toNat ∧ (e.pair n).2.toNat ≤ 32768 then
      (localTarget e (e.pair n).1 (16 * (e.pair n).2.toNat) 16).map (fun t => (t, (e.pair n).1, (e.pair n).2, .s 0))
    else none
  let lds (q : Fin 4) (a : SSrc) : Option (Nat × Word × Word × Payload) :=
    (localTarget e (e.s a) (kindSize e q) (sizeAlign (kindSize e q))).map (fun t => (t, e.s a, 0, .s 0))
  match i with
  | .ldsN _ q a => lds q a
  | .ldsW _ q a => lds q a
  | .ldsWc _ q a => lds q a
  | .sts _ _ a b => (localTarget e (e.s a) (e.a b).bytes.length (sizeAlign (e.a b).bytes.length)).map (fun t => (t, e.s a, 0, e.a b))
  | .feopClr _ _ n => feop n
  | .feopSet _ _ n => feop n
  | .sinitQs _ _ n => obj n 4096 (2 ^ 64 - 1)
  | .sinitHh _ _ n => obj n 4096 (2 ^ 64 - 1)
  | .sinitDc _ _ n => obj n 4096 (2 ^ 64 - 1)
  | .qread _ _ n => obj n 4096 (2 ^ 64 - 1)
  | .qrank _ _ n => obj n 4096 (2 ^ 64 - 1)
  | .hhget _ _ n => obj n 4096 255
  | .dcest _ _ n => obj n 4096 (2 ^ 64 - 1)
  | .tkinit _ _ n => obj n 4672 (2 ^ 64 - 1)
  | .tkout _ _ n => obj n 4672 255
  | .smerge _ _ a b => (localTarget e (e.s a) 4096 256).bind (fun _ => (localTarget e (e.s b) 4096 256).map (fun t => (t, e.s a, e.s b, .s 0)))
  | _ => none

/-- The pairs that an atomic leaves at its home, by its use and order (R175, R309). -/
def atomicRel (e : Env) (i : Instr) : Option (List Rng) := (atOrd i).bind (releasePairs e)

/-- A request to a port, an atomic home, a home port, the Solder unit or the range unit: its operands, payload and release pairs, the cycles that
it takes at least, and whether exactly (R41, R53, R150 to R156, R288, R315, R321, R325, R344 to R351, R364, R371). -/
def farRequest (e : Env) (i : Instr) : Option (Word × Word × Word × Payload × Option (List Rng) × Nat × Bool) :=
  let atomic (n : Fin 8) : Option (Word × Word × Word × Payload × Option (List Rng) × Nat × Bool) :=
    some ((e.pair n).1, (e.pair n).2, e.sreg (2 * n.val + 2), .s 0, atomicRel e i, 12, false)
  let home (x y : Word) : Option (Word × Word × Word × Payload × Option (List Rng) × Nat × Bool) := some (x, y, 0, .s 0, none, 12, true)
  let plan (x y z : Word) : Option (Word × Word × Word × Payload × Option (List Rng) × Nat × Bool) := some (x, y, z, .s 0, none, 1, false)
  match i with
  | .ldg _ _ a => some (e.s a, 0, 0, .s 0, none, 12, false)
  | .stg _ _ a b => some (e.s a, 0, 0, e.a b, none, 12, false)
  | .aadd _ _ n _ => atomic n
  | .afadd _ _ n _ => atomic n
  | .amin _ _ n _ => atomic n
  | .amax _ _ n _ => atomic n
  | .aand _ _ n _ => atomic n
  | .aor _ _ n _ => atomic n
  | .axor _ _ n _ => atomic n
  | .aswp _ _ n _ => atomic n
  | .acas _ _ n _ => atomic n
  | .hnew _ _ a b _ => home (e.s a) (e.s b)
  | .hdup _ _ a => home (e.s a) 0
  | .hrel _ _ a => home (e.s a) 0
  | .hupg _ _ a _ => home (e.s a) 0
  | .hinfo _ _ a => home (e.s a) 0
  | .hprio _ _ a _ => home (e.s a) 0
  | .ldw _ _ n _ => home (e.pair n).1 (e.pair n).2
  | .pfrag _ _ a => plan (e.s a) 0 0
  | .pseq _ _ a b => plan (e.s a) (e.s b) 0
  | .povl _ _ a b => plan (e.s a) (e.s b) 0
  | .ppipe _ _ n b => plan (e.pair n).1 (e.s b) (e.pair n).2
  | .pnest _ _ n b => plan (e.pair n).1 (e.s b) (e.pair n).2
  | .prep _ _ a b => plan (e.s a) (e.s a) (e.s b)
  | .piface _ _ n => plan (e.pair n).1 (e.pair n).2 0
  | .pcost _ _ a => plan (e.s a) 0 0
  | .plaunch _ _ a b => plan (e.s a) (e.s b) 0
  | .plaunchC _ _ a b => plan (e.s a) (e.s b) 0
  | .pfree _ _ a => plan (e.s a) 0 0
  | .rnext _ _ _ => plan 0 0 0
  | _ => none

/-- A channel that expects so many tokens more, with the arcs of the posting joined (R403). -/
def expecting (c : Chan) (n : Nat) (arcs : Arcs) : Chan := { c with p := c.p + n, arcs := c.arcs.join arcs }

/-- The payload and the side-band of the token of an insert or of a transfer request (R224, R304, R380, R405). -/
def insertToken (e : Env) (i : Instr) : Option (Fin 4 × BitVec 2 × Vec × SideBand) :=
  match i with
  | .qsins _ o a => some (o, sideTag e.side, e.v a, .ins 0)
  | .hhins _ o a => some (o, sideTag e.side, e.v a, .ins 1)
  | .dcins _ o a => some (o, sideTag e.side, e.v a, .ins 2)
  | .tkins _ o a b => some (o, sideTag e.side,
      Vec.build (fun n => if n = 0 then (e.s a).setWidth 40 else if n = 1 then BitVec.ofNat 40 ((e.s b).toNat % 2 ^ 32) else 0), .none)
  | .xreq _ o a => some (o, 0, e.v a, .xreq e.site.ctx e.site.slot)
  | _ => none

end Sys2Proof.Claims

/-- A ready LDS, STS, FEOP, SINIT, SMERGE, QREAD, QRANK, HHGET, DCEST, TKINIT or TKOUT whose checks pass completes: its request is on its way to its
memory tile, over the transit of R126, and nothing else has changed. -/
def Obligations.TileRequestsAreSent : Prop :=
  ∀ (s s1 : State) (i : Instr) (e : Env) (tile : Nat) (x y : Word) (pay : Payload), s.enter i = some (e, s1) →
    tileRequest e i = some (tile, x, y, pay) →
    ∃ t, exec i s = .next t ∧ Completed s t i e { bare := { s with
      reqs := s.reqs ++ [sentRequest s e i x y 0 pay none (s.cycle + transit e.site.tile tile)], nextId := s.nextId + 1 } }

/-- A ready LDG, STG, atomic, handle or plan instruction, or RNEXT, completes: its request is on its way to its unit, and nothing else has changed. -/
def Obligations.FarRequestsAreSent : Prop :=
  ∀ (s s1 : State) (i : Instr) (e : Env) (x y z : Word) (pay : Payload) (rel : Option (List Rng)) (least : Nat) (exact : Bool),
    s.enter i = some (e, s1) → farRequest e i = some (x, y, z, pay, rel, least, exact) →
    ∃ t due n, exec i s = .next t ∧ s.cycle + least ≤ due ∧ (exact = true → due = s.cycle + least) ∧
      Completed s t i e { bare := { s with reqs := s.reqs ++ [sentRequest s e i x y z pay rel due], nextId := s.nextId + 1, freeCtr := n } }

/-- A ready LDS whose address fails the checks of R124, with a record entry free, completes with a fault token as its reply: ProtectionFault with
cause 1 or 3, the address in the record entry; its context goes on. -/
def Obligations.MisplacedLoadsReplyWithAFault : Prop :=
  ∀ (s s1 : State) (i : Instr) (e : Env) (q : Fin 4) (a : SSrc) (n : Nat), s.enter i = some (e, s1) →
    i ∈ [Instr.ldsN i.shape.trig q a, .ldsW i.shape.trig q a, .ldsWc i.shape.trig q a] →
    localTarget e (e.s a) (kindSize e q) (sizeAlign (kindSize e q)) = none → e.region.freeRec = some n →
    ∃ t r c d due m, exec i s = .next t ∧ (c = 1 ∨ c = 3) ∧
      d = faultWord ⟨5, c, e.s a⟩ (e.region.rel e.ctx.leaf e.site.tile).1 (e.region.rel e.ctx.leaf e.site.tile).2 e.site.ctx.val e.site.slot.val false n ∧
      r = { sentRequest s e i 0 0 0 (.s 0) none due with st := .done ⟨.s d, true, none, {}⟩ } ∧
      Completed s t i e {
        region := fun g => { g with frec := Vector.upd g.frec n (some (e.s a)) },
        bare := { s with reqs := s.reqs ++ [r], nextId := s.nextId + 1, freeCtr := m } }

/-- A ready QSINS, HHINS, DCINS, TKINS or XREQ completes: its token stands in its port. -/
def Obligations.InsertTokensAreSent : Prop :=
  ∀ (s s1 : State) (i : Instr) (e : Env) (o : Fin 4) (tag : BitVec 2) (x : Vec) (side : SideBand), s.enter i = some (e, s1) →
    insertToken e i = some (o, tag, x, side) →
    ∃ t, exec i s = .next t ∧ Completed s t i e {
      ctx := fun c => { c with mark := false },
      sent := fun q => if q = o then [.full (e.token s.cycle tag (.v x) side) none s.cycle] else [],
      bare := s }

/-- A ready XEXP for a channel of its fragment, within the limits of R403, completes: P of the channel grows by the count. -/
def Obligations.ExpectationsArePosted : Prop :=
  ∀ (s s1 : State) (t : Trig) (a : SSrc) (e : Env) (c : Chan), s.enter (.xexp t a) = some (e, s1) →
    e.region.chan? e.ctx.leaf ((e.s a).toNat % 2 ^ 12) = some c → (e.s a).toNat / 2 ^ 36 = 0 → c.p + (e.s a).toNat / 2 ^ 12 % 2 ^ 24 ≤ 16777215 →
    ∃ u, exec (.xexp t a) s = .next u ∧ Completed s u (.xexp t a) e {
      region := fun g =>
        { g with chans := SMap.put g.chans (e.ctx.leaf * 4096 + (e.s a).toNat % 2 ^ 12) (expecting c ((e.s a).toNat / 2 ^ 12 % 2 ^ 24) e.arcs) },
      bare := s }

/-- A ready BAR with a P that is not zero, at a counter that is idle or counts to the same P, completes: it has arrived at the counter of its scope, and
waits there; the arrival that makes the count P opens the barrier, and every arrival of the generation is answered with the generation's number; any other P
is answered with FormatMismatch and leaves the counter (R295, R296). -/
def Obligations.BarrierArrivalsAreCounted : Prop :=
  ∀ (s s1 : State) (t : Trig) (q : Fin 4) (a : SSrc) (sc : BarScope) (e : Env), s.enter (.bar t q a sc) = some (e, s1) →
    let p := (e.s a).toNat % 2 ^ 16
    let n := (e.s a).toNat / 2 ^ 16 % 2 ^ 4
    let c := Vector.at (n := 15) (barsOf s e sc) n
    let b : Bar := if c.count + 1 = p then ⟨0, p, c.g + 1, []⟩ else ⟨c.count + 1, p, c.g, c.waiting ++ [s.nextId]⟩
    (0 < p → c.count = 0 ∨ c.p = p → ∃ u, exec (.bar t q a sc) s = .next u ∧
      (c.count + 1 ≠ p → u.reqs = s.reqs ++ [{ sentRequest s e (.bar t q a sc) (e.s a) 0 0 (.s 0) none s.cycle with st := .waiting }]) ∧
      (c.count + 1 = p → ∀ r ∈ u.reqs, r.id ∈ c.waiting ++ [s.nextId] → ∃ arcs, r.st = .done ⟨.s (BitVec.ofNat 64 c.g.toNat), false, none, arcs⟩) ∧
      (sc = .task → ∀ k, s.task? e.region.task = some k →
        (u.task? e.region.task).map Task.bars = some (Vector.upd (n := 15) k.bars n b)) ∧
      Completed s u (.bar t q a sc) e {
        parts := fun x => if sc = .element then { x with bars := Vector.upd (n := 15) x.bars n b } else x,
        region := fun g => if sc = .region then { g with bars := Vector.upd (n := 15) g.bars n b } else g,
        bare := { s with reqs := u.reqs, nextId := s.nextId + 1, freeCtr := u.freeCtr } }) ∧
    (∀ k, p = 0 ∨ (c.count ≠ 0 ∧ c.p ≠ p) → e.region.freeRec = some k → ∃ u r w due m, exec (.bar t q a sc) s = .next u ∧
      w = faultWord ⟨2, 0, 0⟩ (e.region.rel e.ctx.leaf e.site.tile).1 (e.region.rel e.ctx.leaf e.site.tile).2 e.site.ctx.val e.site.slot.val false k ∧
      r = { sentRequest s e (.bar t q a sc) 0 0 0 (.s 0) none due with st := .done ⟨.s w, true, none, {}⟩ } ∧
      Completed s u (.bar t q a sc) e {
        region := fun g => { g with frec := Vector.upd g.frec k (some 0) },
        bare := { s with reqs := s.reqs ++ [r], nextId := s.nextId + 1, freeCtr := m } })

/-- A ready FENCE completes: its reply comes within 8 cycles. An acquire from other dies pulls what the replies behind its arcs have recorded; a release to
other dies takes the writes that its arcs bring as the context's release set, and one to other packages or the host writes them back; a FENCE that does neither
changes no memory (R173, R175, R307 to R309). -/
def Obligations.FencesAreAnswered : Prop :=
  ∀ (s s1 : State) (t : Trig) (d : RDst) (a : SSrc) (o : SyncOrd) (sc : Scope) (e : Env), s.enter (.fence t d a o sc) = some (e, s1) →
    let wide : Prop := sc ∈ [Scope.package, .domain, .system]
    let out : Prop := sc ∈ [Scope.domain, .system]
    let setRel (c : Ctx) : Ctx := if o ≠ .acq ∧ wide then { c with relSet := some (s.nextId, addRngs 8 [] e.arcs.writes) } else c
    let m1 : State := if o ≠ .rel ∧ wide then s1.pull (tileDie e.site.tile) e.arcs.back else s1
    let m2 : State := m1.modCtx e.site.tile e.site.ctx setRel
    let m : State := if o ≠ .acq ∧ out then m2.releaseOut (tileDie e.site.tile) e.arcs.writes else m2
    ∃ u due, exec (.fence t d a o sc) s = .next u ∧ s.cycle ≤ due ∧ due ≤ s.cycle + 7 ∧
      (let after (p : State) : Effect := {
         ctx := setRel,
         bare := { s with
           reqs := if d = .nul then s.reqs else s.reqs ++ [{ sentRequest s e (.fence t d a o sc) 0 0 0 (.s 0) none due with
             st := .done ⟨.s 0, false, none, Arcs.join { fences := [s.nextId] } e.arcs⟩ }],
           nextId := s.nextId + 1, freeCtr := u.freeCtr, lines := p.lines, packets := p.packets } }
       Fired s u (.fence t d a o sc) e (after m) ∧ ((∀ k ∈ e.dequeued (.fence t d a o sc), k.log = none) → u.hbm = m.hbm) ∧
       (¬ wide ∨ (o = .rel ∧ ¬ out) → Completed s u (.fence t d a o sc) e (after s)))

/-- A ready CRDY for an entry of its region completes: the writes with arcs to it, and what the acquires that it follows have brought, are published, and its
request is on its way to the die's engine; a ready CSLOT completes: its element has asked for a slot of 1 to 2,048 cycles. HBM changes only in lines that such
a write has touched (R230, R231, R232, R301, R302). -/
def Obligations.CollectiveRequestsAreSent : Prop :=
  ∀ (s s1 : State) (t : Trig) (q : Fin 4) (a : SSrc) (e : Env),
    (∀ c, s.enter (.crdy t q a) = some (e, s1) → e.region.coll = some c → (e.s a).toNat % 2 ^ 10 < c.count →
      let m := s1.publish (tileDie e.site.tile) e.arcs
      ∃ u due, exec (.crdy t q a) s = .next u ∧ s.cycle + 3 ≤ due ∧
        Fired s u (.crdy t q a) e { bare := { s with
          reqs := s.reqs ++ [sentRequest s e (.crdy t q a) (BitVec.ofNat 64 (c.die * 1024 + c.base + (e.s a).toNat % 2 ^ 10)) 0 0 (.s 0) none due],
          nextId := s.nextId + 1, freeCtr := u.freeCtr, lines := m.lines, packets := m.packets } } ∧
        ((∀ k ∈ e.dequeued (.crdy t q a), k.log = none) → u.hbm = m.hbm) ∧
        (Memory.wf s.hbm = true → ∀ k, ¬ s.inRing k →
          (∀ r ∈ e.arcs.writes ++ e.arcs.back.map RelPair.rng, ¬(k / 256 * 256 ≤ r.hi ∧ r.lo < k / 256 * 256 + 256)) → u.hbmByte k = s.hbmByte k)) ∧
    (s.enter (.cslot t q a) = some (e, s1) →
      ∃ u, exec (.cslot t q a) s = .next u ∧
        Completed s u (.cslot t q a) e {
          parts := fun p => { p with cslot := some ⟨s.nextId,
            if (e.s a).toNat % 2 ^ 12 = 0 ∨ 2048 < (e.s a).toNat % 2 ^ 12 then 2048 else (e.s a).toNat % 2 ^ 12, false, 0, [], [], []⟩ },
          bare := { s with
            reqs := s.reqs ++ [{ sentRequest s e (.cslot t q a) (e.s a) 0 0 (.s 0) none s.cycle with st := .waiting }],
            nextId := s.nextId + 1 } })

/-- A ready QPUSH to a queue of device programs that is not full completes: the writes with arcs to it are published, the packet stands at KICK, KICK is one
more, the reply holds the old KICK and a clear predicate; to a full queue it changes neither, and replies all ones with a set predicate; the reply takes 40
cycles at least (R356 to R358). -/
def Obligations.QueuePushesAreAtomic : Prop :=
  ∀ (s s1 : State) (t : Trig) (q : Fin 4) (a : VSrc) (m : Fin 8) (e : Env), s.enter (.qpush t q a m) = some (e, s1) →
    vecNat (e.v a) / 2 ^ 512 % 2 ^ 8 = 0 → vecNat (e.v a) / 2 ^ 530 = 0 →
    (s.queue (vecNat (e.v a) / 2 ^ 520 % 2 ^ 10)).cfg.getLsbD 24 = true →
    ∃ u due, exec (.qpush t q a m) s = .next u ∧ s.cycle + 40 ≤ due ∧
      (let n := vecNat (e.v a) / 2 ^ 520 % 2 ^ 10
       let k := s.queue n
       if k.kick.toNat - k.done.toNat < 2 ^ (k.cfg.toNat % 32) then
         (Memory.wf s.hbm = true → (∀ x ∈ e.dequeued (.qpush t q a m), x.log = none) →
            readBytes u.hbm (memKey (domKey (k.base.toNat + 64 * (k.kick.toNat % 2 ^ (k.cfg.toNat % 32))))) 64 = leBytes 64 (vecNat (e.v a) % 2 ^ 512))
         ∧ (u.queue n = { k with kick := k.kick + 1 } ∧ (∀ j, j ≠ n → u.queue j = s.queue j)
          ∧ u.reqs = s.reqs ++ [{ sentRequest s e (.qpush t q a m) 0 0 0 (.s 0) none due with st := .done ⟨.s k.kick, false, some false, e.arcs⟩ }])
       else u.queues = s.queues ∧ (u.lines = (s1.publish (tileDie e.site.tile) e.arcs).lines)
         ∧ u.reqs = s.reqs ++ [{ sentRequest s e (.qpush t q a m) 0 0 0 (.s 0) none due with st := .done ⟨.s (BitVec.allOnes 64), false, some true, e.arcs⟩ }]) ∧
      Fired s u (.qpush t q a m) e { bare := { s with
        reqs := u.reqs, queues := u.queues, nextId := s.nextId + 1, freeCtr := u.freeCtr, lines := u.lines, relRecs := u.relRecs, packets := u.packets } }

namespace Sys2Proof.Claims
open Sys2Proof.Machine

/-! ## What accesses to memory change beside memory -/

/-- `t`'s packets are `s`'s, but that a write may have met the condition of a WAIT (R201). -/
def SamePackets (s t : State) : Prop :=
  t.packets.map (fun p => { p with met := false }) = s.packets.map (fun p => { p with met := false }) ∧ ∀ p ∈ t.packets, p ∈ s.packets ∨ p.met = true

/-- `t` may have noted matches beside those of `s`, and none where no watchpoint is armed (R264, R265). -/
def Noted (s t : State) : Prop := ∃ x, t.watched = s.watched ++ x ∧ (s.Unwatched → x = [])

/-- `t` is `s` but for what accesses to memory change: bytes and lines, release records, the WAITs that a write has met, the matches noted, free values
used. -/
structure Accessed (s t : State) : Prop where
  rest : t = { s with
    hbm := t.hbm, lines := t.lines, relRecs := t.relRecs, packets := t.packets, watched := t.watched, freeCtr := t.freeCtr }
  packets : SamePackets s t
  noted : Noted s t

end Sys2Proof.Claims

/-! ## The host and the device's monitors -/

/-- KICK_WRITE raises KICK to the greater of KICK and the value, not past the ring (OVR) and not for a queue of device programs; QSTAT_WRITE clears what
is written as one, but for PARKED (R196, R197). -/
def Obligations.QueueRegistersTakeHostWrites : Prop :=
  ∀ (s : State) (q : Fin 1024) (v : Word),
    (∃ t, exec (.kickWrite q v) s = .next t ∧ t = { s with queues := t.queues } ∧ (∀ n, n ≠ q.val → t.queue n = s.queue n) ∧
      t.queue q = (let x := s.queue q
        let k := max x.kick.toNat v.toNat
        if x.cfg.getLsbD 24 then x
        else if 2 ^ (x.cfg.toNat % 32) < k - x.done.toNat then { x with ovr := true }
        else { x with kick := BitVec.ofNat 64 k })) ∧
    (∃ t, exec (.qstatWrite q v) s = .next t ∧ t = { s with queues := t.queues } ∧ (∀ n, n ≠ q.val → t.queue n = s.queue n) ∧
      t.queue q = (let x := s.queue q
        { x with faulted := x.faulted && !v.getLsbD 0, ovr := x.ovr && !v.getLsbD 1, held := x.held && !v.getLsbD 2 }))

/-- REGISTER_WRITE: each register of R75, R193, R196, R259 and R347 takes what a write may change, its reserved and read-only bits staying; FLUSH, GO, AMCMD and
RESUME do what their events do; a register that is not listed, or cannot be written, stays, and so do the registers of the object table while an object is
live or dying, and QBASE and LOG2SIZE of an enabled queue. That a value outside a register's range leaves it is the model's choice (log 16): nothing is said of
such a value here. -/
def Obligations.RegistersTakeHostWrites : Prop :=
  ∀ (s : State) (v : Word),
    let w (off : Nat) (t : State) : Prop := exec (.registerWrite off v) s = .next t
    let does (off : Nat) (i : Instr) (s' : State) : Prop := ∃ t, exec (.registerWrite off v) s = .next t ∧ exec i s' = .next t
    (1 ≤ v.toNat % 2 ^ 7 ∧ v.toNat % 2 ^ 7 ≤ 100 → w 0x1000 { s with regs := { s.regs with drainLimit := BitVec.ofNat 7 v.toNat } }) ∧
    (s.objects ≠ [] → ∀ off ∈ [0x1008, 0x1010, 0x10A0, 0x10A8], w off s) ∧
    (s.objects = [] → w 0x1008 { s with regs := { s.regs with objtab := v &&& ~~~ 0xFF } }) ∧
    (s.objects = [] → v.toNat ≤ 2 ^ 32 → w 0x1010 { s with regs := { s.regs with objcnt := v.toNat } }) ∧
    (v ≤ s.regs.pwhigh → ∃ b, w 0x1018 { s with regs := { s.regs with pwlow := v }, reclaiming := b } ∧ (s.reclaiming = true → b = true)) ∧
    (s.regs.pwlow ≤ v → w 0x1020 { s with regs := { s.regs with pwhigh := v } }) ∧
    ((∀ d : Fin 4, (v.extractLsb' (4 * d.val) 4).toNat ≤ 8) → w 0x1028 { s with regs := { s.regs with portmap := v.setWidth 16 } }) ∧
    (256 ≤ v.toNat ∧ v.toNat ≤ 2 ^ 24 → w 0x1030 { s with regs := { s.regs with ageStep := v.toNat } }) ∧
    (s.objects = [] → w 0x10A0 { s with regs := { s.regs with pwbase := v &&& 0x000000FFFFFFFF00 } }) ∧
    (s.objects = [] → w 0x10A8 { s with regs := { s.regs with pwsize := v &&& ~~~ 0xFF } }) ∧
    w 0x1040 { s with dbg := { s.dbg with trbase := v &&& ~~~ 0x7F } } ∧
    (4 ≤ v.toNat % 32 ∧ v.toNat % 32 ≤ 24 → w 0x1048 { s with dbg := { s.dbg with trsize := BitVec.ofNat 5 v.toNat } }) ∧
    w 0x1058 { s with dbg := { s.dbg with trtail := v } } ∧
    w 0x1060 { s with dbg := { s.dbg with trdrop := s.dbg.trdrop &&& ~~~ v } } ∧
    (let a : State := { s with dbg := { s.dbg with dbgRegion := BitVec.ofNat 12 v.toNat, dbgArm := v.getLsbD 12 } }
     (v.getLsbD 14 = false → w 0x1068 a) ∧ (v.getLsbD 14 = true → does 0x1068 .debugResume a)) ∧
    w 0x1078 { s with dbg := { s.dbg with mclog := s.dbg.mclog &&& ~~~ BitVec.ofNat 54 v.toNat } } ∧
    (∀ n : Fin 4, w (0x1080 + 8 * n.val) { s with dbg := { s.dbg with watch := s.dbg.watch.set n.val (v &&& 0x003FFFFFFFFFFFC0) n.isLt } }) ∧
    (let a : State := { s with am := { s.am with exploreOff := v.getLsbD 0, freeze := v.getLsbD 2 } }
     (v.getLsbD 1 = false → w 0x2000 a) ∧ (v.getLsbD 1 = true → does 0x2000 .amFlush a)) ∧
    w 0x2008 { s with am := { s.am with sig := v } } ∧
    (v.getLsbD 3 = true → does 0x2010 (.amPin (BitVec.ofNat 3 v.toNat)) s) ∧
    (v.getLsbD 3 = false → w 0x2010 { s with am := { s.am with pin := BitVec.ofNat 3 v.toNat } }) ∧
    (∀ n i, (n, i) ∈ [(1, Instr.amReadEntry), (2, .amRegister), (3, .libInstall), (4, .libRemove)] → v.toNat = n → does 0x2038 i s) ∧
    (∀ k : Fin 8, ∃ x, w (0x2040 + 8 * k.val) { s with am := { s.am with ent := x } } ∧
      ∀ j, j < 512 → x.getLsbD j = (
        if 64 * k.val ≤ j ∧ j < 64 * k.val + 64 ∧ (j < 64 ∨ (128 ≤ j ∧ j < 135) ∨ (160 ≤ j ∧ j < 480 ∧ (j - 160) % 80 < 32)) then v.getLsbD (j - 64 * k.val)
        else s.am.ent.getLsbD j)) ∧
    (∀ q : Fin 1024,
      let x := s.queue q
      let set (off : Nat) (y : Queue) : Prop :=
        ∃ t, w (0x10000 + 64 * q.val + off) t ∧ t = { s with queues := t.queues } ∧ t.queue q = y ∧ ∀ n, n ≠ q.val → t.queue n = s.queue n
      does (0x10010 + 64 * q.val) (.kickWrite q v) s ∧ does (0x10028 + 64 * q.val) (.qstatWrite q v) s ∧
      (x.cfg.getLsbD 16 = true → w (0x10000 + 64 * q.val) s) ∧
      (x.cfg.getLsbD 16 = false → set 0 { x with base := v &&& ~~~ 0x3F }) ∧
      (v.toNat / 2 ^ 17 % 2 ^ 7 ≠ 0 → x.cfg.getLsbD 16 = false → 6 ≤ v.toNat % 2 ^ 5 → v.toNat % 2 ^ 5 ≤ 20 → set 8 { x with cfg := v.setWidth 25 }) ∧
      (v.toNat / 2 ^ 17 % 2 ^ 7 ≠ 0 → x.cfg.getLsbD 16 = true → 6 ≤ x.cfg.toNat % 2 ^ 5 → x.cfg.toNat % 2 ^ 5 ≤ 20 →
        ∃ c : BitVec 25, set 8 { x with cfg := c } ∧ c.toNat % 2 ^ 5 = x.cfg.toNat % 2 ^ 5 ∧ c.toNat / 2 ^ 5 = v.toNat / 2 ^ 5 % 2 ^ 20)) ∧
    (∀ off, off ∈ [0x1050, 0x1070, 0x2018, 0x2020, 0x2028, 0x2030] ∨ off < 0x1000 ∨ (0x20000 ≤ off) → w off s)

/-- AM_FLUSH empties the motif table; AM_PIN and AM_READ_ENTRY act on the entry of AMSIG, and NOTFOUND says that there is none (R69, R75). AM_REGISTER: with FREEZE, or alternatives whose interfaces differ, the table stays; else one place takes AMENT as an entry of AMSIG with nothing
measured: the place of that signature, a free one, or that of the lowest LAST_USE, which AMREPL counts (R70, R74). -/
def Obligations.MatcherCommandsAct : Prop :=
  (∀ (s : State) (pin : BitVec 3),
      exec .amFlush s = .next { s with motifs := [], motifIds := [] } ∧
      (∀ k m, s.motifs.find? (fun e => e.2.extractLsb' 0 64 == s.am.sig) = some (k, m) →
        exec .amReadEntry s = .next { s with am := { s.am with ent := m, notFound := false } } ∧
        ∃ m', exec (.amPin pin) s = .next { s with motifs := SMap.put s.motifs k m', am := { s.am with pin := pin, notFound := false } } ∧
          m'.extractLsb' 131 3 = pin ∧ m'.extractLsb' 0 131 = m.extractLsb' 0 131 ∧ m'.extractLsb' 134 378 = m.extractLsb' 134 378) ∧
      (s.motifs.find? (fun e => e.2.extractLsb' 0 64 == s.am.sig) = none →
        exec .amReadEntry s = .next { s with am := { s.am with notFound := true } } ∧
        exec (.amPin pin) s = .next { s with am := { s.am with pin := pin, notFound := true } })) ∧
  (∀ (s : State), ∃ t, exec .amRegister s = .next t ∧
      (s.am.freeze = true ∨ s.alternativesOk s.am.ent = false → t = s) ∧
      (s.am.freeze = false → s.alternativesOk s.am.ent = true →
        ∃ k m, t = { s with motifs := SMap.put s.motifs k m, motifIds := SMap.put s.motifIds k s.nextId, nextId := s.nextId + 1, am := { s.am with repl := t.am.repl } } ∧
          m.extractLsb' 0 64 = s.am.sig ∧ m.extractLsb' 64 64 = 0 ∧ m.extractLsb' 128 7 = s.am.ent.extractLsb' 128 7 ∧
          (∀ j, j < (s.am.ent.extractLsb' 128 3).toNat →
            m.extractLsb' (160 + 80 * j) 80 = (s.am.ent.extractLsb' (160 + 80 * j) 32).setWidth 80) ∧
          ((∃ old, s.motifs.find? (fun e => e.2.extractLsb' 0 64 == s.am.sig) = some (k, old) ∧ t.am.repl = s.am.repl)
            ∨ (s.motifs.find? (fun e => e.2.extractLsb' 0 64 == s.am.sig) = none ∧ k < 4096 ∧ SMap.find? s.motifs k = none ∧ t.am.repl = s.am.repl)
            ∨ (s.motifs.find? (fun e => e.2.extractLsb' 0 64 == s.am.sig) = none ∧ (∀ j, j < 4096 → SMap.find? s.motifs j ≠ none)
                ∧ (∃ old, (k, old) ∈ s.motifs ∧ ∀ e ∈ s.motifs, (old.extractLsb' 96 32).toNat ≤ (e.2.extractLsb' 96 32).toNat)
                ∧ t.am.repl = s.am.repl + 1))))

/-- LIB_INSTALL and LIB_REMOVE: a record of the library is replaced or taken out and NOTFOUND cleared; where the command cannot be carried out, the
library stays and NOTFOUND is set (R347). -/
def Obligations.LibraryCommandsAct : Prop :=
  ∀ (s : State),
    let a := domKey s.am.sig.toNat
    let r := s.readRec a
    let frag := r.hdr % 2 ^ 32
    ∃ t u, exec .libInstall s = .next t ∧ exec .libRemove s = .next u ∧
      ((s.am.sig.toNat % 64 ≠ 0 ∨ r.ok = false ∨ frag = 0 ∨ (SMap.find? s.library frag = none ∧ 65536 ≤ s.library.length)) →
        t = { s with am := { s.am with notFound := true } }) ∧
      (s.am.sig.toNat % 64 = 0 → r.ok = true → frag ≠ 0 → (SMap.find? s.library frag ≠ none ∨ s.library.length < 65536) →
        ∀ n i s1 k s2, n = s.recordSize a r → s.alloc n 2 15 false = .made i s1 →
          (let c := ((s1.storeHome (domKey (s1.obj i % 2 ^ 50)) (s.homeBytes a n)).watchImage a r).watchSys (domKey (s1.obj i % 2 ^ 50)) n 1
           c.newPlan ((c.readRec (domKey (s1.obj i % 2 ^ 50))).plan (domKey (s1.obj i % 2 ^ 50))) [] none (some i)) = some (k, s2) →
          t.am.notFound = false ∧ SMap.find? t.library frag = some k ∧ ∀ j, j ≠ frag → SMap.find? t.library j = SMap.find? s.library j) ∧
      (SMap.find? s.library (s.am.sig.toNat % 2 ^ 32) = none → u = { s with am := { s.am with notFound := true } }) ∧
      (∀ k p, SMap.rising none s.library = true → SMap.find? s.library (s.am.sig.toNat % 2 ^ 32) = some k → SMap.find? s.plans k = some p →
        u.am = { s.am with notFound := false } ∧ SMap.find? u.library (s.am.sig.toNat % 2 ^ 32) = none ∧
        (∀ j, j ≠ s.am.sig.toNat % 2 ^ 32 → SMap.find? u.library j = SMap.find? s.library j) ∧
        ∃ x, SMap.find? u.plans k = some x ∧ x.gen = p.gen + 1)

/-- DEBUG_ARM names a region; DEBUG_STOP checkpoints it at its arming, before any firing, and its rectangle is kept; DEBUG_RESUME arms it again in its place
and clears ARM (R263). -/
def Obligations.DebugStopsAct : Prop :=
  ∀ (s : State) (n : BitVec 12) (r : Region), s.region? n.toNat = some r → r.num = n.toNat →
    exec (.debugArm n) s = .next { s with dbg := { s.dbg with dbgRegion := n, dbgArm := true } } ∧
    (s.dbg.dbgArm = true → s.dbg.dbgRegion = n → r.phase = .armed → r.armedAt = s.cycle → r.replaced = false →
      ∃ t p, exec (.debugStop n.toNat) s = .next t ∧ n.toNat ∈ t.dbg.dbgHeld ∧
        t.region? n.toNat = some { r with phase := .checkpointed, save := some p } ∧ (∀ m, m ≠ n.toNat → t.region? m = s.region? m) ∧
        p.tiles.map Prod.fst = (r.tilesOf s).map Prod.fst ∧ p.sram = s.sram.filter (fun e => r.holds (e.1 / 2 ^ 19)) ∧
        t.sram = s.sram.filter (fun e => !r.holds (e.1 / 2 ^ 19)) ∧
        (∀ u, r.holds u = true → t.freeTile u = false) ∧
        Noted s t ∧
        t = { s with
          dbg := t.dbg, regions := t.regions, tiles := t.tiles, sram := t.sram, full := t.full, flights := t.flights, hbm := t.hbm, watched := t.watched
          transfers := t.transfers, launches := t.launches }) ∧
    (∀ p, s.dbg.dbgHeld = [n.toNat] → r.phase = .checkpointed → r.save = some p →
      ∃ t g, exec .debugResume s = .next t ∧ t.dbg = { s.dbg with dbgArm := false, dbgHeld := [] } ∧ t.region? n.toNat = some g ∧
        g.phase = .armed ∧ g.save = none ∧ (g.die, g.x0, g.y0, g.ver, g.task) = (r.die, r.x0, r.y0, r.ver, r.task) ∧
        (∀ m, m ≠ n.toNat → t.region? m = s.region? m) ∧ t.hbm = s.hbm ∧ t.lines = s.lines ∧ t.tasks = s.tasks)

/-- A host write is performed at the home, and no port cache keeps a copy: every die and the home read the bytes written, every other byte at its home is as
before. A host read gives what the home holds: of the package's memory the bytes at the home, but for the committed bytes of ordered tasks, which reach the
host by a release; of its own memory what the device's caches hold written. Nothing else changes than the release records that the write clears, the WAITs
whose condition it has met, and the matches of the watchpoints, of which there are none without an enabled watchpoint (R167, R175, R201, R238, R264). -/
def Obligations.HostAccessesAreCoherent : Prop :=
  ∀ (s : State) (pa n : Nat) (bs : List Byte), pa < 2 ^ 50 → pa % 2 ^ 40 + bs.length ≤ 2 ^ 40 →
    let k := domKey pa
    ∃ t u, exec (.hostMemWrite pa bs) s = .next t ∧ exec (.hostMemRead pa n) s = .next u ∧
    Accessed s t ∧ t.freeCtr = s.freeCtr ∧
    u = { s with hostOut := u.hostOut, watched := u.watched } ∧ Noted s u ∧
    (∀ e ∈ t.relRecs, e ∈ s.relRecs ∧ (e.1 + 8 ≤ memKey k ∨ memKey k + bs.length ≤ e.1)) ∧
    (Memory.wf s.hbm = true →
      t.homeBytes k bs.length = bs ∧
      (∀ die i, i < bs.length → (bs[i]?) = some (t.dieByte die (k + i))) ∧
      ∀ j, j < 2 ^ 51 → (memKey j < memKey k ∨ memKey k + bs.length ≤ memKey j) → t.homeByte j = s.homeByte j) ∧
    u.hostOut.length = n ∧
    (∀ i, i < n → isHost (k + i) = false → s.comDie (k + i) = none → u.hostOut[i]? = some (s.homeByte (k + i))) ∧
    (∀ i d, i < n → isHost (k + i) = false → homeDie (k + i) = some d →
      (s.sector d ((k + i) / 64)).com.getLsbD ((k + i) % 64) = true → u.hostOut[i]? = some (s.hbmByte (k + i))) ∧
    (∀ i, i < n → isHost (k + i) = true → u.hostOut[i]? = some (s.hostByte (memKey (k + i))))

/-- What the device's monitors do to the registers of R259: a droop sets DROOP, which a read of PWRSTAT clears; a step of the power cap takes 50 MHz off, to no
less than 550, and sets CAP. DEVICE_RESET leaves the state after reset with the drives as they were (R195, R259, R266). -/
def Obligations.PowerRegistersAct : Prop :=
  ∀ (s : State),
    exec .droopTrip s = .next { s with dbg := { s.dbg with droop := true } } ∧
    exec .powerCapStep s = .next { s with dbg := { s.dbg with mhz := BitVec.ofNat 11 (max 550 (s.dbg.mhz.toNat - 50)), cap := true } } ∧
    (∃ bs, exec .pwrstatRead s = .next { s with hostOut := bs, dbg := { s.dbg with droop := false } } ∧ bs.length = 8 ∧
      leNat bs % 2 ^ 11 = s.dbg.mhz.toNat ∧ leNat bs / 2 ^ 11 % 2 = s.dbg.cap.toNat ∧ leNat bs / 2 ^ 12 = s.dbg.droop.toNat) ∧
    (∃ xs ys, exec (.spdmGetMeasurements 1) s = .next { s with hostOut := xs } ∧ exec (.spdmGetMeasurements 2) s = .next { s with hostOut := ys } ∧
      xs.length = 48 ∧ ys.length = 48) ∧
    (∃ ds, exec .deviceReset s = .next { State.reset with
      flash := s.flash, freeCtr := s.freeCtr + 1, regs := { State.reset.regs with romver := s.regs.romver, defects := ds } } ∧
      ∀ b ∈ ds, b < 8192 ∧ b % 2048 < 1568)

/-- A machine check is logged in MCLOG: VALID, the source, the address. A fill or a spill of a register that meets it freezes the context that waits for it; else
the ordered task that it hits is aborted once, and any other region, the region of an irrevocable task or of one that it hits a second time, stops with KIND 13
and what MCLOG holds of the error (R19, R146, R210, R267, R268). -/
def Obligations.MachineChecksAct : Prop :=
  ∀ (s : State) (src : Fin 6) (a n : Nat), a < 2 ^ 50 →
    let fills := src.val = 1 ∨ src.val = 2
    let log := a + src.val * 2 ^ 50 + 2 ^ 53
    ∃ t, exec (.machineCheck src a n) s = .next t ∧
      t.dbg = { s.dbg with mclog := BitVec.ofNat 54 log } ∧
      (s.region? n = none → t = { s with dbg := t.dbg }) ∧
      (∀ r k, ¬ fills ∨ s.movesAt n a = [] → s.region? n = some r → s.task? r.task = some k → k.ordered = true → k.irrev = false → k.mchecks = 0 →
        s.stoppedTask k = false → ∃ k', t.task? r.task = some k' ∧ k'.aborts = k.aborts + 1 ∧ k'.mchecks = 1) ∧
      (∀ r, ¬ fills ∨ s.movesAt n a = [] → s.region? n = some r → r.ended = false →
        (∀ k, s.task? r.task = some k → k.ordered = false ∨ k.irrev = true ∨ k.mchecks ≠ 0) →
        Stopped s t n ⟨13, 0, BitVec.ofNat 64 log⟩) ∧
      (∀ tl m e, fills → s.movesAt n a = [(tl, m)] → s.elem? tl = some e → ∃ e', t.elem? tl = some e' ∧ (∀ x, x ∈ e'.moves ↔ x ∈ e.moves ∧ x ≠ m) ∧
        ∀ c : Fin 4, e'.ctx.get c = if c.val = m.want.1 % 4 then { e.ctx.get c with st := .frozen false } else e.ctx.get c)

namespace Sys2Proof.Claims
open Sys2Proof.Machine

/-! ## Queues and packets -/

/-- The record of a packet that is not started (R198, R213): STATUS 3 with a fault kind and two details. -/
def notStarted (kind : Nat) (d0 d1 : Word) : Record := { status := 3, kind := kind, d0 := d0, d1 := d1 }

/-- `t` is `s` with packet `p` ended with record `r`, which is to be written at `t`'s now or later; with STOPF a fault stops the packet's queue; nothing else
has changed. -/
def PacketEnded (s t : State) (p : Nat) (r : Record) : Prop :=
  ∃ due, s.cycle ≤ due ∧
    t = { s with
      packets := s.packets.map (fun x => if x.id = p then { x with st := .ended r, due := due } else x)
      queues := (match s.packet? p with
        | some k => if r.status ≠ 0 ∧ k.word 0 / 2 ^ 9 % 2 = 1 then SMap.put s.queues k.queue { s.queue k.queue with faulted := true } else s.queues
        | none => s.queues)
      freeCtr := s.freeCtr + 1 }

/-- `t` is `s` with packet `p` in another state of progress, waiting for `ws`; nothing else has changed. -/
def PacketMoved (s t : State) (p : Nat) (st : PktSt) (ws : List Nat → List Nat) : Prop :=
  t = { s with packets := s.packets.map (fun x => if x.id = p then { x with st := st, waits := ws x.waits } else x) }

/-- `t` is `s` with a launch of packet `k` at the end of the launches, to be placed, and the packet holding its slot until then; the plan's entry has a
reference more, and nothing else has changed. -/
def LaunchAdded (s t : State) (k : Packet) (plan : PlanRef) (h : LHeader) (sig : List (Word × Nat × Nat × Nat)) : Prop :=
  ∃ due, s.cycle < due ∧
    t = { s with
      launches := s.launches ++ [⟨s.nextId, k.queue, some k.id, none, 0, plan, h, none, s.cycle, due, false, none, sig, false, 0, []⟩]
      packets := s.packets.map (fun x => if x.id = k.id then { x with st := .waiting } else x)
      plans := (match plan with
        | .entry i => (match SMap.find? s.plans i with | some e => SMap.put s.plans i { e with refs := e.refs + 1 } | none => s.plans)
        | .image _ => s.plans)
      nextId := s.nextId + 1
      freeCtr := s.freeCtr + 1 }

/-- A queue that has been granted a slot before another of its class comes in turn: ascending numbers after the queue last granted, wrapping (R201). -/
def inTurn (last : Option Nat) (a b : Nat) : Prop :=
  match last with
  | none => a ≤ b
  | some l => (l < a ∧ l < b ∧ a ≤ b) ∨ (l < a ∧ b ≤ l) ∨ (a ≤ l ∧ b ≤ l ∧ a ≤ b)

end Sys2Proof.Claims

/-- DISPATCH_GRANT: when a slot may be granted, it goes to the queue that R201 names among the grantable ones: least effective class with credit, in turn.
Its next packet is fetched, READ is one more, its credit one less, its wait 0; a packet that R198 forbids ends at once with ConfigIllegal, and stops its queue with STOPF (R197 to R199, R201). -/
def Obligations.SlotsAreGrantedInTurn : Prop :=
  ∀ (s : State), s.slotsHeld < 64 → (∀ c, s.lastGrant = some c → c + 8 ≤ s.cycle) → s.grantable ≠ [] →
    (∀ q, 0 < (s.queue q).cfg.toNat / 2 ^ 17 % 2 ^ 7) → SMap.rising none s.queues = true → (∀ x ∈ s.packets, x.id < s.nextId) →
    ∃ t q k, exec .dispatchGrant s = .next t ∧ q ∈ s.grantable ∧
      (let broke := ∀ x ∈ s.grantable, (s.queue x).credit = 0
       let mine := if broke then (s.queue q).cfg.toNat / 2 ^ 17 % 2 ^ 7 else (s.queue q).credit
       0 < mine ∧ (∀ x ∈ s.grantable, broke ∨ 0 < (s.queue x).credit → s.effClass q ≤ s.effClass x ∧
          (s.effClass q = s.effClass x → inTurn (Vector.at (n := 3) s.lastQueue (s.effClass q)) q x)) ∧
       t.queue q = { s.queue q with
         read := (s.queue q).read + 1, credit := mine - 1, wait := 0
         faulted := (s.queue q).faulted || (decide (k.st ≠ .fetched) && decide (k.word 0 / 2 ^ 9 % 2 = 1)) } ∧
       (∀ x ∈ s.grantable, x ≠ q → t.queue x = { s.queue x with credit := (t.queue x).credit })) ∧
      t.packets = s.packets ++ [k] ∧ k.id = s.nextId ∧ k.queue = q ∧ k.index = (s.queue q).read.toNat ∧ k.words.length = 8 ∧
      (∀ j, j < 8 → k.words[j]? = some (BitVec.ofNat 64 (s.homeWord
        (domKey ((s.queue q).base.toNat + 64 * ((s.queue q).read.toNat % 2 ^ ((s.queue q).cfg.toNat % 32))) + 8 * j) 8))) ∧
      k.st = (match packetBad ((s.queue q).cfg.getLsbD 15) k.words with | none => .fetched | some w => .ended (notStarted 1 w.d0 w.d1)) ∧
      t.lastGrant = some s.cycle ∧ Noted s t ∧
      t = { s with
        queues := t.queues, packets := t.packets, lastQueue := t.lastQueue, lastGrant := t.lastGrant, refilled := t.refilled, watched := t.watched
        nextId := s.nextId + 1, freeCtr := t.freeCtr }

/-- LAUNCH: the header is read and the launch waits to be placed; a header that R200 refuses ends the packet with ConfigIllegal, and a handle that is stale
with HandleInvalid (R198, R200, R204, R213). -/
def Obligations.LaunchPacketsLaunch : Prop :=
  ∀ (s : State) (p : Nat) (k : Packet), s.fetched? p 1 = some k →
    ∃ t, exec (.launch p) s = .next t ∧ Noted s t ∧
      let m : State := { s with watched := t.watched }
      (∀ w, s.packetHeader (k.word 2) = .error w → PacketEnded m t p (notStarted 1 w.d0 w.d1)) ∧
      (∀ h, s.packetHeader (k.word 2) = .ok h →
        (k.word 0 / 256 % 2 = 1 → LaunchAdded m t k (.image (domKey h.plan.toNat)) h []) ∧
        (k.word 0 / 256 % 2 = 0 → ∀ i x, s.planOf h.plan = some (i, x) → LaunchAdded m t k (.entry i) h []) ∧
        (k.word 0 / 256 % 2 = 0 → s.planOf h.plan = none →
          PacketEnded m t p (notStarted 9 (BitVec.ofNat 64 (2 ^ 63 + 9 * 2 ^ 56)) h.plan)))

/-- GRAPH: each subgraph that is recognised counts a hit and is launched by the alternative that R71 chooses, one that is not counts a miss and inserts no
entry; one part is launched as it is, more as their joined plan, a part that the library lacks ends the packet with HandleInvalid (R71, R73, R74). -/
def Obligations.GraphsAreMatchedAndLaunched : Prop :=
  (∀ (s : State) (nodes : List (Nat × List Nat × List Nat)) (sub : List Nat) (k : Nat) (m : BitVec 512), sub.length ≤ 16 →
    s.motif? (signature nodes sub) = some (k, m) →
    let n := (m.toNat / 2 ^ 64 + 1) % 2 ^ 32
    let j := chooseAlt m s.am.exploreOff n
    ∀ i r, s.fragment? (m.toNat / 2 ^ (160 + 80 * j) % 2 ^ 32) = some (i, r) →
      ∃ m', s.matchSub nodes sub = ({ s with launchCtr := s.launchCtr + 1, motifs := SMap.put s.motifs k m', am := { s.am with hits := s.am.hits + 1 } },
          some [⟨i, some (signature nodes sub, j, m.toNat / 2 ^ (160 + 80 * j) % 2 ^ 32, (SMap.find? s.motifIds k).getD 0)⟩]) ∧
        m'.extractLsb' 64 32 = BitVec.ofNat 32 n ∧ m'.extractLsb' 96 32 = s.launchCtr + 1 ∧
        m'.extractLsb' 0 64 = m.extractLsb' 0 64 ∧ m'.extractLsb' 128 384 = m.extractLsb' 128 384) ∧
  (∀ (s : State) (nodes : List (Nat × List Nat × List Nat)) (sub : List Nat), s.motif? (signature nodes sub) = none ∨ 16 < sub.length →
    (s.matchSub nodes sub).1 = { s with am := { s.am with miss := s.am.miss + 1 } }) ∧
  (∀ (s : State) (p : Nat) (k : Packet) (w : Illegal), s.fetched? p 2 = some k → s.packetHeader (k.word 3) = .error w →
    ∃ t, exec (.graph p) s = .next t ∧ Noted s t ∧ PacketEnded { s with watched := t.watched } t p (notStarted 1 w.d0 w.d1)) ∧
  (∀ (s : State) (p : Nat) (k : Packet) (h : LHeader), s.fetched? p 2 = some k → s.packetHeader (k.word 3) = .ok h →
    let bs := s.homeBytes (domKey (k.word 2)) 4096
    ∃ t s1 parts, exec (.graph p) s = .next t ∧ Noted s s1 ∧
      State.matchSubs { s with watched := s1.watched } (Config.graphNodes bs) (Config.subgraphs bs) = (s1, parts) ∧
      s1 = { s with launchCtr := s1.launchCtr, motifs := s1.motifs, am := s1.am, watched := s1.watched } ∧
      (parts = none → PacketEnded s1 t p (notStarted 9 (BitVec.ofNat 64 (2 ^ 63 + 9 * 2 ^ 56)) 0)) ∧
      (parts = some [] → PacketEnded s1 t p (notStarted 1 (BitVec.ofNat 64 (5 + 9 * 256)) 0)) ∧
      (∀ x, parts = some [x] → LaunchAdded s1 t k (.entry x.entry) h (x.motif.toList)) ∧
      (∀ x y xs w, parts = some (x :: y :: xs) → s1.joinParts (s1.planAt x.entry) x.motif.isSome (y :: xs) = .error w →
        PacketEnded s1 t p (notStarted 3 w 0)) ∧
      (∀ x y xs q, parts = some (x :: y :: xs) → s1.joinParts (s1.planAt x.entry) x.motif.isSome (y :: xs) = .ok q →
        t.am = { s1.am with adapt := s1.am.adapt + BitVec.ofNat 64 q.2.length } ∧
        ((∃ l, t.launches = s1.launches ++ [l] ∧ l.pkt = some p ∧ l.hdr = h ∧ l.sig = (x :: y :: xs).filterMap Part.motif)
          ∨ (∃ r due, t.packet? p = some { k with st := .ended r, due := due } ∧ r.status = 3 ∧ r.kind = 10))))

/-- WAIT and WAIT_RETEST: a condition that holds, or that a write to its signal's line has met, ends the WAIT, after its acquire; one that does not keeps the slot. A signal on a page that is not resident
parks the queue: the WAIT is its next packet again. QUEUE_UNPARK ends that (R198, R199, R202). -/
def Obligations.WaitsWait : Prop :=
  ∀ (s : State) (p : Nat) (k : Packet) (i : Instr),
    (i = .wait p ∧ s.fetched? p 3 = some k) ∨ (i = .waitRetest p ∧ s.packet? p = some k ∧ k.st = .waiting ∧ k.kind = 3) →
    ∃ t, exec i s = .next t ∧
      (s.absentAt (k.word 2) = none →
        let v := s.homeWord (domKey (k.word 2)) 8
        let holds := match k.word 4 with | 0 => k.word 3 ≤ v | 1 => v = k.word 3 | _ => v ≠ k.word 3
        (¬ holds → k.met = false → Noted s t ∧ PacketMoved { s with watched := t.watched } t p .waiting id) ∧
        (holds ∨ k.met = true → ∃ u, Accessed s u ∧ u.relRecs = s.relRecs ∧ u.freeCtr = s.freeCtr ∧ PacketEnded u t p { status := 0 })) ∧
      (∀ pte tb page pages va, s.absentAt (k.word 2) = some (pte, tb, page, pages, va) →
        t.packet? p = none ∧ t.queue k.queue = { s.queue k.queue with read := BitVec.ofNat 64 k.index, parked := true } ∧
        (∃ f ∈ t.fetches, f.pte = pte) ∧ (∀ n, n ≠ k.queue → t.queue n = s.queue n)) ∧
      (∀ (q : Fin 1024), (s.queue q).parked = true → s.absentAt (((s.packetAt q (s.queue q).read.toNat)[2]?).getD 0).toNat = none →
        ∃ u, exec (.queueUnpark q) s = .next u ∧ u.queue q = { s.queue q with parked := false } ∧ (∀ n, n ≠ q.val → u.queue n = s.queue n) ∧
          u = { s with queues := u.queues })

/-- SIGNAL, COPY and BARRIER: a SIGNAL without a buffer list stores or adds its value at the home and ends; a COPY waits for a transfer unit, or moves nothing
and ends; a BARRIER ends once every packet that it waits for has ended (R198, R199). -/
def Obligations.SignalsCopiesAndBarriersAct : Prop :=
  ∀ (s : State) (p : Nat) (k : Packet),
    (s.fetched? p 4 = some k → k.word 7 = 0 → ∃ t u, exec (.signal p) s = .next t ∧ PacketEnded u t p { status := 0 } ∧
      Accessed s u ∧ u.relRecs = s.relRecs ∧ u.freeCtr = s.freeCtr ∧
      (Memory.wf s.hbm = true → k.word 2 % 8 = 0 → k.word 2 < 2 ^ 50 → u.homeWord (domKey (k.word 2)) 8 =
        (if k.word 4 = 1 then s.homeWord (domKey (k.word 2)) 8 + k.word 3 else k.word 3) % 2 ^ 64)) ∧
    (s.fetched? p 5 = some k → ∃ t, exec (.copy p) s = .next t ∧
      (k.word 4 = 0 → PacketEnded s t p { status := 0 }) ∧
      (k.word 4 ≠ 0 → ∃ x, t.transfers = s.transfers ++ [x] ∧ x.isCopy = some p ∧ x.accepted = false ∧
        x.words = [BitVec.ofNat 64 (k.word 2), BitVec.ofNat 64 (k.word 3), BitVec.ofNat 64 (k.word 4)] ∧
        PacketMoved { s with transfers := t.transfers, nextId := s.nextId + 1, freeCtr := s.freeCtr + 1 } t p .waiting id)) ∧
    (s.packet? p = some k → k.kind = 7 → k.due ≤ s.cycle → ∃ t, exec (.barrier p) s = .next t ∧
      (let group := (s.queue k.queue).cfg.toNat / 2 ^ 7 % 2 ^ 8
       ∀ ws, ws = (s.packets.filter (fun x => (x.queue == k.queue && decide (x.index < k.index))
          || (bit (k.word 2) 0 && x.queue != k.queue && (s.queue x.queue).cfg.toNat / 2 ^ 7 % 2 ^ 8 == group && !x.holdsSlot))).map Packet.id →
        (k.st = .fetched → ws = [] → PacketEnded s t p { status := 0 }) ∧
        (k.st = .fetched → ws ≠ [] → PacketMoved s t p .waiting (fun _ => ws))) ∧
      (k.st = .waiting → (∀ w ∈ k.waits, s.packet? w = none) → PacketEnded s t p { status := 0 }) ∧
      (k.st = .waiting → (∃ w ∈ k.waits, s.packet? w ≠ none) → t = s))

/-- PREEMPT of a queue that the packet may name: it starts at once, and every armed region of the queue begins to halt; PREEMPT_KILL starts at once and stops
every region of the queue with DrainTimeout, but for those that are retiring or over. Each names the regions for which its record waits, and with HOLD marks the queues. A
queue of another group is barred to a queue without privilege: ProtectionFault (R206, R212). -/
def Obligations.PreemptsHaltAndKill : Prop :=
  ∀ (s : State) (p : Nat) (k : Packet), s.fetched? p 6 = some k →
    SMap.rising none s.regions = true → (∀ n r, s.region? n = some r → r.num = n) →
    let q := k.word 2 % 2 ^ 10
    let group (n : Nat) : Nat := (s.queue n).cfg.toNat / 2 ^ 7 % 2 ^ 8
    let barred := (s.queue k.queue).cfg.getLsbD 15 = false ∧ group q ≠ group k.queue
    let target (n : Nat) : Prop := if bit (k.word 2) 18 then n < 1024 ∧ group n = group q else n = q
    let holds (t : State) : Prop := (bit (k.word 2) 16 = true → ∀ n, target n → (t.queue n).held = true) ∧ (bit (k.word 2) 16 = false → t.queues = s.queues)
    (bit (k.word 2) 17 = false → ∃ t, exec (.preempt p) s = .next t ∧
      (barred → PacketEnded s t p (notStarted 5 (BitVec.ofNat 64 (2 ^ 63 + 5 * 2 ^ 56)) 0)) ∧
      (¬ barred → (∃ ws, t.packet? p = some { k with st := .started, waits := ws } ∧
          (∀ n, n ∈ ws ↔ ∃ r, s.region? n = some r ∧ target r.queue ∧ r.phase ∈ [RPhase.armed, .halting]) ∧
          ∀ n r, s.region? n = some r →
            t.region? n = some (if target r.queue ∧ r.phase = .armed then { r with phase := .halting, since := s.cycle } else r)) ∧
        holds t ∧
        t = { s with queues := t.queues, regions := t.regions, tiles := t.tiles, packets := t.packets, freeCtr := t.freeCtr })) ∧
    (bit (k.word 2) 17 = true → ∃ t, exec (.preemptKill p) s = .next t ∧
      (barred → PacketEnded s t p (notStarted 5 (BitVec.ofNat 64 (2 ^ 63 + 5 * 2 ^ 56)) 0)) ∧
      (¬ barred → (∃ ws, t.packet? p = some { k with st := .started, waits := ws } ∧
          ∀ n, n ∈ ws ↔ ∃ r, s.region? n = some r ∧ target r.queue ∧ r.phase ≠ .retiring) ∧
        (∀ n r, s.region? n = some r → target r.queue → r.phase ∈ [RPhase.armed, .halting, .checkpointed] →
          ∃ g, t.region? n = some g ∧ g.phase = .stopped ∧ g.stopKind = 11 ∧ g.endedAt = s.cycle) ∧
        (∀ n r, s.region? n = some r → ¬ target r.queue ∨ r.phase ∉ [RPhase.armed, .halting, .checkpointed] → t.region? n = some r) ∧
        holds t ∧
        t = { s with
          queues := t.queues, regions := t.regions, tiles := t.tiles, packets := t.packets, pend := t.pend, tasks := t.tasks, freeCtr := t.freeCtr }))

/-- COMPLETION_RECORD of a packet that has ended, or of a PREEMPT whose regions have all been checkpointed or have gone: the 64 bytes of the record stand at the
packet's address, then DONE is one more and the packet is gone. An address of 0 means no record (R198, R199, R206, R213). -/
def Obligations.CompletionRecordsAreWritten : Prop :=
  ∀ (s : State) (p : Nat) (k : Packet) (r : Record), s.packet? p = some k →
    (k.st = .ended r ∧ k.due ≤ s.cycle) ∨ (k.st = .started ∧ k.word 0 % 2 ^ 8 = 6 ∧ r = { status := 0 } ∧
      ∀ n ∈ k.waits, ∀ g, s.region? n = some g → g.phase ≠ .halting ∧ g.phase ≠ .stopped) →
    ∃ t, exec (.completionRecord p) s = .next t ∧ t.packet? p = none ∧
      SamePackets { s with packets := s.packets.filter (fun x => decide (x.id ≠ p)) } t ∧
      t.queue k.queue = { s.queue k.queue with done := (s.queue k.queue).done + 1 } ∧ (∀ n, n ≠ k.queue → t.queue n = s.queue n) ∧
      t = { s with packets := t.packets, queues := t.queues, hbm := t.hbm, lines := t.lines, relRecs := t.relRecs, watched := t.watched } ∧ Noted s t ∧
      (k.word 1 = 0 → t.hbm = s.hbm ∧ t.lines = s.lines ∧ t.relRecs = s.relRecs ∧ t.watched = s.watched) ∧
      (k.word 1 ≠ 0 → k.word 1 % 64 = 0 → k.word 1 < 2 ^ 50 → Memory.wf s.hbm = true →
        t.homeBytes (domKey (k.word 1)) 64 =
          leBytes 64 ((recordWord r.status r.kind r.alt r.region r.ver r.aborts).toNat + k.word 0 / 2 ^ 32 % 2 ^ 32 * 2 ^ 64 + r.ts.toNat * 2 ^ 128
            + r.d0.toNat * 2 ^ 192 + r.d1.toNat * 2 ^ 256 + r.armed % 2 ^ 64 * 2 ^ 320 + r.ended % 2 ^ 64 * 2 ^ 384 + r.die % 4 * 2 ^ 448
            + r.x0 % 64 * 2 ^ 450 + r.y0 % 32 * 2 ^ 456) ∧
        ∀ j, j < 2 ^ 51 → (memKey j < memKey (domKey (k.word 1)) ∨ memKey (domKey (k.word 1)) + 64 ≤ memKey j) → t.homeByte j = s.homeByte j)

namespace Sys2Proof.Claims
open Sys2Proof.Machine

/-! ## Placement (R46, R195, R204, R205) -/

/-- A rectangle may stand at an origin: inside the die, its memory columns on memory columns, not at the Brass strip (R7, R10, R46). -/
def standsAt (w h xphase : Nat) (o : Nat × Nat × Nat) : Prop :=
  o.1 < 4 ∧ o.2.1 + w ≤ 48 ∧ o.2.2 + h ≤ 32 ∧ (o.2.1 + xphase) % 3 = 2 ∧ ¬(o.1 = 0 ∧ o.2.1 = 0)

/-- No tile of a rectangle is marked, and none is in the rectangle of another region. -/
def rectFree (s : State) (w h : Nat) (o : Nat × Nat × Nat) : Prop :=
  ∀ dx dy, dx < w → dy < h → tileMark (tileNo o.1 (o.2.1 + dx) (o.2.2 + dy)) ∉ s.regs.defects ∧
    ∀ e ∈ s.regions, ¬(s.occupies e.2 = true ∧ e.2.holds (tileNo o.1 (o.2.1 + dx) (o.2.2 + dy)) = true)

/-- The order of origins (die, x0, y0): dies, then rows, then columns (R204). -/
def originBefore (a b : Nat × Nat × Nat) : Prop := a.1 < b.1 ∨ (a.1 = b.1 ∧ (a.2.2 < b.2.2 ∨ (a.2.2 = b.2.2 ∧ a.2.1 < b.2.1)))

/-- The first free origin of a rectangle. -/
def firstOrigin (s : State) (w h xphase : Nat) (o : Nat × Nat × Nat) : Prop :=
  standsAt w h xphase o ∧ rectFree s w h o ∧ ∀ a, originBefore a o → standsAt w h xphase a → ¬ rectFree s w h a

/-- A launch waits to be placed: it has no region yet, or one that is checkpointed (R206). -/
def waitsForPlace (s : State) (y : Launch) : Bool :=
  match y.region with
  | none => true
  | some n => match s.region? n with | some r => decide (r.phase = .checkpointed) | none => false

/-- The lowest region number that is not in use. -/
def lowestFree (s : State) (n : Nat) : Prop := s.region? n = none ∧ n < 4096 ∧ ∀ m, m < n → s.region? m ≠ none

/-- `t` is what the arming of launch `x` with plan `p` leaves: region `n`, of the next version of that number, stands at an origin that R46 allows, on
no marked tile, every place of its rectangle is a tile, and the launch's packet has started. -/
structure ArmedAs (s t : State) (x : Launch) (p : Plan) (n : Nat) (r : Region) : Prop where
  region : t.region? n = some r
  others : ∀ m, m ≠ n → t.region? m = s.region? m
  number : r.num = n ∧ r.phase = .armed ∧ r.ver = (SMap.find? s.versions n).getD 0 + 1
  launch : (r.launch, r.queue, r.armedAt) = (x.id, x.queue, s.cycle) ∧ r.hdr = x.hdr ∧ (r.w, r.h) = (p.hdr.w, p.hdr.h)
  stands : standsAt p.hdr.w p.hdr.h p.hdr.xphase (r.die, r.x0, r.y0)
  tiles : ∀ dx dy, dx < r.w → dy < r.h → tileMark (tileNo r.die (r.x0 + dx) (r.y0 + dy)) ∉ s.regs.defects ∧
    t.tile? (tileNo r.die (r.x0 + dx) (r.y0 + dy)) ≠ none
  alone : x.hdr.shareK = 0 → firstOrigin s p.hdr.w p.hdr.h p.hdr.xphase (r.die, r.x0, r.y0)
  packet : ∀ pk k, x.pkt = some pk → s.packet? pk = some k → ∃ b, t.packet? pk = some { k with st := .started, met := b }

/-- What a launch that shares nothing, has no collectives and no objects of its own needs to be armed at an origin: it may be placed, its plan is
whole and agrees with its links, the origin is the first that is free, its die has the resources, and its backing object is made (R16, R67, R98, R146, R204, R205). -/
structure Placeable (s : State) (x : Launch) (p : Plan) (die x0 y0 : Nat) : Prop where
  waits : x.region = none ∧ x.due ≤ s.cycle ∧ s.barred x = false ∧ s.yields x.rank = false
  plan : ∃ idx alt, s.launchPlan x = some (p, idx, alt)
  legal : s.planCause p (s.readLeaves p) x.hdr = none ∧ p.crowded = false ∧ s.tagClash p x.hdr.links = false
  agrees : s.linkMismatch p x.hdr.links = none ∧ checkJointList (s.readLeaves p) = none
  alone : x.hdr.shareK = 0 ∧ firstOrigin s p.hdr.w p.hdr.h p.hdr.xphase (die, x0, y0)
  ranges : ∀ e ∈ portEnts x.hdr (s.portSyms p (s.readLeaves p) x0 y0), e.2.length ≤ 8
  tiles : s.checkTiles (s.readLeaves p) die x0 y0 = none
  has : s.dieHas die (chansOf (s.readLeaves p)).length x.hdr.ruen = true
  plain : (∀ l ∈ s.readLeaves p, l.img.comms = [] ∧ l.img.ctiles = []) ∧ s.objectList x = [] ∧ x.made = []
  backed : ∃ obj base u, s.backing p.hdr.w p.hdr.h = .ok (obj, base, u)

end Sys2Proof.Claims

/-- REGION_PLACE: a launch that may be placed, and for which a place is found, is armed there with the lowest free region number and the next version of
that number: at an origin that R46 allows, on no marked tile, every place of its rectangle a tile; where it shares nothing, at the first origin of R204's order whose
rectangle is free of other regions. Its packet has started. One that fails ends its packet with STATUS 3; one that finds no place waits.
LAUNCH_RESERVE_TURN reserves the turn of a launch that has waited 2^20 cycles (R204 to R206). -/
def Obligations.RegionsArePlaced : Prop :=
  ∀ (s : State) (l : Nat) (x : Launch), s.launches.find? (fun y => y.id == l) = some x →
    exec (.launchReserveTurn l) s = .next { s with
      launches := s.launches.map (fun y => if y.id = l ∧ waitsForPlace s y = true ∧ y.since + 2 ^ 20 ≤ s.cycle then { y with reserved := true } else y) } ∧
    (x.region = none → x.since + 2 ^ 20 ≤ s.cycle → ∃ t, exec (.launchReserveTurn l) s = .next t ∧
      t.launches.find? (fun y => y.id == l) = some { x with reserved := true } ∧ t = { s with launches := t.launches }) ∧
    (∀ p die x0 y0 n, Placeable s x p die x0 y0 → lowestFree s n →
      ∃ t r, exec (.regionPlace l) s = .next t ∧ ArmedAs s t x p n r ∧ (r.die, r.x0, r.y0) = (die, x0, y0)) ∧
    (s.mayPlace x = true → ∃ t, exec (.regionPlace l) s = .next t ∧
      (∀ u p idx alt n, s.tryPlace x = .armed u → s.launchPlan x = some (p, idx, alt) → lowestFree s n → ∃ r, ArmedAs s t x p n r) ∧
      (∀ kind d0 d1, s.tryPlace x = .fail kind d0 d1 → t.regions = s.regions ∧ t.launches = s.launches.filter (fun y => y.id != l) ∧
        ∀ pk k, x.pkt = some pk → s.packet? pk = some k → ∃ due, t.packet? pk = some { k with
          st := .ended { status := 3, kind := kind, ts := x.hdr.ts, d0 := d0, d1 := d1 }, due := due }) ∧
      (∀ u, s.tryPlace x = .wait u →
        (t.regions, t.tiles, t.comms, t.tables, t.tasks) = (s.regions, s.tiles, s.comms, s.tables, s.tasks) ∧
        t.launches.map (fun y => { y with made := [] }) = s.launches.map (fun y => if y.id = l then { y with tried := true, made := [] } else { y with made := [] }) ∧
        (s.objectList x = [] → t = { s with reclaiming := t.reclaiming, short := t.short, launches := t.launches })))

/-- REGION_CHECKPOINT and REGION_REPLACE: a halted region whose elements all stand at a boundary is checkpointed, with its SRAM, and its rectangle is
given up; a checkpointed region that shares nothing, and for which a rectangle is found, is armed at the first free origin, with the same number and the next version;
DRAIN_LIMIT_EXPIRY halts a region that has withheld for the limit, in microseconds of the reference timer, whatever the clock (R138, R139, R204, R206, R207). -/
def Obligations.RegionsMove : Prop :=
  ∀ (s : State) (n : Nat) (r : Region), s.region? n = some r → r.num = n →
    (r.phase = .halting → s.atBoundary r = true → ∃ t p, exec (.regionCheckpoint n) s = .next t ∧
      t.region? n = some { r with phase := .checkpointed, save := some p } ∧ (∀ m, m ≠ n → t.region? m = s.region? m) ∧
      p.tiles.map Prod.fst = (r.tilesOf s).map Prod.fst ∧ p.sram = s.sram.filter (fun e => r.holds (e.1 / 2 ^ 19)) ∧
      t.sram = s.sram.filter (fun e => !r.holds (e.1 / 2 ^ 19)) ∧ Noted s t ∧
      t = { s with
        regions := t.regions, tiles := t.tiles, sram := t.sram, full := t.full, flights := t.flights, hbm := t.hbm, watched := t.watched
        transfers := t.transfers, launches := t.launches }) ∧
    (∀ p die x0 y0, r.phase = .checkpointed → r.save = some p → r.pageWait = none → (s.queue r.queue).held = false → n ∉ s.dbg.dbgHeld →
      s.yields (s.rankOf r) = false → r.hdr.shareK = 0 → r.backing ≠ 0 → firstOrigin s r.w r.h r.plan.hdr.xphase (die, x0, y0) →
      s.dieHas die r.chans.length r.ru.isSome = true →
      ∃ t g, exec (.regionReplace n) s = .next t ∧ t.region? n = some g ∧ (∀ m, m ≠ n → t.region? m = s.region? m) ∧
        g.phase = .armed ∧ g.save = none ∧ (g.die, g.x0, g.y0) = (die, x0, y0) ∧ g.ver = r.ver + 1 ∧ g.replaced = true ∧ g.task = r.task ∧
        SMap.find? t.versions n = some (r.ver + 1) ∧ t.hbm = s.hbm ∧ t.lines = s.lines ∧ t.tasks = s.tasks) ∧
    (∀ c va rest, s.withheldOf r = (c, va) :: rest → r.phase = .armed → c + s.regs.drainLimit.toNat * (50 * 232792560) ≤ s.time →
      ∃ t, exec (.drainLimitExpiry n) s = .next t ∧ t.region? n = some { r with phase := .halting, since := s.cycle, pageWait := some va } ∧
        (∀ m, m ≠ n → t.region? m = s.region? m) ∧ t = { s with regions := t.regions, tiles := t.tiles, freeCtr := t.freeCtr })

/-! ## Elements between firings -/

/-- SLOT_TABLE_APPLY, REGISTER_FILL_COMPLETE, REGISTER_EVICT_COMPLETE, CSLOT_START and ACC_ACK change one thing of one element: a written slot table takes
effect at index 0; a filled register holds what the backing area holds, and an evicted entry is free, once the port tile that faces the row has given its access; a
collective slot runs from index 0; OUT falls by one (R19, R31, R145, R146, R232, R335). FOLLOWER_FIRE: the due slot is over; the follower fires the slot next if its context is armed, and a HALT of the leader passes to the same context of a
follower, unless the follower's slot is a HALT of that context (R34, R35). -/
def Obligations.ElementEventsAndFollowersAct : Prop :=
  (∀ (s : State) (n : Nat) (x : Tile) (e : Elem), s.tile? n = some x → x.elem = some e →
      let pt := s.portAt (tileDie n) (16 + tileY n / 2)
      let served (t : State) (y : Elem) : Prop :=
        t = { (s.setTile n { x with elem := some y }) with ports := t.ports, watched := t.watched } ∧ Noted s t ∧ (t.portTile pt).served = some s.cycle ∧
          ∀ p, p ≠ pt → t.portTile p = s.portTile p
      (∀ w, e.pendTable = some w → e.idx = 0 →
        exec (.slotTableApply n) s = .next (s.setTile n { x with elem := some { e with table := w, pendTable := none } })) ∧
      (∀ (c : Fin 4) (v : Fin 32) (m : RegMove) (rest : List RegMove) (r : Region), e.moves = m :: rest → m.isFill = true → m.due ≤ s.cycle →
        m.want = (c.val, v.val) → s.region? (e.ctx.get c).region = some r → s.portFree pt = true →
        let a := r.backing + ((tileY n - r.y0) * r.w + (tileX n - r.x0)) * 10240 + c.val * 2560 + 80 * v.val
        ∃ t, exec (.registerFillComplete n) s = .next t ∧ served t { e with
          moves := rest
          resident := (c.val, v.val) :: e.resident
          spilled := e.spilled.filter (fun r => r != (c.val, v.val))
          ctx := e.ctx.set c.val { e.ctx.get c with v := (e.ctx.get c).v.set v.val (bytesVec (s.homeBytes a 80)) v.isLt } c.isLt }) ∧
      (∀ m rest, e.moves = m :: rest → m.isFill = false → m.due ≤ s.cycle → s.portFree pt = true →
        ∃ t, exec (.registerEvictComplete n) s = .next t ∧ served t { e with moves := rest }) ∧
      (∀ c, e.cslot = some c → e.idx = 0 → c.running = false → (∀ h, e.haltAt = some h → s.cycle < h) →
        exec (.cslotStart n) s = .next (s.setTile n { x with elem := some { e with cslot := some { c with running := true, start := s.cycle } } })) ∧
      (∀ d rest, e.mat.acks = d :: rest → d ≤ s.cycle →
        exec (.accAck n) s = .next (s.setTile n { x with elem := some { e with mat := { e.mat with acks := rest, out := e.mat.out - 1 } } }))) ∧
  (∀ (s : State) (n : Nat) (x : Tile) (e : Elem) (slot : Fin 32) (c : Nat) (rest : List (Nat × Fin 32)), s.tile? n = some x → x.elem = some e →
      e.due = (c, slot) :: rest → c ≤ s.cycle →
      let owner := sideOwner (e.sides.get slot)
      let i := decodeWord (e.slots.get slot)
      exec (.followerFire n slot) s = .next { (s.setTile n { x with elem := some { e with due := rest } }) with
        scan := (if (e.ctx.get owner).st = .armed ∧ i ≠ none then [Work.run ⟨n, owner, slot, false⟩] else [])
          ++ (match s.leaderHalts n slot with
              | some h => if (match i with | some (.halt _) => true | _ => false) = true ∧ h = owner then [] else [Work.halt n h]
              | none => [])
          ++ s.scan })

/-- MROW_RESULT, MDRAIN_RESULT and MROW_REPLAY_RESULT: the result that is due takes its reserved slot; a row that is replayed takes it 96 cycles after its pick, 56
after it would have, and one that fails its second residue check is discarded, and a machine check of source 4 is taken next (R267, R334, R336). MZERO_COMPLETE: the next
four rows of the panel read +0, and ZB clears once all do. MGATH_ROW_ARRIVE: the next row is read at its tile when its request has come there and its banks are free; then, after the
way back, the next row of the gather latch holds it, and the row after it arrives no sooner than two cycles later (R126, R333, R337). -/
def Obligations.MatrixEventsAct : Prop :=
  (∀ (s : State) (n id : Nat) (x : Tile) (e : Elem) (o : MatOut), s.tile? n = some x → x.elem = some e → e.mat.outs.find? (fun y => y.id == id) = some o →
      let gone (f : List OutSlot → List OutSlot) : State := s.setTile n { x with
        op := x.op.set o.q.val (f (x.op.get o.q)) o.q.isLt
        elem := some { e with mat := { e.mat with outs := e.mat.outs.filter (fun y => y.id != o.id) } } }
      let filled := gone (fun xs => xs.map (fun y => if y = .reserved o.id then .full o.tok none s.cycle else y))
      (o.isRow = true → o.due ≤ s.cycle → exec (.mrowResult n id) s = .next filled) ∧
      (o.isRow = false → o.due ≤ s.cycle → exec (.mdrainResult n id) s = .next filled) ∧
      (∀ b, s.cycle < o.due + 56 → exec (.mrowReplayResult n id b) s = .next { (s.setTile n { x with elem := some { e with mat := { e.mat with
          outs := e.mat.outs.map (fun y => if y.id = id then { y with replayed := true } else y) } } }) with
        agenda := s.agenda ++ [(o.due + 56, .mrowReplayResult n id b)] }) ∧
      (o.due + 56 ≤ s.cycle → exec (.mrowReplayResult n id true) s = .next filled ∧
        exec (.mrowReplayResult n id false) s = .next { gone (fun xs => xs.filter (fun y => y != .reserved o.id)) with
          scan := .ev (.machineCheck 4 n x.region) :: s.scan })) ∧
  (∀ (s : State) (n : Nat) (x : Tile) (e : Elem), s.tile? n = some x → x.elem = some e →
      (∀ p, e.mat.panel = some p → e.mat.zb = true → e.mat.zdue ≤ s.cycle →
        let rows := p.toNat % 2 ^ 12
        let k := min 4 (rows - e.mat.zdone)
        (k = 0 → exec (.mzeroComplete n) s = .next (s.setTile n { x with elem := some { e with mat := { e.mat with zb := false } } })) ∧
        (k ≠ 0 → ∃ due c, s.cycle + 1 ≤ due ∧ (e.mat.zdone + 4 < rows → due = s.cycle + 1 ∧ c = s.freeCtr) ∧
          exec (.mzeroComplete n) s = .next { (s.setTile n { x with elem := some { e with mat := { e.mat with zdone := e.mat.zdone + k, zdue := due } } }) with
            sram := writeBytes s.sram (sramKey (homeTile n) (64 * (p.toNat / 2 ^ 12 % 2 ^ 13 + e.mat.zdone))) (List.replicate (64 * k) 0)
            freeCtr := c })) ∧
      (∀ r a m, s.region? x.region = some r → e.mat.gaddr[e.mat.garrived]? = some a → r.localTile x.leaf a = some m → e.mat.gdue ≤ s.cycle →
        let size := if e.mat.gfmt = 6 then 136 else 128
        (e.mat.gheld = none → s.olderOnPath n e.mat.gid m = false → s.banksFree m (banksOf (a % 2 ^ 19) size) = true →
          ∃ t, exec (.mgathRowArrive n) s = .next t ∧
            t.elem? n = some { e with mat := { e.mat with
              gheld := some (BitVec.ofNat 1280 (leNat (s.sramBytes m (a % 2 ^ 19) size))), gdue := s.cycle + transit n m } } ∧
            (∀ y, y ≠ n → t.elem? y = s.elem? y) ∧ (∀ y, y ≠ m → t.mem? y = s.mem? y) ∧
            (s.mem? m ≠ none → t.banksFree m (banksOf (a % 2 ^ 19) size) = false) ∧ t = { s with tiles := t.tiles }) ∧
        (∀ row, e.mat.gheld = some row →
          ∃ due, s.cycle ≤ due ∧
            (∀ b m', e.mat.gaddr[e.mat.garrived + 1]? = some b → r.localTile x.leaf b = some m' →
              s.cycle + 2 ≤ due + transit n m' ∧ e.mat.gfired + transit n m' ≤ due) ∧
            exec (.mgathRowArrive n) s = .next { (s.setTile n { x with elem := some { e with mat := { e.mat with
              gather := Vector.upd (n := 15) e.mat.gather e.mat.garrived row
              garrived := e.mat.garrived + 1
              gheld := none
              gdue := due } } }) with freeCtr := s.freeCtr + 1 })))

/-- ACC_TOKEN_ADD: when the row's bank is free, the token at the head of a queue adds its lanes to its row of C, each rounded once to FP32, and its sender is
acknowledged within 4 cycles; in another mode, or for a row that does not exist, it is dropped, the queue stops and C stays (R126, R335). -/
def Obligations.AccumulateTokensAdd : Prop :=
  ∀ (s : State) (n row sender : Nat) (q : Fin 4) (x : Tile) (m : MTile) (k : Token) (rest : List Token), s.tile? n = some x → x.mem = some m →
    x.iq.get q = k :: rest → k.side = .acc row sender →
    ∃ t, exec (.accTokenAdd n q) s = .next t ∧
      (m.ctrl.toNat % 8 = 3 → row < 8192 → (∀ c, SMap.find? m.banks (row / 512) = some c → c < s.cycle) → t.queue? n q = some rest ∧
        (Memory.wf s.sram = true → ∀ j, j < 16 → t.cElem n row j = (accLane (s.cElem n row j) (k.pay.vec.lane j)).1 % 2 ^ 32) ∧
        (Memory.wf s.sram = true → ∀ a, (a < sramKey n (64 * row) ∨ sramKey n (64 * row) + 64 ≤ a) → SMap.read 0 t.sram a = SMap.read 0 s.sram a) ∧
        (∀ y, s.elem? sender = some y → ∃ z due, t.elem? sender = some z ∧ s.cycle < due ∧ due ≤ s.cycle + 4 ∧
          z.mat = { y.mat with acks := y.mat.acks ++ [due] }) ∧
        (∀ r, s.region? x.region = some r → t.region? x.region = some { r with
          setNow := r.setNow ||| laneFlags (fun j => (accLane (s.cElem n row j) (k.pay.vec.lane j)).2) }) ∧
        (k.log = none → t.hbm = s.hbm ∧ t.dbg = s.dbg ∧ t.watched = s.watched) ∧
        t = { s with tiles := t.tiles, sram := t.sram, regions := t.regions, hbm := t.hbm, dbg := t.dbg, watched := t.watched, freeCtr := t.freeCtr }) ∧
      (m.ctrl.toNat % 8 ≠ 3 ∨ 8192 ≤ row → t.sram = s.sram ∧ t.queue? n q = some rest ∧
        ∃ m', t.mem? n = some m' ∧ m'.qStop.getLsbD q.val = true)

namespace Sys2Proof.Claims
open Sys2Proof.Machine

/-- `t` differs from `s` in tiles, packets under way, the directions that routers have served, and what regions count of their ports alone. -/
def OnlyNet (s t : State) : Prop :=
  t = { s with tiles := t.tiles, flights := t.flights, nextId := t.nextId, regions := t.regions, served := t.served }

/-- A route entry `w` of tile `x` names one branch to another tile: the branch, the tile, the direction of arrival there, the cycle in which it can stand there, and
for a direct link the queue (R8, R25, R26). -/
def oneHop (x now w : Nat) (b : Branch) (n dir ready : Nat) (into : Option (Fin 4)) : Prop :=
  bit w 10 = false ∧
    ((∃ (d : Fin 4) (extra : Nat), w % 2 ^ 6 = 2 ^ d.val ∧ b = .dir d ∧ neighbour x d.val = some (n, extra) ∧ dir = (d.val + 2) % 4 ∧ ready = now + 1 + extra ∧ into = none)
      ∨ (∃ q : Fin 4, w % 2 ^ 6 = 32 ∧ w / 2 ^ 8 % 4 = q.val ∧ b = .home q ∧ n = homeTile x ∧ dir = 5 ∧ ready = now + (if tileX x = 0 then 2 else 1) ∧ into = some q))

/-- A route entry names one queue of its own tile (R25). -/
def oneQueue (w : Nat) (q : Fin 4) : Prop := bit w 10 = false ∧ w % 2 ^ 6 = 16 ∧ w / 2 ^ 6 % 4 = q.val

/-- The token is neither an accumulate token, which its receiver acknowledges, nor a transfer request, which leaves for a transfer unit. -/
def plainSide (k : Token) : Prop := match k.side with | .none | .row _ _ | .ins _ => True | .acc _ _ | .xreq _ _ => False

/-- So are the tokens of a port. -/
def plainSlots (xs : List OutSlot) : Prop := ∀ k l c, .full k l c ∈ xs → plainSide k

/-- A packet stands before a queue of its tile: a direct link has brought it there, or its route ends there and no scatter register stands before the queue. -/
def standsBefore (t : Tile) (f : Flight) (q : Fin 4) : Prop :=
  f.into = some q ∨ (f.into = none ∧ f.left = none ∧
    match f.route with
    | .table c => oneQueue (t.routes.get c).toNat q
    | .dest d => d = ⟨f.tile, q, none⟩ ∧ t.scatterAt 0 q = none)

/-- A request has been answered: with a reply queue the reply stands in it from `least` at the earliest, without one the request is over. -/
def Answered (t : State) (r : Req) (pay : Payload) (pred : Option Bool) (least : Nat) : Prop :=
  if r.q = none then t.req? r.id = none
  else ∃ due arcs, least ≤ due ∧ t.req? r.id = some { r with st := .done ⟨pay, false, pred, arcs⟩, due := due }

end Sys2Proof.Claims

/-! ## The network -/

/-- TOKEN_DELIVER: the first token of a port whose entry names a queue of its own tile enters it while the queue has room, its slot is free then, and it waits otherwise; one whose entry
names another tile of its leaf sets out for it, a cycle later, and 8 more over a die crossing, and keeps its slot until it is accepted there. A packet that stands before a queue
enters it while the queue has room, and the slot of the port that held it is free; one that goes on is accepted by the router, which sets it out for the next tile
and holds it in the port's place (R24 to R27). -/
def Obligations.RoutersDeliverTokens : Prop :=
  ∀ (s : State) (x : Nat) (t : Tile), s.tile? x = some t →
    (∀ (q lq : Fin 4) k left since rest, t.op.get q = .full k left since :: rest → plainSlots (t.op.get q) →
      (left = none ∧ oneQueue (t.routes.get (t.classOf q)).toNat lq) ∨ (∃ p, left = some (p, .table (t.classOf q), [.loc lq])) →
      ∃ u, exec (.tokenDeliver (.port x q)) s = .next u ∧ OnlyNet s u ∧
        ((t.iq.get lq).length < 4 → u.port? x q = some rest ∧ u.queue? x lq = some (t.iq.get lq ++ [k]) ∧ u.flights = s.flights ∧
          (∀ y p, ¬(y = x ∧ p = q) → u.port? y p = s.port? y p) ∧ (∀ y p, ¬(y = x ∧ p = lq) → u.queue? y p = s.queue? y p)) ∧
        (4 ≤ (t.iq.get lq).length → rest = [] → (∀ y p, u.queue? y p = s.queue? y p) ∧
          ∃ p, u.port? x q = some [.full k (some (p, .table (t.classOf q), [.loc lq])) since])) ∧
    (∀ (q : Fin 4) k since rest b n dir ready into y, t.op.get q = .full k none since :: rest → plainSlots (t.op.get q) →
      oneHop x s.cycle (t.routes.get (t.classOf q)).toNat b n dir ready into → s.tile? n = some y → y.ofLeaf (t.classOwner (t.classOf q)) = true →
      (∀ g ∈ s.flights, g.pkt < s.nextId ∧ (g.src = 4 * x + q.val → g.tile = n → g.into = into → g.ready < ready)) →
      ∃ u f more ys, exec (.tokenDeliver (.port x q)) s = .next u ∧ OnlyNet s u ∧ u.flights = s.flights ++ f :: more ∧
        (f.pkt, f.src, f.tile, f.dir, f.ready) = (s.nextId, 4 * x + q.val, n, dir, ready) ∧ f.into = into ∧ (f.tok.tag, f.tok.pay) = (k.tag, k.pay) ∧
        f.hold = some (x, b) ∧ u.port? x q = some (.full k (some (s.nextId, .table (t.classOf q), [b])) since :: ys) ∧
        (rest = [] → more = [] ∧ ys = [] ∧ ∀ y p, u.queue? y p = s.queue? y p)) ∧
    (∀ (f : Flight) (q : Fin 4), s.flights.find? (fun g => g.id == f.id) = some f → f.ready ≤ s.cycle → f.tile = x → standsBefore t f q → plainSide f.tok →
      (∀ g ∈ s.flights, g.id ≠ f.id → ¬(g.src = f.src ∧ g.tile = f.tile ∧ g.into = f.into)) → (t.iq.get q).length < 4 →
      ∃ u, exec (.tokenDeliver (.flight f.id)) s = .next u ∧ OnlyNet s u ∧ u.queue? x q = some (t.iq.get q ++ [f.tok]) ∧
        (∀ y r, ¬(y = x ∧ r = q) → u.queue? y r = s.queue? y r) ∧ (∀ g ∈ u.flights, g.id ≠ f.id) ∧
        (f.hold = none → u.flights = s.flights.filter (fun g => decide (g.id ≠ f.id)) ∧ ∀ y r, u.port? y r = s.port? y r) ∧
        (∀ h b k r since rest, f.hold = some (h, b) → (∀ g ∈ s.flights, g.id ≠ f.pkt) →
          s.port? h ⟨f.src % 4, Nat.mod_lt _ (by decide)⟩ = some (.full k (some (f.pkt, r, [b])) since :: rest) →
          (∀ k' r' ls c, .full k' (some (f.pkt, r', ls)) c ∉ rest) →
          u.flights = s.flights.filter (fun g => decide (g.id ≠ f.id)) ∧ u.port? h ⟨f.src % 4, Nat.mod_lt _ (by decide)⟩ = some rest)) ∧
    (∀ (f : Flight) (c : Fin 16) b n dir ready into y, s.flights.find? (fun g => g.id == f.id) = some f → f.ready ≤ s.cycle → f.tile = x → f.into = none → f.left = none →
      f.route = .table c → oneHop x s.cycle (t.routes.get c).toNat b n dir ready into → s.tile? n = some y → y.ofLeaf (t.classOwner c) = true → f.pkt ≠ f.id → f.id < s.nextId →
      (∀ g ∈ s.flights, g.id ≠ f.id → ¬(g.src = f.src ∧ g.tile = f.tile ∧ g.into = f.into)) →
      (∀ g ∈ s.flights, g.pkt ≠ f.id ∧ (g.src = f.src → g.tile = n → g.into = into → g.ready < ready)) →
      ∃ u g, exec (.tokenDeliver (.flight f.id)) s = .next u ∧ OnlyNet s u ∧ { f with left := some [b], hold := none } ∈ u.flights ∧ g ∈ u.flights ∧
        (g.id, g.pkt, g.src, g.tile, g.dir, g.ready) = (s.nextId, f.id, f.src, n, dir, ready) ∧ g.into = into ∧ g.hold = some (x, b) ∧
        (g.tok.tag, g.tok.pay) = (f.tok.tag, f.tok.pay) ∧ (∀ y r, u.queue? y r = s.queue? y r) ∧ SMap.find? u.served x = some f.dir)

/-- SCATTER_FORWARD, GATHER_FORWARD and STAGING_SEND: a scatter register gives its token to the next of its copies, copy 0's to its own queue, and moves on; a gather register forwards the
token of copy K mod n, and an end-of-pass once every copy has sent its own; a staging tile takes the token at its queue while it has room, keeps it while B is not loaded, and sends its
oldest afterwards (R64, R65). -/
def Obligations.PlanRegistersForward : Prop :=
  ∀ (s : State) (n : Nat) (t : Tile), s.tile? n = some t →
    let moved (c : Scatter) (k : Token) (rest : List Nat) : Scatter :=
      if rest = [] then { c with
        held := none
        k := if k.tag = (2 : BitVec 2) then 0 else if k.tag = (1 : BitVec 2) ∨ (c.perToken = true ∧ k.tag = (0 : BitVec 2)) then c.k + 1 else c.k }
      else { c with held := some (k, rest) }
    (∀ i c k rest, t.scatter[i]? = some c → c.held = some (k, 0 :: rest) → t.scatterAt (i + 1) c.q = none → (t.iq.get c.q).length < 4 → plainSide k →
      ∃ u v, exec (.scatterForward n i) s = .next u ∧ OnlyNet s u ∧ u.queue? n c.q = some (t.iq.get c.q ++ [k]) ∧
        (∀ y p, ¬(y = n ∧ p = c.q) → u.queue? y p = s.queue? y p) ∧ u.tile? n = some v ∧ v.scatter = modifyAt t.scatter i (fun c => moved c k rest)) ∧
    (∀ i c k m rest u, t.scatter[i]? = some c → c.held = some (k, m :: rest) → m ≠ 0 →
      s.sendOn n c.q k (.to ⟨n + c.stride * m, c.q, none⟩) = some u → u.tile? n = some t →
      exec (.scatterForward n i) s = .next (u.setTile n { t with scatter := modifyAt t.scatter i (fun c => moved c k rest) })) ∧
    (∀ i g k rest u, t.gather[i]? = some g → g.bufs[g.k % g.n]? = some (k :: rest) →
      (k.tag = 2 → ∀ b ∈ g.bufs, ∃ x xs, b = x :: xs ∧ x.tag = (2 : BitVec 2)) →
      s.sendOn n (s.gatherPort g) k g.dest = some u → u.tile? n = some t →
      ∃ v y, exec (.gatherForward n i) s = .next v ∧ v = { u with tiles := v.tiles, regions := v.regions } ∧ v.tile? n = some y ∧
        (∀ m, m ≠ n → v.tile? m = u.tile? m) ∧
        y = { t with gather := modifyAt t.gather i (fun g => { g with
          bufs := if k.tag = 2 then g.bufs.map List.tail else modifyAt g.bufs (g.k % g.n) List.tail
          k := if k.tag = 2 then 0 else if k.tag = 1 ∨ (g.perToken = true ∧ k.tag = 0) then g.k + 1 else g.k }) }) ∧
    (∀ m g k rest, t.mem = some m → m.staging = some g → g.active = false → t.iq.get 0 = k :: rest →
      (g.toks.map stageGranules).foldl (· + ·) 0 + (if k.tag = 1 ∨ k.tag = 2 then 0 else match k.pay with | .v _ => 5 | .s _ => 1) ≤ 32768 →
      exec (.stagingSend n) s = .next (s.setTile n { t with
        iq := t.iq.set 0 rest (by decide), mem := some { m with staging := some { g with toks := g.toks ++ [k] } } })) ∧
    (∀ m g k rest u, t.mem = some m → m.staging = some g → g.active = true → t.iq.get 0 = [] → g.toks = k :: rest →
      s.sendOn n 0 k g.dest = some u → u.tile? n = some t →
      exec (.stagingSend n) s = .next (u.setTile n { t with mem := some { m with staging := some { g with toks := rest } } }))

/-- REPLY_TOKEN_ENTER and FAULT_TOKEN_DELIVER: the reply of the oldest request of a queue enters it when it is due and there is room, and the predicate is
written with it; a fault token enters its queue, and the context that it froze counts as halted from then on (R156, R211). -/
def Obligations.RepliesAndFaultsEnterQueues : Prop :=
  ∀ (s : State) (g : Region) (t : Tile),
    (∀ r a q, s.req? r.id = some r → r.st = .done a → r.q = some q → s.tile? r.tile = some t → r.due ≤ s.cycle →
      (∀ x ∈ s.reqs, x.id < r.id → ¬(x.tile = r.tile ∧ x.q = r.q)) → s.region? r.region = some g → g.placed = true → (t.iq.get q).length < 4 →
      ∃ u, exec (.replyTokenEnter r.id) s = .next u ∧ u = { s with tiles := u.tiles, reqs := s.reqs.filter (fun x => x.id != r.id) } ∧
        u.queue? r.tile q = some (t.iq.get q ++ [{
          tag := if a.fault then 3 else 0
          pay := (match a.pay with | .s w => kindPay (t.iqKind.getLsbD q.val) w | .v x => .v x)
          arcs := a.arcs }]) ∧
        (∀ y p, ¬(y = r.tile ∧ p = q) → u.queue? y p = s.queue? y p) ∧ (∀ y p, u.port? y p = s.port? y p) ∧
        (∀ c p b, s.ctx? r.tile r.ctx = some c → r.pred = some p → a.pred = some b → u.ctx? r.tile r.ctx = some { c with p := setPred c.p p b }) ∧
        (r.pred = none ∨ a.pred = none → ∀ y c, u.ctx? y c = s.ctx? y c)) ∧
    (∀ x, s.faultToks.find? (fun y => y.id == x.id) = some x → s.tile? x.tile = some t → x.due ≤ s.cycle →
      (∀ y ∈ s.faultToks, y.id < x.id → ¬(y.tile = x.tile ∧ y.q = x.q)) → s.region? x.region = some g → g.placed = true → (t.iq.get x.q).length < 4 →
      ∃ u, exec (.faultTokenDeliver x.id) s = .next u ∧ u = { s with tiles := u.tiles, faultToks := s.faultToks.filter (fun y => y.id != x.id) } ∧
        u.queue? x.tile x.q = some (t.iq.get x.q ++ [{ tag := 3, pay := kindPay (t.iqKind.getLsbD x.q.val) x.pay }]) ∧
        (∀ y p, ¬(y = x.tile ∧ p = x.q) → u.queue? y p = s.queue? y p) ∧
        (∀ y c z, x.froze = some (y, c) → s.ctx? y c = some z → z.st = .frozen false → u.ctx? y c = some { z with st := .frozen true }))

namespace Sys2Proof.Claims
open Sys2Proof.Machine

/-- Generator `g` of tile `n` may act now: its region is armed, its stream has started and not closed, and it is not held (R122). -/
structure Generating (s : State) (n : Nat) (g : Fin 4) (x : Tile) (m : MTile) (r : Region) : Prop where
  tile : s.tile? n = some x
  mem : x.mem = some m
  region : s.region? x.region = some r
  num : r.num = x.region
  armed : r.phase = .armed
  running : (m.gens.get g).st = .running
  free : (m.gens.get g).busy ≤ s.cycle

/-- The place of the element that a stream of one dimension without mirroring reaches next, for elements of 8 bytes: BASE + 8 × (u0 + ORG0) × STRIDE0 (R128,
R129). -/
def nextPlace (w : BitVec 512) (u : Nat) : Int := (w.extractLsb' 16 56).toNat + ((u : Int) + (w.extractLsb' 232 16).toInt) * (w.extractLsb' 136 24).toInt * 8

/-- A stream record of KIND `k` with one dimension without mirroring, of 64-bit integers, not waiting for full granules, and for KIND 1 and 2 with
DIRECT (R128). -/
def plainRecord (w : BitVec 512) (k : Nat) : Prop :=
  w.toNat % 16 = k ∧ (k ≠ 5 → w.toNat / 16 % 16 = 11) ∧ w.toNat / 2 ^ 12 % 4 = 0 ∧ w.getLsbD 14 = false ∧ w.toNat / 2 ^ 264 % 2 ^ 16 = 0 ∧ (k ≠ 5 → w.getLsbD 339 = true)

/-- A token of a stream in a slot of a port. -/
def sentBy (now : Nat) (tag : BitVec 2) (pay : Payload) (arcs : Arcs) : OutSlot := .full { tag := tag, pay := pay, arcs := arcs } none now

/-- The banks of the 8 bytes at `a` have not served a request in this cycle (R126). -/
def banksIdle (s : State) (m : MTile) (a : Nat) : Prop := ∀ b c, b = a / 32768 ∨ b = (a + 7) / 32768 → SMap.find? m.banks b = some c → c < s.cycle

/-- What a region has written, or read, through the stream port that a record names: PTILE and SPORT (R131). -/
def portPairs (r : Region) (w : BitVec 512) (wr : Bool) : List Rng :=
  (r.spairs.filter (fun p => decide (p.port = w.toNat / 2 ^ 332 % 2 ^ 5 * 4 + w.toNat / 2 ^ 337 % 4 ∧ p.write = wr))).map StreamPair.rng

/-- No bank of the tile has served a request in this cycle (R126). -/
def unserved (s : State) (m : MTile) : Prop := ∀ b c, SMap.find? m.banks b = some c → c < s.cycle

/-- COUNT0 of a record. -/
def count0 (w : BitVec 512) : Nat := w.toNat / 2 ^ 72 % 2 ^ 16

/-- Every SRAM byte outside `n` bytes at an offset of a tile is as before. -/
def SramSame (s t : State) (tile a n : Nat) : Prop :=
  Memory.wf s.sram = true → ∀ k, (k < sramKey tile a ∨ sramKey tile a + n ≤ k) → SMap.read 0 t.sram k = SMap.read 0 s.sram k

/-- Granule `k` lies in the object at an offset of a tile, and its bytes in `bs` are not those that the tile holds. -/
def changedGranule (s : State) (tile off : Nat) (bs : List Byte) (k : Nat) : Bool :=
  decide (off ≤ 16 * k ∧ 16 * k + 16 ≤ off + bs.length) && s.sramBytes tile (16 * k) 16 != (bs.drop (16 * k - off)).take 16

/-- `t` differs from `s` in one tile, in SRAM and in what regions' status records say. -/
def OnlyTile (s t : State) (n : Nat) : Prop :=
  t = { s with tiles := t.tiles, sram := t.sram, full := t.full, regions := t.regions } ∧ (∀ y, y ≠ n → t.tile? y = s.tile? y)
    ∧ ∀ k, (t.region? k).map (fun r => { r with setNow := 0 }) = (s.region? k).map (fun r => { r with setNow := 0 })

end Sys2Proof.Claims

/-! ## Streams -/

/-- STREAM_READ_TOKEN on a stream of 64-bit integers in the SRAM of its tile: the next element is one data token of the bound port, the index goes on, and
SRAM stays. STREAM_WRITE_TOKEN: the head token of the bound queue goes to the place of the next element, and no other byte of SRAM changes.
STREAM_COMPLETE: a stream with COMP set sends the count of the elements that it has moved; the pair of the stream port of a global store (KIND 4) enters the
region's write log, that of a global load (KIND 3) its read log, and a stream on SRAM enters none (R129, R131). -/
def Obligations.StreamsMoveTokens : Prop :=
  ∀ (s : State) (n : Nat) (g : Fin 4) (x : Tile) (m : MTile) (r : Region),
    let z := m.gens.get g
    let w := m.recs.get g
    let u := z.tuple.getD 0 0
    let o : Fin 4 := ⟨m.ctrl.toNat / 2 ^ (36 + 2 * g.val) % 4, Nat.mod_lt _ (by decide)⟩
    let q : Fin 4 := ⟨m.ctrl.toNat / 2 ^ (28 + 2 * g.val) % 4, Nat.mod_lt _ (by decide)⟩
    (∀ a : Nat, Generating s n g x m r → plainRecord w 1 → x.opKind.getLsbD o.val = false → z.pendTok = [] → (x.op.get o).length < 2 →
      u < count0 w → nextPlace w u = a → a + 8 ≤ 2 ^ 19 → banksIdle s m a → z.tuple ≠ [] →
      ∃ t v, exec (.streamReadToken n g) s = .next t ∧ OnlyTile s t n ∧ t.sram = s.sram ∧ t.full = s.full ∧
        t.tile? n = some { x with
          op := x.op.set o.val (x.op.get o ++ [sentBy s.cycle 0 (.s (BitVec.ofNat 64 (leNat (s.sramBytes n a 8)))) z.arcs]) o.isLt
          mem := some v } ∧
        (∀ j, j ≠ g → v.gens.get j = m.gens.get j) ∧ (v.gens.get g).moved = z.moved + 1 ∧
        (if u + 1 < count0 w then (v.gens.get g).tuple.head? = some (u + 1) ∧ (v.gens.get g).st = .running ∧ (v.gens.get g).pendTok = []
         else (v.gens.get g).st = .endPass ∧ (v.gens.get g).pendTok = if w.getLsbD 331 then
          [{ tag := 1, pay := .s (BitVec.ofNat 64 (z.runTokens + 1)), arcs := z.arcs }] else [])) ∧
    (∀ (a : Nat) (k : Token) rest, Generating s n g x m r → plainRecord w 2 → x.iqKind.getLsbD q.val = false → m.qStop.getLsbD q.val = false →
      x.iq.get q = k :: rest → k.tag = 0 → k.side = .none → k.log = none → z.tuple ≠ [] → u < count0 w → nextPlace w u = a → a + 8 ≤ 2 ^ 19 →
      banksIdle s m a →
      ∃ t v, exec (.streamWriteToken n g) s = .next t ∧ OnlyTile s t n ∧ SramSame s t n a 8 ∧
        (Memory.wf s.sram = true → t.sramBytes n a 8 = leBytes 8 k.pay.word.toNat) ∧
        t.tile? n = some { x with iq := x.iq.set q.val rest q.isLt, mem := some v } ∧ (∀ j, j ≠ g → v.gens.get j = m.gens.get j) ∧
        (v.gens.get g).moved = z.moved + 1 ∧ (v.gens.get g).tuple = if u + 1 < count0 w then modifyAt z.tuple 0 (· + 1) else []) ∧
    (∀ due, s.tile? n = some x → x.mem = some m → s.region? x.region = some r → r.num = x.region → z.st = .finishing due → due ≤ s.cycle →
      (let p : Fin 4 := ⟨w.toNat / 2 ^ 329 % 4, Nat.mod_lt _ (by decide)⟩
       (w.getLsbD 328 = true → (x.op.get p).length < 2) →
       ∃ t, exec (.streamComplete n g) s = .next t ∧ t = { s with tiles := t.tiles, regions := t.regions } ∧ (∀ y, y ≠ n → t.tile? y = s.tile? y) ∧
         t.tile? n = some { x with
           op := if w.getLsbD 328 then x.op.set p.val (x.op.get p ++ [sentBy s.cycle 0 (kindPay (x.opKind.getLsbD p.val) (BitVec.ofNat 64 z.moved))
             (z.arcs.join { writes := z.wr.toList })]) p.isLt else x.op
           mem := some { m with gens := m.gens.set g.val { z with st := .complete, wr := none, rd := none } g.isLt } } ∧
         t.region? x.region = some { r with
           wlog := if w.toNat % 16 = 4 then addRngs 64 r.wlog (portPairs r w true) else r.wlog
           rlog := if w.toNat % 16 = 3 then addRngs 64 r.rlog (portPairs r w false) else r.rlog } ∧
         ∀ k, k ≠ x.region → t.region? k = s.region? k))

/-- REDUCE_CONTRIBUTION in arrival mode: the place of the next element takes the W40 sum of what it held and the token's lane (R117, R123).
SUMMARY_INSERT: the object at BASE becomes what the insert of the token's lanes makes of it, and the unit is held for 2 cycles of each level compacted
(R181), the granules that it changes becoming full (log 96). TOPK_INSERT: an entry that fits enters the list in the order of R223. WALK_REQUEST: a request without a fault starts its walk, and ends it with
end-of-pass, the counts of what it has made and not found as payload (R219, R220). -/
def Obligations.UnitsTakeTokens : Prop :=
  ∀ (s : State) (n : Nat) (g : Fin 4) (x : Tile) (m : MTile) (r : Region) (k : Token) (rest : List Token),
    let z := m.gens.get g
    let w := m.recs.get g
    let base := (w.extractLsb' 16 56).toNat
    let q : Fin 4 := ⟨m.ctrl.toNat / 2 ^ (28 + 2 * g.val) % 4, Nat.mod_lt _ (by decide)⟩
    let o : Fin 4 := ⟨m.ctrl.toNat / 2 ^ (36 + 2 * g.val) % 4, Nat.mod_lt _ (by decide)⟩
    let took (t : State) (f : Gen → Prop) : Prop := ∃ v, t.tile? n = some { x with iq := x.iq.set q.val rest q.isLt, mem := some v } ∧
      (∀ j, j ≠ g → v.gens.get j = m.gens.get j) ∧ f (v.gens.get g)
    Generating s n g x m r → x.iq.get q = k :: rest → k.side = .none → k.log = none → m.qStop.getLsbD q.val = false → k.tag = 0 →
    (∀ a : Nat, plainRecord w 5 → w.toNat / 16 % 16 = 1 → z.walk = none → z.tuple ≠ [] → m.ctrl.toNat / 2 ^ 22 % 4 = 1 → x.iqKind.getLsbD q.val = false →
      z.tuple.getD 0 0 < count0 w → nextPlace w (z.tuple.getD 0 0) = a → a + 8 ≤ 2 ^ 19 → banksIdle s m a →
      ∃ t, exec (.reduceContribution n g) s = .next t ∧ OnlyTile s t n ∧ SramSame s t n a 8 ∧
        (Memory.wf s.sram = true → t.sramBytes n a 8 =
          leBytes 8 (fAdd (BitVec.ofNat 40 (leNat (s.sramBytes n a 8))) (w40 (unpack (k.pay.word.setWidth 40))).1).1.toNat) ∧
        took t (fun z' => z'.moved = z.moved + 1)) ∧
    (∀ kind, w.toNat % 16 = 6 → base % 256 = 0 → base + 4096 ≤ 2 ^ 19 → m.unitBusy ≤ s.cycle → sumKind (s.sramBytes n base 4096) = some kind →
      sumValid (s.sramBytes n base 4096) kind = true → unserved s m →
      (let y := sumInsert kind (s.sramBytes n base 4096) (if x.iqKind.getLsbD q.val then (List.range 16).map k.pay.vec.lane else [k.pay.word.setWidth 40])
       ∃ t, exec (.summaryInsert n g) s = .next t ∧ OnlyTile s t n ∧ (Memory.wf s.sram = true → t.sramBytes n base 4096 = y.1 ∧ SramSame s t n base 4096) ∧
         (SMap.wf false s.full = true → ∀ k, t.isFull n k = (changedGranule s n base y.1 k || s.isFull n k)) ∧
         (t.mem? n).map (fun v => v.unitBusy) = some (s.cycle + 1 + 2 * y.2.2.2) ∧ took t (fun z' => z'.moved = z.moved + y.2.2.1))) ∧
    (∀ b K (xs : List (Lane × Nat)), w.toNat % 16 = 7 → m.tkBusy ≤ s.cycle → m.topk = some b → x.iqKind.getLsbD q.val = false →
      s.tkEntries n b.off = (K, xs) → xs.length < K → unserved s m →
      (let score : Lane := k.pay.word.setWidth 40
       let id := k.pay.word.toNat / 2 ^ 40
       nonCanonical score = false → score ≠ nanW → (∀ y ∈ xs, y.2 ≠ id) →
       ∃ t, exec (.topkInsert n g) s = .next t ∧ OnlyTile s t n ∧
         (t.sram, t.full) = ((s.putTk n b.off (sortBy tkBefore (xs ++ [(score, id)]))).sram, (s.putTk n b.off (sortBy tkBefore (xs ++ [(score, id)]))).full) ∧
         (t.mem? n).map (fun v => v.tkBusy) = some (s.cycle + 1) ∧ took t (fun z' => z'.moved = z.moved + 1))) ∧
    (w.toNat % 16 = 8 →
      (z.walk = none → x.opKind.getLsbD o.val = true → (∀ j, j < 5 → (k.pay.vec.lane j).toNat < 2 ^ ([40, 24, 32, 16, 9].getD j 0)) →
        (∀ j, 5 ≤ j → j < 16 → k.pay.vec.lane j = 0) → k.pay.vec.lane 3 ≠ 0 →
        ∃ t, exec (.walkRequest n g) s = .next t ∧ OnlyTile s t n ∧ t.sram = s.sram ∧ t.regions = s.regions ∧
          took t (fun z' => ∃ arcs, z'.walk = some ⟨k.pay.vec, 0, 0, 0, arcs, []⟩)) ∧
      (∀ p, z.walk = some p → p.pend = [] → (p.lanes.lane 3).toNat ≤ p.slot → (x.op.get o).length < 2 →
        ∃ t v, exec (.walkRequest n g) s = .next t ∧ OnlyTile s t n ∧ t.sram = s.sram ∧ t.regions = s.regions ∧
          t.tile? n = some { x with
            op := x.op.set o.val (x.op.get o ++ [sentBy s.cycle 2
              (kindPay (x.opKind.getLsbD o.val) (BitVec.ofNat 64 (p.made % 2 ^ 32 + p.gone % 2 ^ 32 * 2 ^ 32))) p.arcs]) o.isLt
            mem := some v } ∧
          v.gens.get g = { z with walk := none } ∧ ∀ j, j ≠ g → v.gens.get j = m.gens.get j))

namespace Sys2Proof.Claims
open Sys2Proof.Machine

/-- Every request but one is as before. -/
def OtherReqs (s t : State) (r : Req) : Prop := ∀ i, i ≠ r.id → t.req? i = s.req? i

/-- A request that has reached its unit, the oldest of its element. -/
structure Waiting (s : State) (r : Req) : Prop where
  found : s.req? r.id = some r
  due : r.due ≤ s.cycle
  oldest : ∀ o ∈ s.reqs, o.tile = r.tile → r.id ≤ o.id

/-- `t` is what the service of a request at memory tile `n` makes of `s`: requests, tile `n`, SRAM and full-empty bits may differ, nothing else. -/
structure ServedAt (s t : State) (r : Req) (n : Nat) : Prop where
  frame : t = { s with reqs := t.reqs, tiles := t.tiles, sram := t.sram, full := t.full }
  reqs : OtherReqs s t r
  tiles : ∀ y, y ≠ n → t.tile? y = s.tile? y

/-- The bytes that an LDS reads, as its reply queue takes them: 80 for a vector queue, 8 for a scalar queue (R323). -/
def ldsPay (s : State) (r : Req) (n a : Nat) : Payload :=
  if s.vectorQueue r.tile r.q then .v (bytesVec (s.sramBytes n a 80)) else .s (BitVec.ofNat 64 (leNat (s.sramBytes n a 8)))

/-- The size of an LDS, an LDG or an LDW. -/
def ldsBytes (s : State) (r : Req) : Nat := if s.vectorQueue r.tile r.q then 80 else 8

/-- The bytes of global memory that a request's task sees, as its reply queue takes them (R166, R321). -/
def seenPay (s : State) (r : Req) (k : Nat) : Payload :=
  let bs (n : Nat) := s.seen (tileDie r.tile) (s.orderedTask r.task) k n
  if s.vectorQueue r.tile r.q then .v (bytesVec (bs 80)) else .s (BitVec.ofNat 64 (leNat (bs 8)))

/-- The kind and the request of a SINIT. -/
def sinitKind (i : Instr) : Option SumKind :=
  match i with
  | .sinitQs _ _ _ => some .qs
  | .sinitHh _ _ _ => some .hh
  | .sinitDc _ _ _ => some .dc
  | _ => none

/-- The Solder unit of a die is busy for `n` cycles with a request, and its answer stands in the reply queue then (R53, R354). -/
def SolderAnswered (s t : State) (die : Fin 4) (r : Req) (n : Nat) (w : Word) (fault : Bool) : Prop :=
  t = { s with reqs := t.reqs, solderBusy := s.solderBusy.set die.val (s.cycle + n) die.isLt } ∧ OtherReqs s t r ∧
    t.req? r.id = if r.q = none then none else some { r with st := .done ⟨.s w, fault, none, r.arcs⟩, due := s.cycle + n }

/-- `n` bytes at a key lie in the memory of one package (R239). -/
def onePackage (k n : Nat) : Prop := (k + n - 1) / 2 ^ 40 = k / 2 ^ 40 ∧ k + n ≤ 2 ^ 51

/-- No port cache holds committed contents of ordered tasks that wait to be written back (R134, R167). -/
def nothingCommitted (s : State) : Prop := ∀ e ∈ s.lines, ∀ i : Fin 4, (e.2.secs.get i).com = 0

/-- What an atomic writes (R288, R291): f of the old value, b and, for ACAS, the new value. -/
def atomicResult (i : Instr) (old b c : Word) : Word :=
  match i with
  | .aadd _ _ _ _ => BitVec.ofNat 64 (old.toNat + b.toNat)
  | .afadd _ _ _ _ => BitVec.ofNat 64 (fp32.pack (rneFp32 (Machine.Num.add (fp32.unpack old.toNat) (unpack (b.setWidth 40))).1).1)
  | .amin _ _ _ _ => if b.toInt < old.toInt then b else old
  | .amax _ _ _ _ => if old.toInt < b.toInt then b else old
  | .aand _ _ _ _ => old &&& b
  | .aor _ _ _ _ => old ||| b
  | .axor _ _ _ _ => old ^^^ b
  | .aswp _ _ _ _ => b
  | .acas _ _ _ _ => if old = b then c else old
  | _ => old

/-- An object of the table with a handle that names it (R147, R148): in STATE 1, with the entry's GEN and KIND. -/
structure Named (s : State) (i e : Nat) (h : Word) (strong : Bool) : Prop where
  index : 0 < i ∧ i < s.regs.objcnt ∧ i < 2 ^ 32
  entry : s.obj i = e
  live : e / 2 ^ 128 % 4 = 1
  handle : h.toNat = i + e / 2 ^ 144 % 2 ^ 16 * 2 ^ 32 + e / 2 ^ 134 % 2 ^ 8 * 2 ^ 48 + strong.toNat * 2 ^ 56

end Sys2Proof.Claims

/-! ## Units that serve requests -/

/-- TILE_REQUEST_SERVE, LDS_RELEASE and SUMMARY_OP_SERVE, where the banks have served nothing in this cycle and no older access of the element is on its way:
LDS.N reads at once; LDS.W and LDS.WC wait while a granule is empty, and LDS.WC empties what it has read; STS writes its bytes and fills their granules; FEOP
sets or empties its granule; SINIT writes a new object of its kind and holds the unit for 16 cycles. The reply takes
the transit of R126 at least (R125, R126, R127, R180, R310, R323, R368). -/
def Obligations.TileRequestsAreServed : Prop :=
  ∀ (s : State) (r : Req) (n : Nat) (m : MTile), Waiting s r → s.reqTile r = some n → s.mem? n = some m →
    unserved s m → (∀ e, s.elem? r.tile = some e → e.mat.gaddr.length ≤ e.mat.garrived) →
    let a := r.x.toNat % 2 ^ 19
    (∀ d q b, r.st = .sent → r.op = .ldsN d q b ∨ r.op = .ldsW d q b ∧ (∀ g ∈ granules a (ldsBytes s r), s.isFull n g = true) → ∃ t, exec (.tileRequestServe r.id) s = .next t ∧ ServedAt s t r n ∧ t.sram = s.sram ∧ t.full = s.full ∧
      Answered t r (ldsPay s r n a) none (s.cycle + transit r.tile n)) ∧
    (∀ d q b, r.st = .sent → r.op = .ldsW d q b ∨ r.op = .ldsWc d q b → (∃ g ∈ granules a (ldsBytes s r), s.isFull n g = false) →
      ∃ t, exec (.tileRequestServe r.id) s = .next t ∧ ServedAt s t r n ∧ t.sram = s.sram ∧ t.full = s.full ∧ t.req? r.id = some { r with st := .waiting }) ∧
    (∀ d q b, r.st = .waiting → r.op = .ldsWc d q b → (∀ g ∈ granules a (ldsBytes s r), s.isFull n g = true) → SMap.wf false s.full = true →
      ∃ t, exec (.ldsRelease r.id) s = .next t ∧ ServedAt s t r n ∧ t.sram = s.sram ∧ Answered t r (ldsPay s r n a) none (s.cycle + transit r.tile n) ∧
        ∀ g, t.isFull n g = if g ∈ granules a (ldsBytes s r) then false else s.isFull n g) ∧
    (∀ d q b c, r.st = .sent → r.op = .sts d q b c → Memory.wf s.sram = true → SMap.wf false s.full = true →
      ∃ t, exec (.tileRequestServe r.id) s = .next t ∧ ServedAt s t r n ∧ Answered t r (.s 0) none (s.cycle + transit r.tile n) ∧
        t.sramBytes n a r.pay.bytes.length = r.pay.bytes ∧ SramSame s t n a r.pay.bytes.length ∧
        ∀ g, t.isFull n g = if g ∈ granules a r.pay.bytes.length then true else s.isFull n g) ∧
    (∀ d b p on, r.st = .sent → r.op = (if on then .feopSet d b p else .feopClr d b p) → r.y = 1 → r.banked = [] → SMap.wf false s.full = true →
      ∃ t, exec (.tileRequestServe r.id) s = .next t ∧ ServedAt s t r n ∧ t.sram = s.sram ∧ Answered t r (.s 1) none (s.cycle + 1 + transit r.tile n) ∧
        ∀ g, t.isFull n g = if g = a / 16 then on else s.isFull n g) ∧
    (∀ k, r.st = .sent → sinitKind r.op = some k → m.unitBusy ≤ s.cycle → Memory.wf s.sram = true →
      ∃ t, exec (.summaryOpServe r.id) s = .next t ∧ ServedAt s t r n ∧ Answered t r (.s r.x) none (s.cycle + 16 + transit r.tile n) ∧
        t.sramBytes n a 4096 = sumInit k r.y ∧ SramSame s t n a 4096 ∧ (t.mem? n).map MTile.unitBusy = some (s.cycle + 16))

/-- HOME_PORT_SERVE: HDUP counts one holder more, HREL one less and notes the epoch, HUPG makes a weak handle strong, HPRIO sets the priority, HINFO gives size,
count and priority, LDW the object's bytes; no other byte at the entry's home changes, the home port's handle cache takes the entry, and the reply takes 12 cycles at least
(R132, R148, R150 to R156, R316, R325). The table lies in the package's own memory, as OBJTAB's local address says (R148). -/
def Obligations.HandlesAreServed : Prop :=
  ∀ (s : State) (r : Req) (i e : Nat) (strong : Bool), Waiting s r → r.st = .sent → Memory.wf s.hbm = true → s.objKey i + 32 ≤ 2 ^ 40 → Named s i e r.x strong →
    let count := e / 2 ^ 104 % 2 ^ 24
    let home (t : State) : Prop := (∀ p, p ≠ s.entryPort r i → t.portTile p = s.portTile p) ∧ i ∈ (t.portTile (s.entryPort r i)).handles ∧
      { t.portTile (s.entryPort r i) with handles := [] } = { s.portTile (s.entryPort r i) with handles := [] }
    let frame (t : State) : Prop := OtherReqs s t r ∧ Accessed { s with reqs := t.reqs, ports := t.ports } t ∧ t.relRecs = s.relRecs ∧ home t ∧
      ∀ k, k < 2 ^ 51 → (k < s.objKey i ∨ s.objKey i + 32 ≤ k) → t.homeByte k = s.homeByte k
    (∀ d q b, r.op = .hdup d q b → strong = true → count < 2 ^ 24 - 1 →
      ∃ t, exec (.homePortServe r.id) s = .next t ∧ frame t ∧ t.obj i = e + 2 ^ 104 ∧ Answered t r (.s r.x) none (s.cycle + 12)) ∧
    (∀ d q b, r.op = .hrel d q b → strong = true → 0 < count →
      ∃ t, exec (.homePortServe r.id) s = .next t ∧ frame t ∧ t.obj i % 2 ^ 104 = e % 2 ^ 104 ∧ t.obj i / 2 ^ 104 % 2 ^ 24 = count - 1 ∧
        t.obj i / 2 ^ 128 % 2 ^ 32 = e / 2 ^ 128 % 2 ^ 32 ∧ t.obj i / 2 ^ 160 % 2 ^ 32 = s.epoch.toNat ∧ t.obj i / 2 ^ 192 = e / 2 ^ 192 ∧
        Answered t r (.s (BitVec.ofNat 64 (count - 1))) none (s.cycle + 12)) ∧
    (∀ d q b n, r.op = .hupg d q b n → count < 2 ^ 24 - 1 →
      ∃ t, exec (.homePortServe r.id) s = .next t ∧ frame t ∧ t.obj i % 2 ^ 104 = e % 2 ^ 104 ∧ t.obj i / 2 ^ 104 % 2 ^ 24 = count + 1 ∧
        t.obj i / 2 ^ 128 % 2 ^ 32 = e / 2 ^ 128 % 2 ^ 32 ∧ t.obj i / 2 ^ 160 % 2 ^ 32 = s.epoch.toNat ∧ t.obj i / 2 ^ 192 = e / 2 ^ 192 ∧
        Answered t r (.s (r.x ||| BitVec.ofNat 64 (2 ^ 56))) (some false) (s.cycle + 12)) ∧
    (∀ d q b (n : Fin 16), r.op = .hprio d q b n →
      ∃ t, exec (.homePortServe r.id) s = .next t ∧ frame t ∧ t.obj i % 2 ^ 130 = e % 2 ^ 130 ∧ t.obj i / 2 ^ 130 % 2 ^ 4 = n.val ∧ t.obj i / 2 ^ 134 = e / 2 ^ 134 ∧
        Answered t r (.s 1) none (s.cycle + 12)) ∧
    (∀ d q b, r.op = .hinfo d q b →
      ∃ t, exec (.homePortServe r.id) s = .next t ∧ frame t ∧ t.hbm = s.hbm ∧ t.lines = s.lines ∧
        Answered t r (.s (BitVec.ofNat 64 (e / 2 ^ 64 % 2 ^ 40 / 2 ^ 8 + count * 2 ^ 36 + e / 2 ^ 130 % 2 ^ 4 * 2 ^ 60))) none (s.cycle + 12)) ∧
    (∀ d q a b k, r.op = .ldw d q a b → k = domKey (e % 2 ^ 50) + r.y.toNat → r.y.toNat % (if s.vectorQueue r.tile r.q then 16 else 8) = 0 →
      r.y.toNat + ldsBytes s r ≤ e / 2 ^ 64 % 2 ^ 40 →
      ∃ t, exec (.homePortServe r.id) s = .next t ∧ OtherReqs s t r ∧ Accessed { s with reqs := t.reqs, ports := t.ports, regions := t.regions } t ∧ t.relRecs = s.relRecs ∧
        home t ∧ (∀ n, n ≠ r.region → t.region? n = s.region? n) ∧
        Answered t r (seenPay s r k) (some false) (s.cycle + 12))

/-- RANGE_UNIT_SERVE grants the next chunk of R41 and says that the range is over to a consumer that has had an empty one; CSLOT_END answers with the
cycles that the slot has lasted (R41, R302, R364). -/
def Obligations.ChunksAreGranted : Prop :=
  ∀ (s : State) (r : Req), s.req? r.id = some r →
    (∀ d q p g u, r.op = .rnext d q p → r.st = .sent → r.due ≤ s.cycle → s.region? r.region = some g → g.ru = some u → r.q ≠ none →
      let who := ((tileY r.tile - g.y0) * 48 + (tileX r.tile - g.x0)) * 4 + r.ctx.val
      let left := u.last - u.next
      let n := min left (max u.minChunk ((left + u.p * u.f - 1) / (u.p * u.f)))
      ∃ t, exec (.rangeUnitServe r.id) s = .next t ∧ t = { s with reqs := t.reqs, regions := t.regions, freeCtr := t.freeCtr } ∧ OtherReqs s t r ∧
        (∀ k, k ≠ r.region → t.region? k = s.region? k) ∧
        (0 < left → t.region? r.region = some { g with ru := some { u with next := u.next + n } } ∧
          Answered t r (.v (rangeVec u.next n)) (some false) (s.cycle + 12)) ∧
        (left = 0 → (∃ zs, t.region? r.region = some { g with ru := some { u with zeros := zs } } ∧ who ∈ zs ∧ ∀ x ∈ u.zeros, x ∈ zs) ∧
          Answered t r (.v (rangeVec u.last 0)) (some (u.zeros.contains who)) (s.cycle + 12))) ∧
    (∀ n x e c, s.tile? n = some x → x.elem = some e → e.cslot = some c → c.rq = r.id → c.running = true → c.len ≤ s.cycle - c.start + 1 →
      ∃ t, exec (.cslotEnd n) s = .next t ∧ t = { s with reqs := t.reqs, tiles := t.tiles } ∧ OtherReqs s t r ∧ (∀ y, y ≠ n → t.tile? y = s.tile? y) ∧
        t.tile? n = some { x with elem := some { e with cslot := none } } ∧
        Answered t r (.s (BitVec.ofNat 64 (s.cycle - c.start + 1))) none (s.cycle + 1))

/-- SOLDER_SERVE: the unit of a die serves the only request that waits at it: PCOST and PIFACE give a word of the plan in 20 cycles; PFREE takes a plan of its
own out of use in 20 and answers 1 (for an ordered task when this commits), through a handle with LIB set or for a plan of the library it changes nothing and answers 0; a composition takes 20 cycles and 2 for each joint, and gives the new plan's handle, or
at the joint that does not match the mismatch word in a fault token (R53, R344, R345, R348, R349, R354). -/
def Obligations.PlansAreServed : Prop :=
  ∀ (s : State) (die : Fin 4) (r : Req) (i : Nat) (e : PlanEnt) (p : Plan), s.req? r.id = some r → r.st = .sent → r.due ≤ s.cycle → tileDie r.tile = die.val →
    (∀ o ∈ s.reqs, tileDie o.tile = die.val → o = r) → s.solderBusy.get die ≤ s.cycle → s.planOf r.x = some (i, e, p) →
    (∀ d q a, r.op = .pcost d q a → ∃ t, exec (.solderServe die) s = .next t ∧ SolderAnswered s t die r 20 p.cost false) ∧
    (∀ d q n w, r.op = .piface d q n → p.word r.y.toNat = some w →
      ∃ t, exec (.solderServe die) s = .next t ∧ SolderAnswered s t die r 20 (BitVec.ofNat 64 w) false) ∧
    (∀ d q a, r.op = .pfree d q a →
      (e.lib ≠ none ∨ r.x.getLsbD 32 = true → ∃ t, exec (.solderServe die) s = .next t ∧ SolderAnswered s t die r 20 0 false) ∧
      (e.lib = none → r.x.getLsbD 32 = false →
        (s.orderedTask r.task = none → ∃ t u, exec (.solderServe die) s = .next t ∧ SolderAnswered u t die r 20 1 false ∧
          Accessed { s with plans := u.plans } u ∧ u.relRecs = s.relRecs ∧ u.freeCtr = s.freeCtr ∧ ∃ x, SMap.find? u.plans i = some x ∧ x.gen = e.gen + 1) ∧
        (∀ k x, s.orderedTask r.task = some k → s.task? k = some x → ∃ t u, exec (.solderServe die) s = .next t ∧ SolderAnswered u t die r 20 1 false ∧
          u = { s with tasks := u.tasks } ∧ u.task? k = some { x with frees := x.frees ++ [i] } ∧ ∀ j, j ≠ k → u.task? j = s.task? j))) ∧
    (∀ d q a b j e' p', r.op = .pseq d q a b → s.planOf r.y = some (j, e', p') →
      (∀ m, compose .pseq p p' = .error m →
        ∃ t, exec (.solderServe die) s = .next t ∧ SolderAnswered s t die r (20 + 2 * m.joints) (misWord 0 0 m) true) ∧
      (∀ c n k u x, compose .pseq p p' = .ok (c, n) → s.newPlan c [i, j] (s.orderedTask r.task) none = some (k, u) → SMap.find? u.plans k = some x →
        ∃ t, exec (.solderServe die) s = .next t ∧ SolderAnswered u t die r (20 + 2 * n) (x.handle k) false))

/-- PORT_ACCESS, where the port tile that faces the element's row has given nothing in this cycle: an LDG in one piece of memory gives the bytes that its task sees;
an STG of an unordered task puts its bytes into the port cache of its die, or at once into uncached host memory; an atomic goes to its home. The port tile gives its access of
the cycle. With room in the caches, and nothing committed that waits to be written back, nothing else changes. ATOMIC_PERFORM: the word at its home takes the result of the operation and the
reply the old value. QUANTUM_REFRESH: a replica takes what its home holds (R132 to R134, R145, R172, R239, R288, R291, R322, R372). -/
def Obligations.PortsAccessMemory : Prop :=
  ∀ (s : State) (r : Req) (g : Region), Waiting s r → r.st = .sent → s.region? r.region = some g → r.withheld = none →
    let die := tileDie r.tile
    let pt := s.portAt die (16 + tileY r.tile / 2)
    let entries := g.entries (16 + tileY r.tile / 2) 0
    let task := s.orderedTask r.task
    let bytes := r.pay.bytes
    let frame (t : State) : Prop := OtherReqs s t r ∧ Accessed { s with reqs := t.reqs, regions := t.regions, ports := t.ports } t ∧
      (∀ n, n ≠ r.region → t.region? n = s.region? n) ∧ ∃ g', t.region? r.region = some g' ∧ { g' with pairs := g.pairs, reuse := g.reuse } = g
    let served (t : State) : Prop := (s.portTile pt).served ≠ some s.cycle ∧ (t.portTile pt).served = some s.cycle ∧
      (∃ l, t.portTile pt = { s.portTile pt with served := some s.cycle, last := l }) ∧ ∀ p, p ≠ pt → t.portTile p = s.portTile p
    let room : Prop := ∀ l, (s.sameSet die l).length < 15
    ((s.portTile pt).served ≠ some s.cycle → r.pa = none →
      (∀ d q a k, r.op = .ldg d q a →
        s.pieces (some pt) entries r.x.toNat (ldsBytes s r) (if s.vectorQueue r.tile r.q then 16 else 8) .rd = .ok [(k, ldsBytes s r, none)] →
        ∃ t, exec (.portAccess r.id) s = .next t ∧ frame t ∧ served t ∧ t.relRecs = s.relRecs ∧ Answered t r (seenPay s r k) none (s.cycle + 16) ∧
          (room → t.hbm = s.hbm ∧ ∀ j, t.dieByte die j = s.dieByte die j)) ∧
      (∀ d q a b k, r.op = .stg d q a b → task = none → s.pend = [] → room → 0 < bytes.length → bytes.length ≤ 80 → onePackage k bytes.length → Memory.wf s.hbm = true →
        s.pieces (some pt) entries r.x.toNat bytes.length (if bytes.length = 80 then 16 else 8) .wr = .ok [(k, bytes.length, none)] →
        ∃ t, exec (.portAccess r.id) s = .next t ∧ frame t ∧ served t ∧ Answered t r (.s 0) none (s.cycle + 16) ∧
          (∀ j, j < bytes.length → some (t.dieByte die (k + j)) = bytes[j]?) ∧
          (isIo k = false → nothingCommitted s → t.hbm = s.hbm ∧ ∀ j, (memKey j < k ∨ k + bytes.length ≤ memKey j) → t.dieByte die j = s.dieByte die j)) ∧
      (∀ o k n, atOrd r.op = some o → (accessOf s r).1 = n → s.pieces (some pt) entries r.x.toNat n n .atom = .ok [(k, n, none)] → noPath k o = false →
        o ≠ .relaxed .commutative ∨ task = none →
        ∃ t due, exec (.portAccess r.id) s = .next t ∧ frame t ∧ served t ∧ s.cycle ≤ due ∧ t.hbm = s.hbm ∧ t.req? r.id = some { r with pa := some k, due := due })) ∧
    (∀ k o, atOrd r.op = some o → o ≠ .relaxed .quantum → r.pa = some k → task = none → s.lines = [] → Memory.wf s.hbm = true →
      let n := match r.op with | .afadd _ _ _ _ => 4 | _ => 8
      let old : Word := BitVec.ofNat 64 (s.homeWord k n)
      onePackage k n →
      ∃ t, exec (.atomicPerform r.id) s = .next t ∧ frame t ∧ t.ports = s.ports ∧ t.homeWord k n = (atomicResult r.op old r.y r.z).toNat % 2 ^ (8 * n) ∧
        (∀ j, (memKey j < memKey k ∨ memKey k + n ≤ memKey j) → t.homeByte j = s.homeByte j) ∧
        Answered t r (.s (match r.op with | .afadd _ _ _ _ => (loadElem 1 old.toNat).1.setWidth 64 | _ => old)) none (s.cycle + 12)) ∧
    (∀ (d : Fin 4) k, exec (.quantumRefresh d k) s = .next { s with
      replicas := SMap.put s.replicas (d.val * 2 ^ 56 + k / 8 * 8) ⟨BitVec.ofNat 64 (s.homeWord (k / 8 * 8) 8), s.cycle⟩ })

namespace Sys2Proof.Claims
open Sys2Proof.Machine

/-- Byte `k` lies outside `n` bytes at `a`. -/
def outside (a n k : Nat) : Prop := k < a ∨ a + n ≤ k

/-- The byte of a memory. -/
def byteOf (m : SMap Byte) (k : Nat) : Byte := SMap.read 0 m k

/-- A microsecond of the reference timer (R138). -/
def aMicrosecond : Nat := 50 * 232792560

/-- No port tile's page-translation cache keeps an entry, and nothing else of a port tile has changed (R137). -/
def entryDropped (s t : State) (pte : Nat) : Prop :=
  ∀ p, t.portTile p = { s.portTile p with tlb := (s.portTile p).tlb.filter (fun e => decide (e.1 ≠ pte)) }

/-- The element has halted with nothing in progress (R207). -/
def stoodStill (s : State) (e : Elem) : Prop := (∃ c, e.haltAt = some c ∧ c ≤ s.cycle) ∧ e.due = [] ∧ e.mat.outs = [] ∧ e.cslot = none

/-- Everything in a tile that a retirement waits for is over: no request token in a port, no stream that has not closed, no row to gather, no panel to clear (R39). -/
def allDone (t : Tile) : Prop :=
  (∀ q, t.op.get q = []) ∧ (∀ m g, t.mem = some m → (m.gens.get g).st = .complete ∨ (m.gens.get g).st = .closed) ∧
    ∀ e, t.elem = some e → e.mat.gaddr = [] ∧ e.mat.zb = false

/-- A packet has ended with a record that says so. -/
def recorded (t : State) (p : Nat) (f : Record → Prop) : Prop := ∃ k x, t.packet? p = some k ∧ k.st = .ended x ∧ f x

/-- A region but for the page that it waits for. -/
def unwaiting (r : Region) : Region := { r with pageWait := none }

/-- The transfers with one changed. -/
def moved (s : State) (id : Nat) (f : Transfer → Transfer) : List Transfer := s.transfers.map (fun x => if x.id = id then f x else x)

end Sys2Proof.Claims

/-! ## Pages, transfers, channels -/

/-- PAGE_FETCH_COMPLETE copies a page from its drive to a frame and sets PRESENT and FRAME. PAGE_EVICT clears PRESENT, once a dirty page has been written
to the drive. PAGE_MIGRATE moves a page to another package's memory if its migration record, behind its page table, permits it; an atomic on its way there acts at the new place. No
port's page-translation cache keeps the entry. A fetch that fails, or takes a second, stops its region with DrainTimeout (R137, R138, R140, R241, R242). -/
def Obligations.PagesMove : Prop :=
  ∀ (s : State), Memory.wf s.hbm = true → Memory.wf s.flash = true →
    (∀ x : Fetch, s.fetches.find? (fun y => y.id == x.id) = some x →
      let e := s.homeWord x.pte 8
      let src := e / 2 ^ 3 % 4 * 2 ^ 60 + (e / 2 ^ 50 % 2 ^ 14 + 2 ^ 14 * s.homeWord (x.tableBase + 8 * x.pages + 4 * x.page) 4) * 4096
      (e % 2 = 0 → e / 2 % 2 = 1 → onePackage x.pte 8 → ∃ t frame, exec (.pageFetchComplete x.id) s = .next t ∧ frame < 2 ^ 35 ∧
        Accessed { s with fetches := s.fetches.filter (fun y => y.id != x.id), regions := t.regions, ports := t.ports } t ∧
        t.freeCtr = s.freeCtr + 1 ∧ t.relRecs = s.relRecs ∧ entryDropped s t x.pte ∧
        (∀ n, (t.region? n).map unwaiting = (s.region? n).map unwaiting) ∧
        (let p := t.homeWord x.pte 8
         p % 8 = 3 ∧ p / 2 ^ 3 % 2 ^ 12 = e / 2 ^ 3 % 2 ^ 12 ∧ p / 2 ^ 15 % 2 ^ 35 = frame ∧ p / 2 ^ 50 = e / 2 ^ 50) ∧
        (∀ j, j < 32768 → outside (memKey x.pte) 8 (domKey (frame * 32768) + j) → byteOf t.hbm (domKey (frame * 32768) + j) = byteOf s.flash (src + j)) ∧
        (∀ k, outside (memKey x.pte) 8 k → outside (domKey (frame * 32768)) 32768 k → byteOf t.hbm k = byteOf s.hbm k)) ∧
      (∀ r i, s.region? x.region = some r → r.num = x.region → r.ended = false → (∀ n, n ≠ x.region → s.region? n = none) →
        (i = .flashFetchError x.id ∨ (i = .flashFetchTimeout x.id ∧ x.since + 1000000 * aMicrosecond ≤ s.time)) →
        ∃ t va, exec i s = .next t ∧ t.fetches = s.fetches.filter (fun y => y.id != x.id) ∧ Stopped s t x.region ⟨11, 0, va⟩) ∧
      (s.time < x.since + 1000000 * aMicrosecond → exec (.flashFetchTimeout x.id) s = .next s)) ∧
    (∀ (pte lba : Nat) (drive : Fin 4), s.lines = [] → s.pend = [] → onePackage pte 8 →
      let e := s.homeWord pte 8
      let k := domKey (e / 2 ^ 15 % 2 ^ 35 * 32768)
      (e % 2 = 0 → exec (.pageEvict pte drive lba) s = .next s) ∧
      (e % 8 = 3 → ∃ t, exec (.pageEvict pte drive lba) s = .next t ∧ Accessed { s with ports := t.ports } t ∧ t.freeCtr = s.freeCtr ∧ t.relRecs = s.relRecs ∧
        entryDropped s t pte ∧ t.homeWord pte 8 = e - 1 ∧ ∀ j, outside (memKey pte) 8 j → byteOf t.hbm j = byteOf s.hbm j) ∧
      (e % 2 = 1 → e % 8 ≠ 3 → ∃ t, exec (.pageEvict pte drive lba) s = .next t ∧ Accessed { s with ports := t.ports, flash := t.flash } t ∧ t.freeCtr = s.freeCtr ∧
        t.relRecs = s.relRecs ∧ entryDropped s t pte ∧
        (∀ j, j < 32768 → byteOf t.flash (drive.val * 2 ^ 60 + lba * 4096 + j) = byteOf s.hbm (k + j)) ∧
        (∀ j, outside (drive.val * 2 ^ 60 + lba * 4096) 32768 j → byteOf t.flash j = byteOf s.flash j) ∧
        (let p := t.homeWord pte 8
         p % 8 = 2 ∧ p / 2 ^ 3 % 4 = drive.val ∧ p / 2 ^ 5 % 2 ^ 45 = e / 2 ^ 5 % 2 ^ 45 ∧ p / 2 ^ 50 = lba % 2 ^ 14))) ∧
    (∀ pte mig dest tb j pages : Nat, s.lines = [] → s.tableOf pte = some (tb, j, pages) → onePackage pte 8 → onePackage mig 8 →
      let e := s.homeWord pte 8
      let m := s.homeWord mig 8
      let same := m / 2 ^ 14 % 2 ^ 32 = s.epoch.toNat
      let old := domKey (e / 2 ^ 15 % 2 ^ 35 * 32768)
      let new := domKey (dest % 2 ^ 35 * 32768)
      let pkg := dest % 2 ^ 35 / 2 ^ 25
      let moves := (if same then m / 2 ^ 10 % 4 else 0) + 1
      let there := pkg ≠ keyPkg old ∧ (pkg = Config.ownPackage ∨ (pkg < Config.domainPackages ∧ pkg < 0x3FE))
      let moved (k : Nat) := if old ≤ k ∧ k < old + 32768 then k - old + new else k
      (mig ≠ tb + 12 * pages + 8 * j ∨ ¬ there ∨ e % 2 = 0 ∨ m / 2 ^ 13 % 2 = 0 ∨ (m / 2 ^ 12 % 2 = 1 ∧ same) → exec (.pageMigrate pte mig dest) s = .next s) ∧
      (mig = tb + 12 * pages + 8 * j → there → e % 2 = 1 → m / 2 ^ 13 % 2 = 1 → ¬(m / 2 ^ 12 % 2 = 1 ∧ same) → outside (memKey mig) 8 (memKey pte) →
        outside (memKey pte) 8 (memKey mig) →
        ∃ t, exec (.pageMigrate pte mig dest) s = .next t ∧
          t = { s with
            hbm := t.hbm, lines := t.lines, pend := t.pend, relRecs := t.relRecs, replicas := t.replicas, reqs := t.reqs, tasks := t.tasks, ports := t.ports
            packets := t.packets, watched := t.watched, freeCtr := t.freeCtr } ∧ SamePackets s t ∧ Noted s t ∧ entryDropped s t pte ∧
          t.reqs = s.reqs.map (fun q => { q with pa := q.pa.map moved }) ∧
          (∀ p ∈ s.pend, old ≤ p.sec * 64 → p.sec * 64 < old + 32768 → { p with sec := p.sec - old / 64 + new / 64 } ∈ t.pend) ∧
          t.homeWord pte 8 / 2 ^ 15 % 2 ^ 35 = dest % 2 ^ 35 ∧ t.homeWord mig 8 / 2 ^ 14 % 2 ^ 32 = s.epoch.toNat ∧ t.homeWord mig 8 % 2 ^ 10 = pkg ∧
          t.homeWord mig 8 / 2 ^ 10 % 4 = min 3 moves ∧ t.homeWord mig 8 / 2 ^ 12 % 2 = (if 3 ≤ moves then 1 else 0) ∧
          (∀ j, j < 32768 → outside (memKey pte) 8 (new + j) → outside (memKey mig) 8 (new + j) → byteOf t.hbm (new + j) = byteOf s.hbm (old + j))))

/-- The token of an XREQ leaves its port as a request for the transfer unit that faces the row, unless the path before that unit is full. TRANSFER_ACCEPT: a unit with room takes a sound request and marks its local destination empty; it drops one that is not sound. TRANSFER_GRANULE: a COPY
moves one granule of 16 bytes in an access that its port tile gives to the unit, from the top downwards where it copies upwards, and its packet completes after the last. CHANNEL_TOKEN: a channel
that has counted the arrivals it expects sends their number and counts on (R142 to R145, R198, R199, R405, R406). -/
def Obligations.TransfersMove : Prop :=
  (∀ (s : State) (n : Nat) (y : Tile) (e : Elem) (q ctx : Fin 4) (slot : Fin 32) (k : Token) (since : Nat),
    s.tile? n = some y → y.elem = some e → y.op.get q = [.full k none since] → k.side = .xreq ctx slot → k.log = none →
    let waiting := (s.transfers.filter (fun x => decide (x.accepted = false ∧ x.die = tileDie n ∧ x.port = 16 + tileY n / 2))).length
    (Config.pathRoom < waiting → exec (.tokenDeliver (.port n q)) s = .next s) ∧
    (waiting ≤ Config.pathRoom → ∃ u x, exec (.tokenDeliver (.port n q)) s = .next u ∧ u.port? n q = some [] ∧ u.transfers = s.transfers ++ [x] ∧
      u = { s with tiles := u.tiles, transfers := u.transfers, nextId := s.nextId + 1, freeCtr := s.freeCtr + 1, served := u.served } ∧
      (∀ m p, ¬(m = n ∧ p = q) → u.port? m p = s.port? m p) ∧ (x.id, x.tile, x.ctx, x.slot) = (s.nextId, n, ctx, slot) ∧ s.cycle < x.due ∧
      (x.die, x.port, x.accepted, x.donePos) = (tileDie n, 16 + tileY n / 2, false, 0) ∧ (x.region, x.leaf) = ((e.ctx.get ctx).region, (e.ctx.get ctx).leaf) ∧
      ∀ j, j < 4 → x.words[j]? = some (BitVec.ofNat 64 ((List.range 16).foldr (fun i a => (k.pay.vec.lane i).toNat + 2 ^ 40 * a) 0 / 2 ^ (64 * j))))) ∧
  ∀ (s : State) (x : Transfer), s.transfers.find? (fun y => y.id == x.id) = some x → x.due ≤ s.cycle →
    (x.accepted = false → (s.transfers.filter (fun y => y.accepted && y.die == x.die && y.port == x.port)).length < 16 →
      (∀ p, x.isCopy = some p → ∃ t due, exec (.transferAccept x.id) s = .next t ∧
        t = { s with
          packets := s.packets.map (fun k => if k.id = p then { k with st := .started } else k)
          transfers := moved s x.id (fun y => { y with accepted := true, due := due })
          freeCtr := s.freeCtr + 1 }) ∧
      (∀ r, x.isCopy = none → s.region? x.region = some r → r.num = x.region → r.phase = .armed → r.save = none → r.placed = true → SMap.wf false s.full = true →
        ∃ t due, exec (.transferAccept x.id) s = .next t ∧
          (x.bad = 0 → t = { s with full := t.full, transfers := moved s x.id (fun y => { y with accepted := true, due := due }), freeCtr := s.freeCtr + 1 } ∧
            (x.word 2 / 2 ^ 63 % 2 = 0 → t.full = s.full) ∧
            ∀ p a n off, p < x.total → x.word 2 / 2 ^ 63 % 2 = 1 → x.kind ≠ 4 → x.spots r p = .ok (a, .tile n off) → t.isFull n (off / 16) = false) ∧
          (x.bad ≠ 0 → (∀ y ∈ t.transfers, y ∈ s.transfers ∧ y.id ≠ x.id) ∧ t.hbm = s.hbm))) ∧
    (∀ p, x.accepted = true → x.isCopy = some p → x.donePos < x.word 2 / 16 → Memory.wf s.hbm = true → (s.portTile (x.die * 32 + x.port)).served ≠ some s.cycle →
      let n := x.word 2 / 16
      let q := if x.word 0 < x.word 1 then n - 1 - x.donePos else x.donePos
      let dst := domKey (x.word 1) + 16 * q
      onePackage dst 16 →
      ∃ t u due, exec (.transferGranule x.id) s = .next t ∧ Accessed { s with ports := u.ports } u ∧ u.freeCtr = s.freeCtr ∧
        (u.portTile (x.die * 32 + x.port)).served = some s.cycle ∧ (∀ p, p ≠ x.die * 32 + x.port → u.portTile p = s.portTile p) ∧
        u.homeBytes dst 16 = s.homeBytes (domKey (x.word 0) + 16 * q) 16 ∧
        (∀ k, k < 2 ^ 51 → outside (memKey dst) 16 (memKey k) → u.homeByte k = s.homeByte k) ∧
        (n ≤ x.donePos + 1 → PacketEnded { u with transfers := s.transfers.filter (fun y => y.id != x.id) } t p { status := 0 }) ∧
        (x.donePos + 1 < n → s.cycle < due ∧ t = { u with transfers := moved s x.id (fun y => { y with donePos := x.donePos + 1, due := due }), freeCtr := s.freeCtr + 1 })) ∧
    (∀ r ch c y, s.region? r.num = some r → SMap.find? r.chans ch = some c → ch % 4096 ≠ 0 → r.phase = .armed → 0 < c.p → c.p ≤ c.a →
      s.tile? (r.base + c.tile) = some y → (y.iq.get c.q).length < 4 →
      ∃ t arcs, exec (.channelToken r.num ch) s = .next t ∧ t = { s with tiles := t.tiles, regions := t.regions } ∧
        (∀ n, n ≠ r.base + c.tile → t.tile? n = s.tile? n) ∧ (∀ n, n ≠ r.num → t.region? n = s.region? n) ∧
        t.tile? (r.base + c.tile) = some { y with
          iq := y.iq.set c.q.val (y.iq.get c.q ++ [{ tag := 0, pay := kindPay (y.iqKind.getLsbD c.q.val) (BitVec.ofNat 64 c.p), arcs := c.arcs }]) c.q.isLt } ∧
        t.region? r.num = some { r with chans := SMap.put r.chans ch { c with a := c.a - c.p, p := 0, arcs := arcs } })

/-! ## The end of regions and tasks, objects -/

/-- REGION_RETIRE: a region whose contexts have halted, or whose completion port has seen the end of a pass, begins to retire; once its accesses, streams and
matrix rows are complete its rectangle is free, an unordered task is over and its launch's record says so, an ordered one is complete; a stopped region whose elements have halted is gone, with STATUS 2.
TASK_COMMIT: the bytes of the oldest complete task replace those at their homes, and the task is over. TCOMMIT_ROUND: the next task of a
persistent instance takes over, and its contexts go on (R39, R163, R166, R167, R212, R213, R377, R378). -/
def Obligations.RegionsAndTasksEnd : Prop :=
  ∀ (s : State) (n : Nat) (r : Region), SMap.rising none s.regions = true →
    (s.region? n = some r → r.num = n →
      (r.phase = .stopped → (∀ q ∈ s.reqs, q.region ≠ n) → (∀ x ∈ s.transfers, x.region ≠ n) → (∀ d, (s.engines.get d).now = none) →
        (∀ z ∈ s.tiles, r.holds z.1 = true → ∀ e, z.2.elem = some e → stoodStill s e) →
        ∃ t, exec (.regionRetire n) s = .next t ∧ t.region? n = none ∧ t.task? r.task = none ∧
          ∀ l p k, s.launches.find? (fun l => l.id == r.launch) = some l → l.pkt = some p → s.packet? p = some k →
            recorded t p (fun x => (x.status, x.kind, x.d0, x.d1, x.region, x.ver) = (2, r.stopKind, r.stopTok, r.stopDet, n, r.ver))) ∧
      (r.phase = .armed → r.compSeen = true ∨ (r.lastTurn = true ∧ ∀ c ∈ s.ctxsOf r (fun _ => true), c.over = true) →
        (∃ q ∈ s.reqs, q.region = n ∧ isAccess q.op = true ∧ (q.st = .sent ∨ q.st = .waiting)) →
        ∃ t, exec (.regionRetire n) s = .next t ∧ t.region? n = some { r with phase := .retiring } ∧ t = { s with tiles := t.tiles, regions := t.regions } ∧
          (∀ m, m ≠ n → t.region? m = s.region? m) ∧ (∀ k c, t.ctx? k c = s.ctx? k c) ∧
          ∀ k x m g, s.tile? k = some x → r.holds k = true → x.region = n → x.mem = some m → ∃ m', t.mem? k = some m' ∧
            m'.gens.get g = if runsOn (m.recs.get g) then { m.gens.get g with st := .stopped } else m.gens.get g) ∧
      (r.phase = .retiring ∨ (r.phase = .armed ∧ (r.compSeen = true ∨ (r.lastTurn = true ∧ ∀ c ∈ s.ctxsOf r (fun _ => true), c.over = true))) →
        (∀ q ∈ s.reqs, q.region ≠ n) → (∀ x ∈ s.transfers, x.region ≠ n) → (∀ l ∈ s.launches, l.parent ≠ some n) →
        (∀ z ∈ s.tiles, r.holds z.1 = true → allDone z.2) →
        ∃ t, exec (.regionRetire n) s = .next t ∧
          (r.hdr.ordered = false → t.region? n = none ∧ t.task? r.task = none ∧
            ∀ l p k, s.launches.find? (fun l => l.id == r.launch) = some l → l.pkt = some p → s.packet? p = some k →
              recorded t p (fun x => x.status = (if r.faulted = none then 0 else 1) ∧ (x.region, x.ver, x.ended) = (n, r.ver, s.cycle))) ∧
          (r.hdr.ordered = true → (∃ g, t.region? n = some g ∧ g.phase = .writeBack ∧ g.endedAt = s.cycle) ∧
            ∀ x, s.task? r.task = some x → ∃ y, t.task? r.task = some y ∧ y.complete = true)) ∧
      (∀ x, r.phase = .armed → s.task? r.task = some x → r.hdr.ordered = false → s.dbg.dbgArm = false → s.roundDone r = true → (∀ y ∈ s.tasks, y.id < s.nextId) →
        ∃ t, exec (.tcommitRound n) s = .next t ∧ t.task? r.task = none ∧
          (∃ y, t.task? s.nextId = some y ∧ y.launch = x.launch ∧ y.ts = nextTs x.ts r.proposals) ∧
          (∃ g, t.region? n = some g ∧ g.task = s.nextId ∧ g.proposals = [] ∧ g.phase = .armed) ∧
          ∀ k c z, r.holds k = true → t.ctx? k c = some z → z.region = n → z.held = false)) ∧
    (∀ x (d : Fin 4), s.tasks = [x] → x.ordered = true → x.complete = true → x.atomics = [] → x.frees = [] → x.rels = [] → x.region.bind s.region? = none →
      Memory.wf s.hbm = true → nothingCommitted s →
      (∀ p ∈ s.pend, p.task = x.id ∧ p.die = d.val ∧ p.sec * 64 + 64 ≤ 2 ^ 51 ∧ isIo (p.sec * 64) = false ∧ SMap.find? s.lines (d.val * 2 ^ 44 + p.sec / 4) ≠ none) →
      (∀ p ∈ s.pend, ∀ q ∈ s.pend, p.sec = q.sec → p = q) → s.pend.Nodup →
      ∃ t, exec (.taskCommit x.id) s = .next t ∧ t.tasks = [] ∧ t.pend = [] ∧ t.hbm = s.hbm ∧ (∀ k, x.key = some k → t.maxTs = max s.maxTs k.1) ∧
        (∀ p ∈ s.pend, ∀ j, j < 64 → p.mask.getLsbD j = true → t.homeByte (p.sec * 64 + j) = secByte p.data j) ∧
        (∀ k, k < 2 ^ 51 → (∀ p ∈ s.pend, p.sec = memKey k / 64 → p.mask.getLsbD (k % 64) = false) → t.homeByte k = s.homeByte k))

/-- PEWTER_EPOCH_TICK counts the epoch on. OBJECT_DESTROY_BEGIN: while free bytes are below PWHIGH, or an allocation lacks something, the first victim becomes dying and no handle cache
holds its entry; without a victim reclaim waits for one. DESTRUCTION_POINT: it waits for the weak reads that have passed their check; then the dying object's entry is free with
the next GEN, or its index retired where GEN would wrap. WATCHPOINT_RECORD enters the ring (R148, R149, R151, R159, R160, R264, R265). -/
def Obligations.ObjectsAreDestroyed : Prop :=
  ∀ (s : State),
    exec .pewterEpochTick s = .next { s with epoch := s.epoch + 1 } ∧
    (s.reclaiming = true → s.dying = none →
      (s.short = false → s.regs.pwhigh.toNat ≤ s.freeBytes → exec .objectDestroyBegin s = .next { s with reclaiming := false }) ∧
      (s.short = true ∨ s.freeBytes < s.regs.pwhigh.toNat →
        (s.victims = [] → exec .objectDestroyBegin s = .next { s with short := false }) ∧
        (∀ i e rest, s.victims = (i, e) :: rest → Memory.wf s.hbm = true → s.objKey i + 32 ≤ 2 ^ 40 →
          ∃ t due, exec .objectDestroyBegin s = .next t ∧ s.cycle < due ∧ t.obj i = e + 2 ^ 128 ∧ e / 2 ^ 128 % 4 = 1 ∧
            Accessed { s with dying := some i, agenda := s.agenda ++ [(due, .destructionPoint)], ports := t.ports } t ∧ t.freeCtr = s.freeCtr + 1 ∧ t.relRecs = s.relRecs ∧
            (∀ p, t.portTile p = { s.portTile p with handles := (s.portTile p).handles.filter (fun j => decide (j ≠ i)) }) ∧
            ∀ k, k < 2 ^ 51 → outside (s.objKey i) 32 k → t.homeByte k = s.homeByte k))) ∧
    (∀ i, s.dying = some i →
      (s.weakOut i = true → exec .destructionPoint s = .next { s with agenda := s.agenda ++ [(s.cycle + 1, .destructionPoint)] }) ∧
      (s.weakOut i = false → s.obj i / 2 ^ 128 % 4 = 2 → Memory.wf s.hbm = true → s.objKey i + 32 ≤ 2 ^ 40 →
        ∃ t, exec .destructionPoint s = .next t ∧ Accessed { s with dying := none, short := false, retiredIdx := t.retiredIdx } t ∧ t.freeCtr = s.freeCtr ∧ t.relRecs = s.relRecs ∧
          (if s.obj i / 2 ^ 144 % 2 ^ 16 = 2 ^ 16 - 1 then t.obj i = s.obj i - 2 ^ 129 ∧ t.retiredIdx = i :: s.retiredIdx
           else t.obj i = s.obj i - 2 ^ 129 + 2 ^ 144 ∧ t.retiredIdx = s.retiredIdx) ∧
          ∀ k, k < 2 ^ 51 → outside (s.objKey i) 32 k → t.homeByte k = s.homeByte k)) ∧
    (∀ (wp die : Fin 4) (cls : BitVec 4) (kind : BitVec 2) (sec : Nat),
      let rec' := 3 + 0xFFF * 2 ^ 4 + wp.val * 2 ^ 40 + cls.toNat * 2 ^ 44 + die.val * 2 ^ 48 + kind.toNat * 2 ^ 50 + keyDom (sec * 64) * 2 ^ 64 + s.cycle % 2 ^ 64 * 2 ^ 128
      let i := exec (.watchpointRecord wp cls die kind sec) s
      let place := memKey (domKey (s.dbg.trbase.toNat + 128 * (s.dbg.trhead.toNat % 2 ^ s.dbg.trsize.toNat)))
      (s.dbg.trbase = 0 → i = .next s) ∧
      (s.dbg.trbase ≠ 0 → s.dbg.trhead.toNat < s.dbg.trtail.toNat + 2 ^ s.dbg.trsize.toNat → Memory.wf s.hbm = true →
        ∃ t, i = .next t ∧ t = { s with hbm := t.hbm, watched := t.watched, dbg := { s.dbg with trhead := s.dbg.trhead + 1 } } ∧ Noted s t ∧
          readBytes t.hbm place 128 = leBytes 128 rec' ∧ ∀ k, outside place 128 k → t.hbmByte k = s.hbmByte k))

namespace Sys2Proof.Claims
open Sys2Proof.Machine

/-- A chunk's acceptance is counted at the entries that have sent it, and nowhere else (R231). -/
def credited (s t : State) (c : Chunk) : Prop :=
  ∀ k, SMap.find? t.tables k = (SMap.find? s.tables k).map (fun e => { e with accepted := e.accepted + (c.senders.filter (fun x => x.1 * 1024 + x.2 == k)).length })

/-- The engine of die `d` has set a chunk aside, to offer it again after 256 cycles; nothing else has changed but `u`'s counters (R285). -/
def setAside (s t : State) (d : Nat) (c : Chunk) : Prop :=
  t = { s with engines := t.engines, nextId := s.nextId + 1, freeCtr := t.freeCtr } ∧ (∀ b : Fin 4, b.val ≠ d → t.engines.get b = s.engines.get b) ∧
    ∀ b : Fin 4, b.val = d → t.engines.get b = { s.engines.get b with refused := (s.engines.get b).refused ++ [(s.nextId, c, s.cycle + 256)] }

/-- A tile-table entry takes a chunk for the first time: it waits for chunks, no contributor of the chunk is marked (R233). -/
def fresh (e : TEntry) (c : Chunk) : Prop := e.rq ≠ none ∧ (SMap.find? e.ranks c.index).getD 0 &&& c.ranks = 0

/-- No element of a die lends its engine a slot (R232). -/
def unaided (s : State) (die : Nat) : Prop := ∀ z ∈ s.tiles, tileDie z.1 = die → ∀ e, z.2.elem = some e → e.cslot = none

end Sys2Proof.Claims

/-! ## Collectives -/

/-- ENGINE_CHUNK_SERVE: an idle engine takes its only work, for 4 cycles where no element helps; a combine under OP 1, 3 or 4 takes 256 bytes in each cycle; a chunk sent leaves with its
bytes, its index and its rank; a chunk of OP 0 is written in its place. CHUNK_ARRIVE: a chunk waits at the engine of its posted
entry, is parked in its communicator's pool or held while that is full, or is refused where no region has loaded its TAG and offered again after 256 cycles, by CHUNK_REOFFER; one for another package is accepted
or refused there (log 46). COLLECTIVE_COMPLETE answers a sender whose chunks have all been accepted. SWITCH_COMBINE: the first chunk takes a slot, the next is combined with it, with sums that only the destination rounds
to the format; SWITCH_LIMIT_EXPIRY gives the slot up after SWLIMIT cycles (R117, R231 to R236, R284, R285). -/
def Obligations.CollectivesAct : Prop :=
  ∀ (s : State) (die : Fin 4),
    (s.reqs = [] →
      let g := s.engines.get die
      (∀ c w, g.now = none → g.busy ≤ s.cycle → g.queue = [(c, w)] → (s.entry? w.entry).isSome = true →
        (∀ k ch e, w = .take k ch → SMap.find? s.tables k = some e → e.word.toNat / 2 ^ 6 % 2 ^ 4 ∉ [1, 3, 4]) →
        exec (.engineChunkServe die) s = .next { s with
          engines := s.engines.set die.val { g with queue := [], now := some (c, w), busy := s.cycle + 4, pos := 0, last := c } die.isLt }) ∧
      (∀ c k ch e, g.now = none → g.busy ≤ s.cycle → g.queue = [(c, .take k ch)] → s.entry? k = some e → e.word.toNat / 2 ^ 6 % 2 ^ 4 ∈ [1, 3, 4] → fresh e ch →
        unaided s die.val →
        ∃ t x, exec (.engineChunkServe die) s = .next t ∧ t = { s with engines := t.engines, tables := t.tables, regions := t.regions } ∧
          t.engines = s.engines.set die.val { g with queue := [], now := some (c, .take k ch), busy := s.cycle + 1, pos := 256, last := c } die.isLt ∧
          SMap.find? t.tables k = some x ∧ x = { e with acc := x.acc } ∧ (∀ j, j ≠ k → SMap.find? t.tables j = SMap.find? s.tables j) ∧
          (∀ n, n ≠ e.region → t.region? n = s.region? n) ∧
          ∀ i, i < e.per → SMap.find? x.acc (e.per * ch.index + i) =
            if i * fmtSize e.fmt < 256 then
              some (match SMap.find? e.acc (e.per * ch.index + i) with
                | none => (Chunk.values ch).getD i 0
                | some a => (accValue e.op e.fmt a ((Chunk.values ch).getD i 0)).1)
            else SMap.find? e.acc (e.per * ch.index + i)) ∧
      (∀ c k i d e m r, g.now = some (c, .send k i d) → g.busy = s.cycle + 1 → SMap.find? s.tables k = some e → SMap.find? s.comms e.comm = some m →
        s.region? e.region = some r → s.orderedTask r.task = none → m.swlimit = 0 →
        ∃ t due ch, exec (.engineChunkServe die) s = .next t ∧ s.cycle < due ∧ Noted s t ∧
          t = { s with engines := t.engines, regions := t.regions, watched := t.watched, agenda := s.agenda ++ [(due, .chunkArrive ch)], freeCtr := s.freeCtr + 1 } ∧
          t.engines = s.engines.set die.val { g with now := none } die.isLt ∧ (∀ n, n ≠ e.region → t.region? n = s.region? n) ∧
          (ch.tag, ch.index, ch.ranks, ch.senders, ch.wide) = (m.tag, i, (1 : BitVec 640) <<< m.rank, [(k / 1024, k % 1024)], []) ∧
          ch.dest.toNat = (e.word.toNat / 2 ^ (64 * d + 128) % 2 ^ 50 + 1024 * i) % 2 ^ 50 ∧
          ch.data = s.homeBytes (domKey (e.word.toNat / 2 ^ 64 % 2 ^ 50) + 1024 * i) 1024) ∧
      (∀ c k ch e r a, g.now = some (c, .take k ch) → g.busy = s.cycle + 1 → SMap.find? s.tables k = some e → e.word.toNat / 2 ^ 6 % 2 ^ 4 = 0 → fresh e ch →
        ch.index ∉ e.written → s.region? e.region = some r → s.orderedTask r.task = none → a = domKey (e.word.toNat / 2 ^ 64 % 2 ^ 50) + 1024 * ch.index →
        ch.data.length = 1024 → onePackage a 1024 → Memory.wf s.hbm = true →
        ∃ t x, exec (.engineChunkServe die) s = .next t ∧ t.engines = s.engines.set die.val { g with now := none } die.isLt ∧ t.homeBytes a 1024 = ch.data ∧
          (∀ j, j < 2 ^ 51 → outside (memKey a) 1024 (memKey j) → t.homeByte j = s.homeByte j) ∧ SMap.find? t.tables k = some x ∧
          x = { e with ranks := x.ranks, written := e.written ++ [ch.index] } ∧
          SMap.find? x.ranks ch.index = some ((SMap.find? e.ranks ch.index).getD 0 ||| ch.ranks))) ∧
    (∀ c : Chunk,
      (c.dest.toNat / 2 ^ 40 = Config.ownPackage →
        (∀ (d : Fin 4) m rest, c.senders = (d.val, m) :: rest → s.comm? c.tag = none → ∃ t, exec (.chunkArrive c) s = .next t ∧ setAside s t d.val c ∧ t.freeCtr = s.freeCtr) ∧
        (∀ i m, s.comm? c.tag = some (i, m) → s.entryFor i c = none →
          (m.pool.length < 64 → ∃ t, exec (.chunkArrive c) s = .next t ∧ credited s t c ∧
            t = { s with tables := t.tables, comms := SMap.put s.comms i { m with pool := m.pool ++ [c] } }) ∧
          (64 ≤ m.pool.length → exec (.chunkArrive c) s = .next { s with agenda := s.agenda ++ [(s.cycle + 1, .chunkArrive c)] })) ∧
        (∀ i m key, s.comm? c.tag = some (i, m) → s.entryFor i c = some key →
          ∃ t, exec (.chunkArrive c) s = .next t ∧ credited s t c ∧ t = { s with engines := t.engines, tables := t.tables } ∧
            Vector.at (n := 3) t.engines (key / 1024) = { Vector.at (n := 3) s.engines (key / 1024) with
              queue := (Vector.at (n := 3) s.engines (key / 1024)).queue ++ [(i, .take key c)] })) ∧
      (∀ (d : Fin 4) m rest, c.dest.toNat / 2 ^ 40 ≠ Config.ownPackage → c.senders = (d.val, m) :: rest →
        ∃ t, exec (.chunkArrive c) s = .next t ∧ t.freeCtr = s.freeCtr + 1 ∧
          (setAside s t d.val c ∨ (credited s t c ∧ t = { s with tables := t.tables, freeCtr := s.freeCtr + 1 }))) ∧
      (∀ x due, (∀ d : Fin 4, d ≠ die → (s.engines.get d).refused = []) → (s.engines.get die).refused = [(x, c, due)] →
        (s.cycle < due → exec (.chunkReoffer x) s = .next s) ∧
        (due ≤ s.cycle → ∃ t, exec (.chunkReoffer x) s = .next t ∧ exec (.chunkArrive c) { s with
          engines := s.engines.set die.val { s.engines.get die with refused := [] } die.isLt } = .next t)) ∧
      (∀ i m, s.comm? c.tag = some (i, m) → m.swlimit ≠ 0 → c.op ∈ [1, 3, 4] → c.expect = 0 →
        (s.switches = [] → exec (.switchCombine c) s = .next { s with switches := [⟨c, s.cycle, m.swlimit⟩] }) ∧
        (∀ a since limit, s.switches = [⟨a, since, limit⟩] → (a.tag, a.dest, a.index, a.expect) = (c.tag, c.dest, c.index, 0) →
          exec (.switchCombine c) s = .next { s with switches := [⟨{ a with
            ranks := a.ranks ||| c.ranks
            wide := ((Chunk.values a).zip (Chunk.values c)).map (fun (x, y) => (accValue a.op.val a.fmt.val x y).1)
            senders := a.senders ++ c.senders }, since, limit⟩] })) ∧
      (c.op ∉ [1, 3, 4] → ∃ due, s.cycle < due ∧
        exec (.switchCombine c) s = .next { s with agenda := s.agenda ++ [(due, .chunkArrive c)], freeCtr := s.freeCtr + 1 })) ∧
    (∀ entry e rq r, s.entry? (die.val * 1024 + entry) = some e → e.rq = some rq → s.req? rq = some r → r.id = rq → e.recv = false → e.parked = [] →
      e.accepted = e.nchunk * e.dests →
      ∃ t, exec (.collectiveComplete die entry) s = .next t ∧ t = { s with reqs := t.reqs, tables := t.tables, freeCtr := s.freeCtr + 1 } ∧
        OtherReqs s t r ∧ Answered t r (.s (BitVec.ofNat 64 (e.nchunk * e.dests))) none (s.cycle + 3) ∧
        SMap.find? t.tables (die.val * 1024 + entry) = some (TEntry.idle e.word e.region) ∧
        ∀ k, k ≠ die.val * 1024 + entry → SMap.find? t.tables k = SMap.find? s.tables k) ∧
    (∀ i x, s.switches[i]? = some x →
      (s.cycle < x.since + x.limit → exec (.switchLimitExpiry i) s = .next s) ∧
      (x.since + x.limit ≤ s.cycle → ∃ due, s.cycle < due ∧
        exec (.switchLimitExpiry i) s = .next { s with switches := s.switches.eraseIdx i, agenda := s.agenda ++ [(due, .chunkArrive x.chunk)], freeCtr := s.freeCtr + 1 }))

namespace Sys2Proof.Claims
open Sys2Proof.Machine

/-- A trigger without composite holds (R81). -/
def simpleHolds (e : Env) (g : Trig) : Prop :=
  match g with
  | .pSet n => e.ctx.p.getLsbD n.val = true
  | .pClear n => e.ctx.p.getLsbD n.val = false
  | .qTag t q => ∃ k, (e.tile.iq.get q).head? = some k ∧ k.tag.toNat = t.val
  | .oFree q => (e.tile.op.get q).length < 2
  | .oEmpty q => e.tile.op.get q = []
  | .always => True
  | .never | .comp _ => False

/-- What keeps a slot from firing (R28, R156): its context is not armed or is held; its region does not run; its trigger does not hold; a queue that it
names lacks a token, a port that it writes a free slot, its reply queue room. -/
def keptBack (s : State) (e : Env) (i : Instr) : Prop :=
  e.ctx.st ≠ .armed ∨ e.ctx.held = true ∨ e.region.phase ∉ [.armed, .retiring, .halting, .stopped] ∨ ((∀ n, i.shape.trig ≠ .comp n) ∧ ¬ simpleHolds e i.shape.trig)
    ∨ (∃ q n, (q, n) ∈ i.shape.takes ∧ (e.tile.iq.get q).length < n) ∨ (∃ q ∈ i.shape.peeks, e.tile.iq.get q = [])
    ∨ (∃ q, i.shape.port = some q ∧ 2 ≤ (e.tile.op.get q).length)
    ∨ (∃ q, i.shape.reply = some q ∧ 4 ≤ (e.tile.iq.get q).length + (s.reqs.filter (fun r => r.tile == e.site.tile && r.q == some q)).length)

/-- What else a slot may wait for: a halt, a collective slot, the predicate of a reply, a vector register, the matrix unit, an older task (R28, R19, R156, R169,
R207, R232). -/
def unhindered (s : State) (e : Env) (i : Instr) : Prop :=
  e.elem.haltAt = none ∧ e.elem.cslot = none ∧ (∀ p, i.shape.pred = some p → s.reqs = []) ∧ e.elem.moves = [] ∧ e.elem.resident.length ≤ 48
    ∧ (∀ v ∈ i.shape.vregs, (e.site.ctx.val, v.val) ∈ e.elem.resident) ∧ unitReady i e.elem = true ∧ (∀ t, s.task? e.region.task = some t → t.ordered = false)

end Sys2Proof.Claims

/-! ## Reset, decoding, firing, stepping -/

/-- After reset the registers of R193 hold what it gives, every memory lists nothing, tracing is off with a ring of 2^4 records to come, every queue has the QCFG that R196 gives it, every other queue
register is 0, and no region is placed. In any state the identity record's first word is PART 0x5346_0004, STEPPING 0xB1 and ROMVER, the counts beside them are the most of each sort of tile where the
defect map marks none, the rest of the record is zero, bit i of word j of DEFECT is set exactly when the map marks tile 64j + i, and an offset between the registers listed reads as zero
(R1, R12, R193 to R196). That the map marks nothing in the state a run starts from is the model's choice (log 3). -/
def Obligations.ResetLeavesTheStatedValues : Prop :=
  (State.reset.memWf = true ∧ State.reset.hbm = [] ∧ State.reset.sram = [] ∧ State.reset.flash = [] ∧ State.reset.lines = [] ∧
    State.reset.regs.drainLimit = 6 ∧ State.reset.regs.objtab = 0 ∧ State.reset.regs.objcnt = 0 ∧ State.reset.regs.pwlow = 0x100000000 ∧
    State.reset.regs.pwhigh = 0x200000000 ∧ State.reset.regs.portmap = 0 ∧ State.reset.regs.ageStep = 65536 ∧ State.reset.regs.pwbase = 0 ∧
    State.reset.regs.pwsize = 0 ∧ State.reset.regs.defects = [] ∧ State.reset.dbg.trbase = 0 ∧ State.reset.dbg.trsize = 4 ∧ State.reset.regions = [] ∧
    State.reset.tiles = [] ∧
    ∀ n, State.reset.queue n = { State.reset.queue n with kick := 0, read := 0, done := 0, faulted := false, ovr := false, held := false, parked := false } ∧
      (State.reset.queue n).cfg.toNat = 6 + 3 * 2 ^ 5 + 1 * 2 ^ 17) ∧
  ∀ s : State,
    s.barWord 0 % 2 ^ 32 = 0x53460004 ∧ s.barWord 0 / 2 ^ 32 % 2 ^ 8 = 0xB1 ∧ s.barWord 0 / 2 ^ 40 % 2 ^ 16 = s.regs.romver.toNat ∧
    (s.regs.defects = [] → s.barWord 0 / 2 ^ 56 + s.barWord 8 * 2 ^ 8 = 4064 + 2048 * 2 ^ 13 + 128 * 2 ^ 25) ∧
    (∀ n, 2 ≤ n → n < 8 → s.barWord (8 * n) = 0) ∧
    (∀ j i, j < 128 → i < 64 → ((s.barWord (0x400 + 8 * j)).testBit i = true ↔ 64 * j + i ∈ s.regs.defects)) ∧
    (∀ off, (64 ≤ off ∧ off < 0x400) ∨ (0x800 ≤ off ∧ off < 0x1000) ∨ (0x10B0 ≤ off ∧ off < 0x2000) ∨ (0x2080 ≤ off ∧ off < 0x10000) → s.barWord off = 0)

/-- Words written out from the encodings of R77 to R95 decode to their instructions: in each, the trigger 111000 (always) and then the fields of its format. -/
def Obligations.WordsDecodeToTheirInstructions : Prop :=
  decodeWord 0xE04C7FFF = some (.addi .always 3 (-1)) ∧
  decodeWord 0xE11C51F2 = some (.bfx .always (.s 2) (.s 3) (.c 1)) ∧
  decodeWord 0xE07451C8 = some (.div .always (.s 2) (.s 3) (.s 4)) ∧
  decodeWord 0xE1402106 = some (.vadd .always (.v 1) (.v 2) (.v 3)) ∧
  decodeWord 0xE189041A = some (.vcmp .always 1 false (.v 2) (.v 3) .lt) ∧
  decodeWord 0xE2603180 = some (.kmovToMask .always 1 (.s 3)) ∧
  decodeWord 0xE34E3200 = some (.sinitQs .always (.i 1) 2) ∧
  decodeWord 0xE3F62103 = some (.qpush .always 1 (.v 2) 3) ∧
  decodeWord 0xE3C6124C = some (.plaunch .always 0 (.s 4) (.s 6)) ∧
  decodeWord 0xE13B0210 = some (.plog .always 3 false 1 2 .and) ∧
  decodeWord 0xE31E7202 = some (.bar .always 3 (.s 4) .region) ∧
  decodeWord 0xE4080000 = some (.nop .never)

/-- Decoding reads back what encoding writes: every well-formed slot instruction, with every operand at every value, is the instruction of its word. -/
def Obligations.EncodedInstructionsDecodeToThemselves : Prop :=
  ∀ (i : Instr) (w : BitVec 32), i.wf = true → encode i = some w → decodeWord w = some i

/-- A slot instruction whose slot is kept back changes nothing; one whose slot is not, and that nothing hinders, gets under way. -/
def Obligations.SlotsFireWhenReady : Prop :=
  ∀ (s : State) (i : Instr) (site : Site) (e : Env), encode i ≠ none → s.cur = some site → site.lead = true → s.env? i site = some e →
    (keptBack s e i → exec i s = .next { s with cur := none }) ∧
    ((∀ n, i.shape.trig ≠ .comp n) → ¬ keptBack s e i → unhindered s e i → ∃ e' s', s.enter i = some (e', s') ∧ e'.ctx = e.ctx ∧ e'.site = site)

/-- TRAP, the SYS cell with FN 2, faults with TrapInstruction and cause 0, and writes nothing. A vector instruction with TRAPF whose lanes would set NV or OV faults with cause 1, sets no
flag and writes no destination. Without a fault port or a free record entry the region stops; the faults of a region that has stopped already change nothing more
of its record (R85, R86, R209 to R212, R382). -/
def Obligations.TrapsFault : Prop :=
  (∀ t, decodeWord (BitVec.ofNat 32 (fieldsT t 0x01 0 0 0 2)) = some (.trap t)) ∧ decodeWord 0xE0080002 = some (.trap .always) ∧
  ∀ (s s1 : State) (i : Instr) (e : Env) (cause : Nat), s.enter i = some (e, s1) →
    (cause = 0 ∧ ∃ t, i = .trap t) ∨ (cause = 1 ∧ sideTrapf e.side = true ∧ ∃ d r, vectorResult e i = some (d, r) ∧ (laneFlags (fun n => (r n).2)).traps = true) →
    ∃ u, exec i s = .next u ∧
      (∀ n pt pq, e.region.ended = false → e.region.freeRec = some n → e.region.faultPort e.ctx.leaf = some (pt, pq) → Faulted s u e ⟨12, cause, 0⟩ n pt pq) ∧
      (e.region.ended = false → e.region.freeRec = none ∨ e.region.faultPort e.ctx.leaf = none → Stopped s u e.ctx.region ⟨12, cause, 0⟩) ∧
      (e.region.ended = true → u.regions = s.regions ∧ u.faultToks = s.faultToks ∧ u.ctx? e.site.tile e.site.ctx = some { e.ctx with st := .frozen false })

/-- A step that reaches the pick of a lone element whose slot table gives this cycle to one context, and whose lowest ready slot of that context holds a word
that decodes to `i`, is the execution of `i` at that slot; the due slot of a follower, an event of this cycle, and an event of the agenda whose cycle has come
are executed likewise (R28, R29, R34). -/
def Obligations.StepsRunDecodedInstructions : Prop :=
  ∀ (s : State) (rest : List Work) (i : Instr),
    (∀ t e c n, s.scan = .pick t :: rest → s.elem? t = some e → e.follows = false → (e.table.toNat / 2 ^ (3 * e.idx.toNat) % 2 ^ 3 = 4 + c.val) →
      decodeWord (e.slots.get n) = some i → i.shape.trig ≠ .never → sideOwner (e.sides.get n) = c →
      State.readyAt { s with scan := rest } ⟨t, c, n, true⟩ i = true →
      (∀ m j, m < n → decodeWord (e.slots.get m) = some j → State.readyAt { s with scan := rest } ⟨t, c, m, true⟩ j = false) →
      step s = exec i { s with scan := rest, cur := some ⟨t, c, n, true⟩ }) ∧
    (∀ t e c n, s.scan = .run ⟨t, c, n, false⟩ :: rest → s.elem? t = some e → decodeWord (e.slots.get n) = some i →
      step s = exec i { s with scan := rest, cur := some ⟨t, c, n, false⟩ }) ∧
    (s.scan = .ev i :: rest → step s = exec i { s with scan := rest, cur := none }) ∧
    (∀ c later, s.scan = [] → s.agenda = (c, i) :: later → c ≤ s.cycle → step s = exec i { s with agenda := later, cur := none })

/-- No step ends the run with a fault or a refusal: from every state the machine goes on. The choice to model every fault of R208 as a next state is the
model's (log 2). -/
def Obligations.EveryStepGoesOn : Prop := ∀ s : State, GoesOn s

/-- Every step keeps the canonical form of HBM, of the memory tiles' SRAM with its full-empty bits, and of the drives. The form itself is the model's (log 5). -/
def Obligations.StepsKeepMemoryCanonical : Prop := ∀ s t : State, s.memWf = true → step s = .next t → t.memWf = true
end

