-- ==== Sys2Proof/Laws/Map.lean ====
section
/-!
SUPPORT. Laws of sorted sparse maps: a read after a write, and that every memory operation keeps the canonical form.
-/
namespace Sys2Proof.Machine

variable {β : Type}

/-! ## Records by key -/

/-- A key that has just been put is found. -/
@[simp] theorem SMap.find?_put_same (m : SMap β) (k : Nat) (v : β) : SMap.find? (SMap.put m k v) k = some v := by
  induction m with
  | nil => simp [SMap.put, SMap.find?]
  | cons e rest ih =>
    obtain ⟨k', v'⟩ := e
    unfold SMap.put
    split
    · simp [SMap.find?]
    · split
      · simp [SMap.find?]
      · have h1 : ¬ k' = k := by assumption
        have h2 : ¬ k < k' := by assumption
        simp [SMap.find?, h1, h2, ih]

/-- Every other key is found as before. -/
theorem SMap.find?_put_other (m : SMap β) (k j : Nat) (v : β) (h : j ≠ k) : SMap.find? (SMap.put m k v) j = SMap.find? m j := by
  induction m with
  | nil =>
    have h' : ¬ k = j := fun e => h e.symm
    simp [SMap.put, SMap.find?, h']
  | cons e rest ih =>
    obtain ⟨k', v'⟩ := e
    have h' : ¬ k = j := fun e => h e.symm
    unfold SMap.put
    split
    · subst_vars; simp [SMap.find?, h']
    · split
      · by_cases hj : j < k
        · have h1 : ¬ k' = j := by omega
          have h2 : j < k' := by omega
          simp [SMap.find?, h', hj, h1, h2]
        · simp [SMap.find?, h', hj]
      · simp [SMap.find?, ih]

/-! ## Rising keys -/

/-- Rising keys from above a bound rise from above any lower one. -/
theorem SMap.rising_mono (m : SMap β) {lo lo' : Option Nat} (hl : ∀ x, lo' = some x → ∃ y, lo = some y ∧ x ≤ y)
    (h : SMap.rising lo m = true) : SMap.rising lo' m = true := by
  cases m with
  | nil => rfl
  | cons e rest =>
    obtain ⟨k, v⟩ := e
    simp only [SMap.rising, Bool.and_eq_true] at h ⊢
    refine ⟨?_, h.2⟩
    cases lo' with
    | none => rfl
    | some x =>
      obtain ⟨y, rfl, hxy⟩ := hl x rfl
      simp only [decide_eq_true_eq] at h ⊢
      omega

/-- Rising keys rise from above no bound. -/
theorem SMap.rising_none {m : SMap β} {lo : Option Nat} (h : SMap.rising lo m = true) : SMap.rising none m = true :=
  SMap.rising_mono m (by simp) h

/-- A put keeps keys rising. -/
theorem SMap.rising_put (m : SMap β) (k : Nat) (v : β) {lo : Option Nat} (hk : ∀ x, lo = some x → x < k)
    (h : SMap.rising lo m = true) : SMap.rising lo (SMap.put m k v) = true := by
  induction m generalizing lo with
  | nil => cases lo <;> simp_all [SMap.put, SMap.rising]
  | cons e rest ih =>
    obtain ⟨k', v'⟩ := e
    simp only [SMap.rising, Bool.and_eq_true] at h
    unfold SMap.put
    split
    · subst_vars; simpa [SMap.rising] using h
    · split
      · rename_i hne hlt
        simp only [SMap.rising, Bool.and_eq_true]
        refine ⟨?_, by simpa using hlt, h.2⟩
        cases lo with
        | none => rfl
        | some x => simpa using hk x rfl
      · rename_i hne hlt
        simp only [SMap.rising, Bool.and_eq_true]
        exact ⟨h.1, ih (fun x hx => by cases hx; omega) h.2⟩

/-- A filter keeps keys rising. -/
theorem SMap.rising_filter (p : Nat × β → Bool) (m : SMap β) {lo : Option Nat} (h : SMap.rising lo m = true) :
    SMap.rising lo (m.filter p) = true := by
  induction m generalizing lo with
  | nil => rfl
  | cons e rest ih =>
    obtain ⟨k, v⟩ := e
    simp only [SMap.rising, Bool.and_eq_true] at h
    by_cases hp : p (k, v) = true
    · rw [List.filter_cons_of_pos hp]
      simp only [SMap.rising, Bool.and_eq_true]
      exact ⟨h.1, ih h.2⟩
    · rw [List.filter_cons_of_neg hp]
      refine ih (SMap.rising_mono rest ?_ h.2)
      intro x hx
      subst hx
      exact ⟨k, rfl, by have := h.1; simp at this; omega⟩

/-- An erase keeps keys rising. -/
theorem SMap.rising_erase (m : SMap β) (k : Nat) {lo : Option Nat} (h : SMap.rising lo m = true) :
    SMap.rising lo (SMap.erase m k) = true := by
  induction m generalizing lo with
  | nil => rfl
  | cons e rest ih =>
    obtain ⟨k', v'⟩ := e
    simp only [SMap.rising, Bool.and_eq_true] at h
    unfold SMap.erase
    split
    · refine SMap.rising_mono rest ?_ h.2
      intro x hx
      subst hx
      exact ⟨k', rfl, by have := h.1; simp at this; omega⟩
    · split
      · simpa [SMap.rising] using h
      · simp only [SMap.rising, Bool.and_eq_true]
        exact ⟨h.1, ih h.2⟩

/-- A key below every key of a map is not found. -/
theorem SMap.find?_below {m : SMap β} {lo : Option Nat} (k : Nat) (hk : ∃ x, lo = some x ∧ k ≤ x) (h : SMap.rising lo m = true) :
    SMap.find? m k = none := by
  obtain ⟨x, rfl, hx⟩ := hk
  cases m with
  | nil => rfl
  | cons e rest =>
    obtain ⟨k', v'⟩ := e
    simp only [SMap.rising, Bool.and_eq_true, decide_eq_true_eq] at h
    have h1 : ¬ k' = k := by omega
    have h2 : k < k' := by omega
    simp [SMap.find?, h1, h2]

/-- A key that has just been erased is not found. -/
theorem SMap.find?_erase_same (m : SMap β) (k : Nat) {lo : Option Nat} (h : SMap.rising lo m = true) :
    SMap.find? (SMap.erase m k) k = none := by
  induction m generalizing lo with
  | nil => rfl
  | cons e rest ih =>
    obtain ⟨k', v'⟩ := e
    simp only [SMap.rising, Bool.and_eq_true] at h
    unfold SMap.erase
    split
    · subst_vars; exact SMap.find?_below _ ⟨_, rfl, le_refl _⟩ h.2
    · split
      · simp_all [SMap.find?]
      · rename_i h1 h2
        simp [SMap.find?, h1, h2, ih h.2]

/-- Every other key is found as before. -/
theorem SMap.find?_erase_other (m : SMap β) (k j : Nat) (hj : j ≠ k) {lo : Option Nat} (h : SMap.rising lo m = true) :
    SMap.find? (SMap.erase m k) j = SMap.find? m j := by
  induction m generalizing lo with
  | nil => rfl
  | cons e rest ih =>
    obtain ⟨k', v'⟩ := e
    simp only [SMap.rising, Bool.and_eq_true] at h
    unfold SMap.erase
    split
    · rename_i hk
      have h' : ¬ k' = j := fun e => hj (by omega)
      by_cases hlt : j < k'
      · simp [SMap.find?, h', hlt, SMap.find?_below j ⟨k', rfl, by omega⟩ h.2]
      · simp [SMap.find?, h', hlt]
    · split
      · rfl
      · simp [SMap.find?, ih h.2]

/-! ## Memories -/


/-- What the canonical form says. -/
theorem SMap.wf_iff [DecidableEq β] (d : β) (m : SMap β) : SMap.wf d m = true ↔ SMap.rising none m = true ∧ ∀ e ∈ m, e.2 ≠ d := by
  simp [SMap.wf]

/-- The empty memory is in canonical form. -/
@[simp] theorem SMap.wf_nil [DecidableEq β] (d : β) : SMap.wf d ([] : SMap β) = true := rfl

/-- An entry of a map after a put is the new one or an old one. -/
theorem SMap.mem_put {m : SMap β} {k : Nat} {v : β} {e : Nat × β} (h : e ∈ SMap.put m k v) : e = (k, v) ∨ e ∈ m := by
  induction m with
  | nil => simpa [SMap.put] using h
  | cons x rest ih =>
    obtain ⟨k', v'⟩ := x
    unfold SMap.put at h
    split at h
    · rcases List.mem_cons.1 h with h | h
      · exact .inl h
      · exact .inr (List.mem_cons_of_mem _ h)
    · split at h
      · rcases List.mem_cons.1 h with h | h
        · exact .inl h
        · exact .inr h
      · rcases List.mem_cons.1 h with h | h
        · exact .inr (by simp [h])
        · rcases ih h with h | h
          · exact .inl h
          · exact .inr (List.mem_cons_of_mem _ h)

/-- An entry of a map after an erase is an old one. -/
theorem SMap.mem_erase {m : SMap β} {k : Nat} {e : Nat × β} (h : e ∈ SMap.erase m k) : e ∈ m := by
  induction m with
  | nil => simp [SMap.erase] at h
  | cons x rest ih =>
    obtain ⟨k', v'⟩ := x
    unfold SMap.erase at h
    split at h
    · exact List.mem_cons_of_mem _ h
    · split at h
      · exact h
      · rcases List.mem_cons.1 h with h | h
        · simp [h]
        · exact List.mem_cons_of_mem _ (ih h)

/-- A write keeps the canonical form. -/
theorem SMap.wf_write [DecidableEq β] (d : β) (m : SMap β) (k : Nat) (v : β) (h : SMap.wf d m = true) : SMap.wf d (SMap.write d m k v) = true := by
  rw [SMap.wf_iff] at h ⊢
  unfold SMap.write
  split
  · exact ⟨SMap.rising_erase m k h.1, fun e he => h.2 e (SMap.mem_erase he)⟩
  · refine ⟨SMap.rising_put m k v (by simp) h.1, fun e he => ?_⟩
    rcases SMap.mem_put he with rfl | he
    · assumption
    · exact h.2 e he

/-- A filter keeps the canonical form. -/
theorem SMap.wf_filter [DecidableEq β] (d : β) (p : Nat × β → Bool) (m : SMap β) (h : SMap.wf d m = true) : SMap.wf d (m.filter p) = true := by
  rw [SMap.wf_iff] at h ⊢
  exact ⟨SMap.rising_filter p m h.1, fun e he => h.2 e (List.mem_of_mem_filter he)⟩

/-- A fold of writes keeps the canonical form. -/
theorem SMap.wf_foldl [DecidableEq β] {α : Type} (d : β) (f : SMap β → α → SMap β) (hf : ∀ m x, SMap.wf d m = true → SMap.wf d (f m x) = true)
    (xs : List α) (m : SMap β) (h : SMap.wf d m = true) : SMap.wf d (xs.foldl f m) = true := by
  induction xs generalizing m with
  | nil => exact h
  | cons x xs ih => exact ih _ (hf m x h)

/-- A written key reads as the value written. -/
theorem SMap.read_write_same [DecidableEq β] (d : β) (m : SMap β) (k : Nat) (v : β) (h : SMap.wf d m = true) :
    SMap.read d (SMap.write d m k v) k = v := by
  rw [SMap.wf_iff] at h
  unfold SMap.read SMap.write
  split
  · rw [SMap.find?_erase_same m k h.1]; simp_all
  · simp

/-- Every other key reads as before. -/
theorem SMap.read_write_other [DecidableEq β] (d : β) (m : SMap β) (k j : Nat) (v : β) (hj : j ≠ k) (h : SMap.wf d m = true) :
    SMap.read d (SMap.write d m k v) j = SMap.read d m j := by
  rw [SMap.wf_iff] at h
  unfold SMap.read SMap.write
  split
  · rw [SMap.find?_erase_other m k j hj h.1]
  · rw [SMap.find?_put_other m k j v hj]

/-! ## Bytes -/

/-- Writing successive bytes keeps the canonical form. -/
theorem wf_writeBytes (m : SMap Byte) (a : Nat) (bs : List Byte) (h : SMap.wf 0 m = true) : SMap.wf 0 (writeBytes m a bs) = true := by
  induction bs generalizing m a with
  | nil => exact h
  | cons b rest ih => exact ih _ _ (SMap.wf_write 0 m a b h)

/-- A byte outside those written reads as before. -/
theorem read_writeBytes_other (m : SMap Byte) (a : Nat) (bs : List Byte) (k : Nat) (hk : k < a ∨ a + bs.length ≤ k)
    (h : SMap.wf 0 m = true) : SMap.read 0 (writeBytes m a bs) k = SMap.read 0 m k := by
  induction bs generalizing m a with
  | nil => rfl
  | cons b rest ih =>
    simp only [List.length_cons] at hk
    rw [writeBytes, ih _ _ (by omega) (SMap.wf_write 0 m a b h), SMap.read_write_other 0 m a k b (by omega) h]

/-- A byte among those written reads as the byte written. -/
theorem read_writeBytes_same (m : SMap Byte) (a : Nat) (bs : List Byte) (i : Nat) (hi : i < bs.length)
    (h : SMap.wf 0 m = true) : SMap.read 0 (writeBytes m a bs) (a + i) = bs[i] := by
  induction bs generalizing m a i with
  | nil => simp at hi
  | cons b rest ih =>
    cases i with
    | zero =>
      rw [writeBytes, read_writeBytes_other _ _ _ _ (by omega) (SMap.wf_write 0 m a b h)]
      simpa using SMap.read_write_same 0 m a b h
    | succ i =>
      rw [writeBytes, show a + (i + 1) = a + 1 + i by omega, ih _ _ _ (by simpa using hi) (SMap.wf_write 0 m a b h)]
      simp

/-- The bytes written are the bytes read back. -/
theorem readBytes_writeBytes (m : SMap Byte) (a : Nat) (bs : List Byte) (h : SMap.wf 0 m = true) :
    readBytes (writeBytes m a bs) a bs.length = bs := by
  apply List.ext_getElem
  · simp [readBytes]
  · intro i h1 h2
    simpa [readBytes] using read_writeBytes_same m a bs i h2 h

/-! ## Fixed arrays -/

/-- An entry just changed. -/
@[simp] theorem Vector.get_set_same {α : Type} {n : Nat} (v : Vector α n) (i : Fin n) (x : α) : (v.set i.val x i.isLt).get i = x := by
  show (v.set i.val x i.isLt)[i.val] = x
  exact Vector.getElem_set_self i.isLt

/-- Every other entry is as before. -/
theorem Vector.get_set_other {α : Type} {n : Nat} (v : Vector α n) (i j : Fin n) (x : α) (h : j ≠ i) :
    (v.set i.val x i.isLt).get j = v.get j := by
  show (v.set i.val x i.isLt)[j.val] = v[j.val]
  exact Vector.getElem_set_ne i.isLt j.isLt (fun e => h (Fin.ext e.symm))

end Sys2Proof.Machine
end

