-- ==== Sys2Proof/Laws/State.lean ====
section
/-!
SUPPORT. One law per field per named update of the state: what each leaves as it was, and what the updates of tiles, regions and tasks give
when they are looked up again.
-/
namespace Sys2Proof.Machine

/-! ### `State.setTile` puts a tile -/

@[simp] theorem State.setTile_cycle (s : State) (t : Nat) (x : Tile) : State.cycle (s.setTile t x) = s.cycle := rfl
@[simp] theorem State.setTile_time (s : State) (t : Nat) (x : Tile) : State.time (s.setTile t x) = s.time := rfl
@[simp] theorem State.setTile_epoch (s : State) (t : Nat) (x : Tile) : State.epoch (s.setTile t x) = s.epoch := rfl
@[simp] theorem State.setTile_agenda (s : State) (t : Nat) (x : Tile) : State.agenda (s.setTile t x) = s.agenda := rfl
@[simp] theorem State.setTile_scan (s : State) (t : Nat) (x : Tile) : State.scan (s.setTile t x) = s.scan := rfl
@[simp] theorem State.setTile_cur (s : State) (t : Nat) (x : Tile) : State.cur (s.setTile t x) = s.cur := rfl
@[simp] theorem State.setTile_freeCtr (s : State) (t : Nat) (x : Tile) : State.freeCtr (s.setTile t x) = s.freeCtr := rfl
@[simp] theorem State.setTile_nextId (s : State) (t : Nat) (x : Tile) : State.nextId (s.setTile t x) = s.nextId := rfl
@[simp] theorem State.setTile_hostOut (s : State) (t : Nat) (x : Tile) : State.hostOut (s.setTile t x) = s.hostOut := rfl
@[simp] theorem State.setTile_regs (s : State) (t : Nat) (x : Tile) : State.regs (s.setTile t x) = s.regs := rfl
@[simp] theorem State.setTile_dbg (s : State) (t : Nat) (x : Tile) : State.dbg (s.setTile t x) = s.dbg := rfl
@[simp] theorem State.setTile_am (s : State) (t : Nat) (x : Tile) : State.am (s.setTile t x) = s.am := rfl
@[simp] theorem State.setTile_queues (s : State) (t : Nat) (x : Tile) : State.queues (s.setTile t x) = s.queues := rfl
@[simp] theorem State.setTile_lastQueue (s : State) (t : Nat) (x : Tile) : State.lastQueue (s.setTile t x) = s.lastQueue := rfl
@[simp] theorem State.setTile_lastGrant (s : State) (t : Nat) (x : Tile) : State.lastGrant (s.setTile t x) = s.lastGrant := rfl
@[simp] theorem State.setTile_refilled (s : State) (t : Nat) (x : Tile) : State.refilled (s.setTile t x) = s.refilled := rfl
@[simp] theorem State.setTile_packets (s : State) (t : Nat) (x : Tile) : State.packets (s.setTile t x) = s.packets := rfl
@[simp] theorem State.setTile_launches (s : State) (t : Nat) (x : Tile) : State.launches (s.setTile t x) = s.launches := rfl
@[simp] theorem State.setTile_hbm (s : State) (t : Nat) (x : Tile) : State.hbm (s.setTile t x) = s.hbm := rfl
@[simp] theorem State.setTile_sram (s : State) (t : Nat) (x : Tile) : State.sram (s.setTile t x) = s.sram := rfl
@[simp] theorem State.setTile_full (s : State) (t : Nat) (x : Tile) : State.full (s.setTile t x) = s.full := rfl
@[simp] theorem State.setTile_flash (s : State) (t : Nat) (x : Tile) : State.flash (s.setTile t x) = s.flash := rfl
@[simp] theorem State.setTile_lines (s : State) (t : Nat) (x : Tile) : State.lines (s.setTile t x) = s.lines := rfl
@[simp] theorem State.setTile_pend (s : State) (t : Nat) (x : Tile) : State.pend (s.setTile t x) = s.pend := rfl
@[simp] theorem State.setTile_ports (s : State) (t : Nat) (x : Tile) : State.ports (s.setTile t x) = s.ports := rfl
@[simp] theorem State.setTile_watched (s : State) (t : Nat) (x : Tile) : State.watched (s.setTile t x) = s.watched := rfl
@[simp] theorem State.setTile_relRecs (s : State) (t : Nat) (x : Tile) : State.relRecs (s.setTile t x) = s.relRecs := rfl
@[simp] theorem State.setTile_replicas (s : State) (t : Nat) (x : Tile) : State.replicas (s.setTile t x) = s.replicas := rfl
@[simp] theorem State.setTile_fetches (s : State) (t : Nat) (x : Tile) : State.fetches (s.setTile t x) = s.fetches := rfl
@[simp] theorem State.setTile_flights (s : State) (t : Nat) (x : Tile) : State.flights (s.setTile t x) = s.flights := rfl
@[simp] theorem State.setTile_served (s : State) (t : Nat) (x : Tile) : State.served (s.setTile t x) = s.served := rfl
@[simp] theorem State.setTile_reqs (s : State) (t : Nat) (x : Tile) : State.reqs (s.setTile t x) = s.reqs := rfl
@[simp] theorem State.setTile_faultToks (s : State) (t : Nat) (x : Tile) : State.faultToks (s.setTile t x) = s.faultToks := rfl
@[simp] theorem State.setTile_transfers (s : State) (t : Nat) (x : Tile) : State.transfers (s.setTile t x) = s.transfers := rfl
@[simp] theorem State.setTile_regions (s : State) (t : Nat) (x : Tile) : State.regions (s.setTile t x) = s.regions := rfl
@[simp] theorem State.setTile_versions (s : State) (t : Nat) (x : Tile) : State.versions (s.setTile t x) = s.versions := rfl
@[simp] theorem State.setTile_tasks (s : State) (t : Nat) (x : Tile) : State.tasks (s.setTile t x) = s.tasks := rfl
@[simp] theorem State.setTile_seq (s : State) (t : Nat) (x : Tile) : State.seq (s.setTile t x) = s.seq := rfl
@[simp] theorem State.setTile_maxTs (s : State) (t : Nat) (x : Tile) : State.maxTs (s.setTile t x) = s.maxTs := rfl
@[simp] theorem State.setTile_plans (s : State) (t : Nat) (x : Tile) : State.plans (s.setTile t x) = s.plans := rfl
@[simp] theorem State.setTile_library (s : State) (t : Nat) (x : Tile) : State.library (s.setTile t x) = s.library := rfl
@[simp] theorem State.setTile_solderBusy (s : State) (t : Nat) (x : Tile) : State.solderBusy (s.setTile t x) = s.solderBusy := rfl
@[simp] theorem State.setTile_motifs (s : State) (t : Nat) (x : Tile) : State.motifs (s.setTile t x) = s.motifs := rfl
@[simp] theorem State.setTile_motifIds (s : State) (t : Nat) (x : Tile) : State.motifIds (s.setTile t x) = s.motifIds := rfl
@[simp] theorem State.setTile_launchCtr (s : State) (t : Nat) (x : Tile) : State.launchCtr (s.setTile t x) = s.launchCtr := rfl
@[simp] theorem State.setTile_retiredIdx (s : State) (t : Nat) (x : Tile) : State.retiredIdx (s.setTile t x) = s.retiredIdx := rfl
@[simp] theorem State.setTile_reclaiming (s : State) (t : Nat) (x : Tile) : State.reclaiming (s.setTile t x) = s.reclaiming := rfl
@[simp] theorem State.setTile_short (s : State) (t : Nat) (x : Tile) : State.short (s.setTile t x) = s.short := rfl
@[simp] theorem State.setTile_dying (s : State) (t : Nat) (x : Tile) : State.dying (s.setTile t x) = s.dying := rfl
@[simp] theorem State.setTile_hnewWait (s : State) (t : Nat) (x : Tile) : State.hnewWait (s.setTile t x) = s.hnewWait := rfl
@[simp] theorem State.setTile_comms (s : State) (t : Nat) (x : Tile) : State.comms (s.setTile t x) = s.comms := rfl
@[simp] theorem State.setTile_tables (s : State) (t : Nat) (x : Tile) : State.tables (s.setTile t x) = s.tables := rfl
@[simp] theorem State.setTile_engines (s : State) (t : Nat) (x : Tile) : State.engines (s.setTile t x) = s.engines := rfl
@[simp] theorem State.setTile_switches (s : State) (t : Nat) (x : Tile) : State.switches (s.setTile t x) = s.switches := rfl

/-! ### `State.modTile` changes one tile -/

@[simp] theorem State.modTile_cycle (s : State) (t : Nat) (f : Tile → Tile) : State.cycle (s.modTile t f) = s.cycle := by unfold State.modTile; split <;> rfl
@[simp] theorem State.modTile_time (s : State) (t : Nat) (f : Tile → Tile) : State.time (s.modTile t f) = s.time := by unfold State.modTile; split <;> rfl
@[simp] theorem State.modTile_epoch (s : State) (t : Nat) (f : Tile → Tile) : State.epoch (s.modTile t f) = s.epoch := by unfold State.modTile; split <;> rfl
@[simp] theorem State.modTile_agenda (s : State) (t : Nat) (f : Tile → Tile) : State.agenda (s.modTile t f) = s.agenda := by unfold State.modTile; split <;> rfl
@[simp] theorem State.modTile_scan (s : State) (t : Nat) (f : Tile → Tile) : State.scan (s.modTile t f) = s.scan := by unfold State.modTile; split <;> rfl
@[simp] theorem State.modTile_cur (s : State) (t : Nat) (f : Tile → Tile) : State.cur (s.modTile t f) = s.cur := by unfold State.modTile; split <;> rfl
@[simp] theorem State.modTile_freeCtr (s : State) (t : Nat) (f : Tile → Tile) : State.freeCtr (s.modTile t f) = s.freeCtr := by unfold State.modTile; split <;> rfl
@[simp] theorem State.modTile_nextId (s : State) (t : Nat) (f : Tile → Tile) : State.nextId (s.modTile t f) = s.nextId := by unfold State.modTile; split <;> rfl
@[simp] theorem State.modTile_hostOut (s : State) (t : Nat) (f : Tile → Tile) : State.hostOut (s.modTile t f) = s.hostOut := by unfold State.modTile; split <;> rfl
@[simp] theorem State.modTile_regs (s : State) (t : Nat) (f : Tile → Tile) : State.regs (s.modTile t f) = s.regs := by unfold State.modTile; split <;> rfl
@[simp] theorem State.modTile_dbg (s : State) (t : Nat) (f : Tile → Tile) : State.dbg (s.modTile t f) = s.dbg := by unfold State.modTile; split <;> rfl
@[simp] theorem State.modTile_am (s : State) (t : Nat) (f : Tile → Tile) : State.am (s.modTile t f) = s.am := by unfold State.modTile; split <;> rfl
@[simp] theorem State.modTile_queues (s : State) (t : Nat) (f : Tile → Tile) : State.queues (s.modTile t f) = s.queues := by unfold State.modTile; split <;> rfl
@[simp] theorem State.modTile_lastQueue (s : State) (t : Nat) (f : Tile → Tile) : State.lastQueue (s.modTile t f) = s.lastQueue := by unfold State.modTile; split <;> rfl
@[simp] theorem State.modTile_lastGrant (s : State) (t : Nat) (f : Tile → Tile) : State.lastGrant (s.modTile t f) = s.lastGrant := by unfold State.modTile; split <;> rfl
@[simp] theorem State.modTile_refilled (s : State) (t : Nat) (f : Tile → Tile) : State.refilled (s.modTile t f) = s.refilled := by unfold State.modTile; split <;> rfl
@[simp] theorem State.modTile_packets (s : State) (t : Nat) (f : Tile → Tile) : State.packets (s.modTile t f) = s.packets := by unfold State.modTile; split <;> rfl
@[simp] theorem State.modTile_launches (s : State) (t : Nat) (f : Tile → Tile) : State.launches (s.modTile t f) = s.launches := by unfold State.modTile; split <;> rfl
@[simp] theorem State.modTile_hbm (s : State) (t : Nat) (f : Tile → Tile) : State.hbm (s.modTile t f) = s.hbm := by unfold State.modTile; split <;> rfl
@[simp] theorem State.modTile_sram (s : State) (t : Nat) (f : Tile → Tile) : State.sram (s.modTile t f) = s.sram := by unfold State.modTile; split <;> rfl
@[simp] theorem State.modTile_full (s : State) (t : Nat) (f : Tile → Tile) : State.full (s.modTile t f) = s.full := by unfold State.modTile; split <;> rfl
@[simp] theorem State.modTile_flash (s : State) (t : Nat) (f : Tile → Tile) : State.flash (s.modTile t f) = s.flash := by unfold State.modTile; split <;> rfl
@[simp] theorem State.modTile_lines (s : State) (t : Nat) (f : Tile → Tile) : State.lines (s.modTile t f) = s.lines := by unfold State.modTile; split <;> rfl
@[simp] theorem State.modTile_pend (s : State) (t : Nat) (f : Tile → Tile) : State.pend (s.modTile t f) = s.pend := by unfold State.modTile; split <;> rfl
@[simp] theorem State.modTile_ports (s : State) (t : Nat) (f : Tile → Tile) : State.ports (s.modTile t f) = s.ports := by unfold State.modTile; split <;> rfl
@[simp] theorem State.modTile_watched (s : State) (t : Nat) (f : Tile → Tile) : State.watched (s.modTile t f) = s.watched := by unfold State.modTile; split <;> rfl
@[simp] theorem State.modTile_relRecs (s : State) (t : Nat) (f : Tile → Tile) : State.relRecs (s.modTile t f) = s.relRecs := by unfold State.modTile; split <;> rfl
@[simp] theorem State.modTile_replicas (s : State) (t : Nat) (f : Tile → Tile) : State.replicas (s.modTile t f) = s.replicas := by unfold State.modTile; split <;> rfl
@[simp] theorem State.modTile_fetches (s : State) (t : Nat) (f : Tile → Tile) : State.fetches (s.modTile t f) = s.fetches := by unfold State.modTile; split <;> rfl
@[simp] theorem State.modTile_flights (s : State) (t : Nat) (f : Tile → Tile) : State.flights (s.modTile t f) = s.flights := by unfold State.modTile; split <;> rfl
@[simp] theorem State.modTile_served (s : State) (t : Nat) (f : Tile → Tile) : State.served (s.modTile t f) = s.served := by unfold State.modTile; split <;> rfl
@[simp] theorem State.modTile_reqs (s : State) (t : Nat) (f : Tile → Tile) : State.reqs (s.modTile t f) = s.reqs := by unfold State.modTile; split <;> rfl
@[simp] theorem State.modTile_faultToks (s : State) (t : Nat) (f : Tile → Tile) : State.faultToks (s.modTile t f) = s.faultToks := by unfold State.modTile; split <;> rfl
@[simp] theorem State.modTile_transfers (s : State) (t : Nat) (f : Tile → Tile) : State.transfers (s.modTile t f) = s.transfers := by unfold State.modTile; split <;> rfl
@[simp] theorem State.modTile_regions (s : State) (t : Nat) (f : Tile → Tile) : State.regions (s.modTile t f) = s.regions := by unfold State.modTile; split <;> rfl
@[simp] theorem State.modTile_versions (s : State) (t : Nat) (f : Tile → Tile) : State.versions (s.modTile t f) = s.versions := by unfold State.modTile; split <;> rfl
@[simp] theorem State.modTile_tasks (s : State) (t : Nat) (f : Tile → Tile) : State.tasks (s.modTile t f) = s.tasks := by unfold State.modTile; split <;> rfl
@[simp] theorem State.modTile_seq (s : State) (t : Nat) (f : Tile → Tile) : State.seq (s.modTile t f) = s.seq := by unfold State.modTile; split <;> rfl
@[simp] theorem State.modTile_maxTs (s : State) (t : Nat) (f : Tile → Tile) : State.maxTs (s.modTile t f) = s.maxTs := by unfold State.modTile; split <;> rfl
@[simp] theorem State.modTile_plans (s : State) (t : Nat) (f : Tile → Tile) : State.plans (s.modTile t f) = s.plans := by unfold State.modTile; split <;> rfl
@[simp] theorem State.modTile_library (s : State) (t : Nat) (f : Tile → Tile) : State.library (s.modTile t f) = s.library := by unfold State.modTile; split <;> rfl
@[simp] theorem State.modTile_solderBusy (s : State) (t : Nat) (f : Tile → Tile) : State.solderBusy (s.modTile t f) = s.solderBusy := by unfold State.modTile; split <;> rfl
@[simp] theorem State.modTile_motifs (s : State) (t : Nat) (f : Tile → Tile) : State.motifs (s.modTile t f) = s.motifs := by unfold State.modTile; split <;> rfl
@[simp] theorem State.modTile_motifIds (s : State) (t : Nat) (f : Tile → Tile) : State.motifIds (s.modTile t f) = s.motifIds := by unfold State.modTile; split <;> rfl
@[simp] theorem State.modTile_launchCtr (s : State) (t : Nat) (f : Tile → Tile) : State.launchCtr (s.modTile t f) = s.launchCtr := by unfold State.modTile; split <;> rfl
@[simp] theorem State.modTile_retiredIdx (s : State) (t : Nat) (f : Tile → Tile) : State.retiredIdx (s.modTile t f) = s.retiredIdx := by unfold State.modTile; split <;> rfl
@[simp] theorem State.modTile_reclaiming (s : State) (t : Nat) (f : Tile → Tile) : State.reclaiming (s.modTile t f) = s.reclaiming := by unfold State.modTile; split <;> rfl
@[simp] theorem State.modTile_short (s : State) (t : Nat) (f : Tile → Tile) : State.short (s.modTile t f) = s.short := by unfold State.modTile; split <;> rfl
@[simp] theorem State.modTile_dying (s : State) (t : Nat) (f : Tile → Tile) : State.dying (s.modTile t f) = s.dying := by unfold State.modTile; split <;> rfl
@[simp] theorem State.modTile_hnewWait (s : State) (t : Nat) (f : Tile → Tile) : State.hnewWait (s.modTile t f) = s.hnewWait := by unfold State.modTile; split <;> rfl
@[simp] theorem State.modTile_comms (s : State) (t : Nat) (f : Tile → Tile) : State.comms (s.modTile t f) = s.comms := by unfold State.modTile; split <;> rfl
@[simp] theorem State.modTile_tables (s : State) (t : Nat) (f : Tile → Tile) : State.tables (s.modTile t f) = s.tables := by unfold State.modTile; split <;> rfl
@[simp] theorem State.modTile_engines (s : State) (t : Nat) (f : Tile → Tile) : State.engines (s.modTile t f) = s.engines := by unfold State.modTile; split <;> rfl
@[simp] theorem State.modTile_switches (s : State) (t : Nat) (f : Tile → Tile) : State.switches (s.modTile t f) = s.switches := by unfold State.modTile; split <;> rfl

/-! ### `State.modElem` changes one element -/

@[simp] theorem State.modElem_cycle (s : State) (t : Nat) (f : Elem → Elem) : State.cycle (s.modElem t f) = s.cycle := State.modTile_cycle s t _
@[simp] theorem State.modElem_time (s : State) (t : Nat) (f : Elem → Elem) : State.time (s.modElem t f) = s.time := State.modTile_time s t _
@[simp] theorem State.modElem_epoch (s : State) (t : Nat) (f : Elem → Elem) : State.epoch (s.modElem t f) = s.epoch := State.modTile_epoch s t _
@[simp] theorem State.modElem_agenda (s : State) (t : Nat) (f : Elem → Elem) : State.agenda (s.modElem t f) = s.agenda := State.modTile_agenda s t _
@[simp] theorem State.modElem_scan (s : State) (t : Nat) (f : Elem → Elem) : State.scan (s.modElem t f) = s.scan := State.modTile_scan s t _
@[simp] theorem State.modElem_cur (s : State) (t : Nat) (f : Elem → Elem) : State.cur (s.modElem t f) = s.cur := State.modTile_cur s t _
@[simp] theorem State.modElem_freeCtr (s : State) (t : Nat) (f : Elem → Elem) : State.freeCtr (s.modElem t f) = s.freeCtr := State.modTile_freeCtr s t _
@[simp] theorem State.modElem_nextId (s : State) (t : Nat) (f : Elem → Elem) : State.nextId (s.modElem t f) = s.nextId := State.modTile_nextId s t _
@[simp] theorem State.modElem_hostOut (s : State) (t : Nat) (f : Elem → Elem) : State.hostOut (s.modElem t f) = s.hostOut := State.modTile_hostOut s t _
@[simp] theorem State.modElem_regs (s : State) (t : Nat) (f : Elem → Elem) : State.regs (s.modElem t f) = s.regs := State.modTile_regs s t _
@[simp] theorem State.modElem_dbg (s : State) (t : Nat) (f : Elem → Elem) : State.dbg (s.modElem t f) = s.dbg := State.modTile_dbg s t _
@[simp] theorem State.modElem_am (s : State) (t : Nat) (f : Elem → Elem) : State.am (s.modElem t f) = s.am := State.modTile_am s t _
@[simp] theorem State.modElem_queues (s : State) (t : Nat) (f : Elem → Elem) : State.queues (s.modElem t f) = s.queues := State.modTile_queues s t _
@[simp] theorem State.modElem_lastQueue (s : State) (t : Nat) (f : Elem → Elem) : State.lastQueue (s.modElem t f) = s.lastQueue := State.modTile_lastQueue s t _
@[simp] theorem State.modElem_lastGrant (s : State) (t : Nat) (f : Elem → Elem) : State.lastGrant (s.modElem t f) = s.lastGrant := State.modTile_lastGrant s t _
@[simp] theorem State.modElem_refilled (s : State) (t : Nat) (f : Elem → Elem) : State.refilled (s.modElem t f) = s.refilled := State.modTile_refilled s t _
@[simp] theorem State.modElem_packets (s : State) (t : Nat) (f : Elem → Elem) : State.packets (s.modElem t f) = s.packets := State.modTile_packets s t _
@[simp] theorem State.modElem_launches (s : State) (t : Nat) (f : Elem → Elem) : State.launches (s.modElem t f) = s.launches := State.modTile_launches s t _
@[simp] theorem State.modElem_hbm (s : State) (t : Nat) (f : Elem → Elem) : State.hbm (s.modElem t f) = s.hbm := State.modTile_hbm s t _
@[simp] theorem State.modElem_sram (s : State) (t : Nat) (f : Elem → Elem) : State.sram (s.modElem t f) = s.sram := State.modTile_sram s t _
@[simp] theorem State.modElem_full (s : State) (t : Nat) (f : Elem → Elem) : State.full (s.modElem t f) = s.full := State.modTile_full s t _
@[simp] theorem State.modElem_flash (s : State) (t : Nat) (f : Elem → Elem) : State.flash (s.modElem t f) = s.flash := State.modTile_flash s t _
@[simp] theorem State.modElem_lines (s : State) (t : Nat) (f : Elem → Elem) : State.lines (s.modElem t f) = s.lines := State.modTile_lines s t _
@[simp] theorem State.modElem_pend (s : State) (t : Nat) (f : Elem → Elem) : State.pend (s.modElem t f) = s.pend := State.modTile_pend s t _
@[simp] theorem State.modElem_ports (s : State) (t : Nat) (f : Elem → Elem) : State.ports (s.modElem t f) = s.ports := State.modTile_ports s t _
@[simp] theorem State.modElem_watched (s : State) (t : Nat) (f : Elem → Elem) : State.watched (s.modElem t f) = s.watched := State.modTile_watched s t _
@[simp] theorem State.modElem_relRecs (s : State) (t : Nat) (f : Elem → Elem) : State.relRecs (s.modElem t f) = s.relRecs := State.modTile_relRecs s t _
@[simp] theorem State.modElem_replicas (s : State) (t : Nat) (f : Elem → Elem) : State.replicas (s.modElem t f) = s.replicas := State.modTile_replicas s t _
@[simp] theorem State.modElem_fetches (s : State) (t : Nat) (f : Elem → Elem) : State.fetches (s.modElem t f) = s.fetches := State.modTile_fetches s t _
@[simp] theorem State.modElem_flights (s : State) (t : Nat) (f : Elem → Elem) : State.flights (s.modElem t f) = s.flights := State.modTile_flights s t _
@[simp] theorem State.modElem_served (s : State) (t : Nat) (f : Elem → Elem) : State.served (s.modElem t f) = s.served := State.modTile_served s t _
@[simp] theorem State.modElem_reqs (s : State) (t : Nat) (f : Elem → Elem) : State.reqs (s.modElem t f) = s.reqs := State.modTile_reqs s t _
@[simp] theorem State.modElem_faultToks (s : State) (t : Nat) (f : Elem → Elem) : State.faultToks (s.modElem t f) = s.faultToks := State.modTile_faultToks s t _
@[simp] theorem State.modElem_transfers (s : State) (t : Nat) (f : Elem → Elem) : State.transfers (s.modElem t f) = s.transfers := State.modTile_transfers s t _
@[simp] theorem State.modElem_regions (s : State) (t : Nat) (f : Elem → Elem) : State.regions (s.modElem t f) = s.regions := State.modTile_regions s t _
@[simp] theorem State.modElem_versions (s : State) (t : Nat) (f : Elem → Elem) : State.versions (s.modElem t f) = s.versions := State.modTile_versions s t _
@[simp] theorem State.modElem_tasks (s : State) (t : Nat) (f : Elem → Elem) : State.tasks (s.modElem t f) = s.tasks := State.modTile_tasks s t _
@[simp] theorem State.modElem_seq (s : State) (t : Nat) (f : Elem → Elem) : State.seq (s.modElem t f) = s.seq := State.modTile_seq s t _
@[simp] theorem State.modElem_maxTs (s : State) (t : Nat) (f : Elem → Elem) : State.maxTs (s.modElem t f) = s.maxTs := State.modTile_maxTs s t _
@[simp] theorem State.modElem_plans (s : State) (t : Nat) (f : Elem → Elem) : State.plans (s.modElem t f) = s.plans := State.modTile_plans s t _
@[simp] theorem State.modElem_library (s : State) (t : Nat) (f : Elem → Elem) : State.library (s.modElem t f) = s.library := State.modTile_library s t _
@[simp] theorem State.modElem_solderBusy (s : State) (t : Nat) (f : Elem → Elem) : State.solderBusy (s.modElem t f) = s.solderBusy := State.modTile_solderBusy s t _
@[simp] theorem State.modElem_motifs (s : State) (t : Nat) (f : Elem → Elem) : State.motifs (s.modElem t f) = s.motifs := State.modTile_motifs s t _
@[simp] theorem State.modElem_motifIds (s : State) (t : Nat) (f : Elem → Elem) : State.motifIds (s.modElem t f) = s.motifIds := State.modTile_motifIds s t _
@[simp] theorem State.modElem_launchCtr (s : State) (t : Nat) (f : Elem → Elem) : State.launchCtr (s.modElem t f) = s.launchCtr := State.modTile_launchCtr s t _
@[simp] theorem State.modElem_retiredIdx (s : State) (t : Nat) (f : Elem → Elem) : State.retiredIdx (s.modElem t f) = s.retiredIdx := State.modTile_retiredIdx s t _
@[simp] theorem State.modElem_reclaiming (s : State) (t : Nat) (f : Elem → Elem) : State.reclaiming (s.modElem t f) = s.reclaiming := State.modTile_reclaiming s t _
@[simp] theorem State.modElem_short (s : State) (t : Nat) (f : Elem → Elem) : State.short (s.modElem t f) = s.short := State.modTile_short s t _
@[simp] theorem State.modElem_dying (s : State) (t : Nat) (f : Elem → Elem) : State.dying (s.modElem t f) = s.dying := State.modTile_dying s t _
@[simp] theorem State.modElem_hnewWait (s : State) (t : Nat) (f : Elem → Elem) : State.hnewWait (s.modElem t f) = s.hnewWait := State.modTile_hnewWait s t _
@[simp] theorem State.modElem_comms (s : State) (t : Nat) (f : Elem → Elem) : State.comms (s.modElem t f) = s.comms := State.modTile_comms s t _
@[simp] theorem State.modElem_tables (s : State) (t : Nat) (f : Elem → Elem) : State.tables (s.modElem t f) = s.tables := State.modTile_tables s t _
@[simp] theorem State.modElem_engines (s : State) (t : Nat) (f : Elem → Elem) : State.engines (s.modElem t f) = s.engines := State.modTile_engines s t _
@[simp] theorem State.modElem_switches (s : State) (t : Nat) (f : Elem → Elem) : State.switches (s.modElem t f) = s.switches := State.modTile_switches s t _

/-! ### `State.modMem` changes one memory tile -/

@[simp] theorem State.modMem_cycle (s : State) (t : Nat) (f : MTile → MTile) : State.cycle (s.modMem t f) = s.cycle := State.modTile_cycle s t _
@[simp] theorem State.modMem_time (s : State) (t : Nat) (f : MTile → MTile) : State.time (s.modMem t f) = s.time := State.modTile_time s t _
@[simp] theorem State.modMem_epoch (s : State) (t : Nat) (f : MTile → MTile) : State.epoch (s.modMem t f) = s.epoch := State.modTile_epoch s t _
@[simp] theorem State.modMem_agenda (s : State) (t : Nat) (f : MTile → MTile) : State.agenda (s.modMem t f) = s.agenda := State.modTile_agenda s t _
@[simp] theorem State.modMem_scan (s : State) (t : Nat) (f : MTile → MTile) : State.scan (s.modMem t f) = s.scan := State.modTile_scan s t _
@[simp] theorem State.modMem_cur (s : State) (t : Nat) (f : MTile → MTile) : State.cur (s.modMem t f) = s.cur := State.modTile_cur s t _
@[simp] theorem State.modMem_freeCtr (s : State) (t : Nat) (f : MTile → MTile) : State.freeCtr (s.modMem t f) = s.freeCtr := State.modTile_freeCtr s t _
@[simp] theorem State.modMem_nextId (s : State) (t : Nat) (f : MTile → MTile) : State.nextId (s.modMem t f) = s.nextId := State.modTile_nextId s t _
@[simp] theorem State.modMem_hostOut (s : State) (t : Nat) (f : MTile → MTile) : State.hostOut (s.modMem t f) = s.hostOut := State.modTile_hostOut s t _
@[simp] theorem State.modMem_regs (s : State) (t : Nat) (f : MTile → MTile) : State.regs (s.modMem t f) = s.regs := State.modTile_regs s t _
@[simp] theorem State.modMem_dbg (s : State) (t : Nat) (f : MTile → MTile) : State.dbg (s.modMem t f) = s.dbg := State.modTile_dbg s t _
@[simp] theorem State.modMem_am (s : State) (t : Nat) (f : MTile → MTile) : State.am (s.modMem t f) = s.am := State.modTile_am s t _
@[simp] theorem State.modMem_queues (s : State) (t : Nat) (f : MTile → MTile) : State.queues (s.modMem t f) = s.queues := State.modTile_queues s t _
@[simp] theorem State.modMem_lastQueue (s : State) (t : Nat) (f : MTile → MTile) : State.lastQueue (s.modMem t f) = s.lastQueue := State.modTile_lastQueue s t _
@[simp] theorem State.modMem_lastGrant (s : State) (t : Nat) (f : MTile → MTile) : State.lastGrant (s.modMem t f) = s.lastGrant := State.modTile_lastGrant s t _
@[simp] theorem State.modMem_refilled (s : State) (t : Nat) (f : MTile → MTile) : State.refilled (s.modMem t f) = s.refilled := State.modTile_refilled s t _
@[simp] theorem State.modMem_packets (s : State) (t : Nat) (f : MTile → MTile) : State.packets (s.modMem t f) = s.packets := State.modTile_packets s t _
@[simp] theorem State.modMem_launches (s : State) (t : Nat) (f : MTile → MTile) : State.launches (s.modMem t f) = s.launches := State.modTile_launches s t _
@[simp] theorem State.modMem_hbm (s : State) (t : Nat) (f : MTile → MTile) : State.hbm (s.modMem t f) = s.hbm := State.modTile_hbm s t _
@[simp] theorem State.modMem_sram (s : State) (t : Nat) (f : MTile → MTile) : State.sram (s.modMem t f) = s.sram := State.modTile_sram s t _
@[simp] theorem State.modMem_full (s : State) (t : Nat) (f : MTile → MTile) : State.full (s.modMem t f) = s.full := State.modTile_full s t _
@[simp] theorem State.modMem_flash (s : State) (t : Nat) (f : MTile → MTile) : State.flash (s.modMem t f) = s.flash := State.modTile_flash s t _
@[simp] theorem State.modMem_lines (s : State) (t : Nat) (f : MTile → MTile) : State.lines (s.modMem t f) = s.lines := State.modTile_lines s t _
@[simp] theorem State.modMem_pend (s : State) (t : Nat) (f : MTile → MTile) : State.pend (s.modMem t f) = s.pend := State.modTile_pend s t _
@[simp] theorem State.modMem_ports (s : State) (t : Nat) (f : MTile → MTile) : State.ports (s.modMem t f) = s.ports := State.modTile_ports s t _
@[simp] theorem State.modMem_watched (s : State) (t : Nat) (f : MTile → MTile) : State.watched (s.modMem t f) = s.watched := State.modTile_watched s t _
@[simp] theorem State.modMem_relRecs (s : State) (t : Nat) (f : MTile → MTile) : State.relRecs (s.modMem t f) = s.relRecs := State.modTile_relRecs s t _
@[simp] theorem State.modMem_replicas (s : State) (t : Nat) (f : MTile → MTile) : State.replicas (s.modMem t f) = s.replicas := State.modTile_replicas s t _
@[simp] theorem State.modMem_fetches (s : State) (t : Nat) (f : MTile → MTile) : State.fetches (s.modMem t f) = s.fetches := State.modTile_fetches s t _
@[simp] theorem State.modMem_flights (s : State) (t : Nat) (f : MTile → MTile) : State.flights (s.modMem t f) = s.flights := State.modTile_flights s t _
@[simp] theorem State.modMem_served (s : State) (t : Nat) (f : MTile → MTile) : State.served (s.modMem t f) = s.served := State.modTile_served s t _
@[simp] theorem State.modMem_reqs (s : State) (t : Nat) (f : MTile → MTile) : State.reqs (s.modMem t f) = s.reqs := State.modTile_reqs s t _
@[simp] theorem State.modMem_faultToks (s : State) (t : Nat) (f : MTile → MTile) : State.faultToks (s.modMem t f) = s.faultToks := State.modTile_faultToks s t _
@[simp] theorem State.modMem_transfers (s : State) (t : Nat) (f : MTile → MTile) : State.transfers (s.modMem t f) = s.transfers := State.modTile_transfers s t _
@[simp] theorem State.modMem_regions (s : State) (t : Nat) (f : MTile → MTile) : State.regions (s.modMem t f) = s.regions := State.modTile_regions s t _
@[simp] theorem State.modMem_versions (s : State) (t : Nat) (f : MTile → MTile) : State.versions (s.modMem t f) = s.versions := State.modTile_versions s t _
@[simp] theorem State.modMem_tasks (s : State) (t : Nat) (f : MTile → MTile) : State.tasks (s.modMem t f) = s.tasks := State.modTile_tasks s t _
@[simp] theorem State.modMem_seq (s : State) (t : Nat) (f : MTile → MTile) : State.seq (s.modMem t f) = s.seq := State.modTile_seq s t _
@[simp] theorem State.modMem_maxTs (s : State) (t : Nat) (f : MTile → MTile) : State.maxTs (s.modMem t f) = s.maxTs := State.modTile_maxTs s t _
@[simp] theorem State.modMem_plans (s : State) (t : Nat) (f : MTile → MTile) : State.plans (s.modMem t f) = s.plans := State.modTile_plans s t _
@[simp] theorem State.modMem_library (s : State) (t : Nat) (f : MTile → MTile) : State.library (s.modMem t f) = s.library := State.modTile_library s t _
@[simp] theorem State.modMem_solderBusy (s : State) (t : Nat) (f : MTile → MTile) : State.solderBusy (s.modMem t f) = s.solderBusy := State.modTile_solderBusy s t _
@[simp] theorem State.modMem_motifs (s : State) (t : Nat) (f : MTile → MTile) : State.motifs (s.modMem t f) = s.motifs := State.modTile_motifs s t _
@[simp] theorem State.modMem_motifIds (s : State) (t : Nat) (f : MTile → MTile) : State.motifIds (s.modMem t f) = s.motifIds := State.modTile_motifIds s t _
@[simp] theorem State.modMem_launchCtr (s : State) (t : Nat) (f : MTile → MTile) : State.launchCtr (s.modMem t f) = s.launchCtr := State.modTile_launchCtr s t _
@[simp] theorem State.modMem_retiredIdx (s : State) (t : Nat) (f : MTile → MTile) : State.retiredIdx (s.modMem t f) = s.retiredIdx := State.modTile_retiredIdx s t _
@[simp] theorem State.modMem_reclaiming (s : State) (t : Nat) (f : MTile → MTile) : State.reclaiming (s.modMem t f) = s.reclaiming := State.modTile_reclaiming s t _
@[simp] theorem State.modMem_short (s : State) (t : Nat) (f : MTile → MTile) : State.short (s.modMem t f) = s.short := State.modTile_short s t _
@[simp] theorem State.modMem_dying (s : State) (t : Nat) (f : MTile → MTile) : State.dying (s.modMem t f) = s.dying := State.modTile_dying s t _
@[simp] theorem State.modMem_hnewWait (s : State) (t : Nat) (f : MTile → MTile) : State.hnewWait (s.modMem t f) = s.hnewWait := State.modTile_hnewWait s t _
@[simp] theorem State.modMem_comms (s : State) (t : Nat) (f : MTile → MTile) : State.comms (s.modMem t f) = s.comms := State.modTile_comms s t _
@[simp] theorem State.modMem_tables (s : State) (t : Nat) (f : MTile → MTile) : State.tables (s.modMem t f) = s.tables := State.modTile_tables s t _
@[simp] theorem State.modMem_engines (s : State) (t : Nat) (f : MTile → MTile) : State.engines (s.modMem t f) = s.engines := State.modTile_engines s t _
@[simp] theorem State.modMem_switches (s : State) (t : Nat) (f : MTile → MTile) : State.switches (s.modMem t f) = s.switches := State.modTile_switches s t _

/-! ### `State.modCtx` changes one context -/

@[simp] theorem State.modCtx_cycle (s : State) (t : Nat) (c : Fin 4) (f : Ctx → Ctx) : State.cycle (s.modCtx t c f) = s.cycle := State.modElem_cycle s t _
@[simp] theorem State.modCtx_time (s : State) (t : Nat) (c : Fin 4) (f : Ctx → Ctx) : State.time (s.modCtx t c f) = s.time := State.modElem_time s t _
@[simp] theorem State.modCtx_epoch (s : State) (t : Nat) (c : Fin 4) (f : Ctx → Ctx) : State.epoch (s.modCtx t c f) = s.epoch := State.modElem_epoch s t _
@[simp] theorem State.modCtx_agenda (s : State) (t : Nat) (c : Fin 4) (f : Ctx → Ctx) : State.agenda (s.modCtx t c f) = s.agenda := State.modElem_agenda s t _
@[simp] theorem State.modCtx_scan (s : State) (t : Nat) (c : Fin 4) (f : Ctx → Ctx) : State.scan (s.modCtx t c f) = s.scan := State.modElem_scan s t _
@[simp] theorem State.modCtx_cur (s : State) (t : Nat) (c : Fin 4) (f : Ctx → Ctx) : State.cur (s.modCtx t c f) = s.cur := State.modElem_cur s t _
@[simp] theorem State.modCtx_freeCtr (s : State) (t : Nat) (c : Fin 4) (f : Ctx → Ctx) : State.freeCtr (s.modCtx t c f) = s.freeCtr := State.modElem_freeCtr s t _
@[simp] theorem State.modCtx_nextId (s : State) (t : Nat) (c : Fin 4) (f : Ctx → Ctx) : State.nextId (s.modCtx t c f) = s.nextId := State.modElem_nextId s t _
@[simp] theorem State.modCtx_hostOut (s : State) (t : Nat) (c : Fin 4) (f : Ctx → Ctx) : State.hostOut (s.modCtx t c f) = s.hostOut := State.modElem_hostOut s t _
@[simp] theorem State.modCtx_regs (s : State) (t : Nat) (c : Fin 4) (f : Ctx → Ctx) : State.regs (s.modCtx t c f) = s.regs := State.modElem_regs s t _
@[simp] theorem State.modCtx_dbg (s : State) (t : Nat) (c : Fin 4) (f : Ctx → Ctx) : State.dbg (s.modCtx t c f) = s.dbg := State.modElem_dbg s t _
@[simp] theorem State.modCtx_am (s : State) (t : Nat) (c : Fin 4) (f : Ctx → Ctx) : State.am (s.modCtx t c f) = s.am := State.modElem_am s t _
@[simp] theorem State.modCtx_queues (s : State) (t : Nat) (c : Fin 4) (f : Ctx → Ctx) : State.queues (s.modCtx t c f) = s.queues := State.modElem_queues s t _
@[simp] theorem State.modCtx_lastQueue (s : State) (t : Nat) (c : Fin 4) (f : Ctx → Ctx) : State.lastQueue (s.modCtx t c f) = s.lastQueue := State.modElem_lastQueue s t _
@[simp] theorem State.modCtx_lastGrant (s : State) (t : Nat) (c : Fin 4) (f : Ctx → Ctx) : State.lastGrant (s.modCtx t c f) = s.lastGrant := State.modElem_lastGrant s t _
@[simp] theorem State.modCtx_refilled (s : State) (t : Nat) (c : Fin 4) (f : Ctx → Ctx) : State.refilled (s.modCtx t c f) = s.refilled := State.modElem_refilled s t _
@[simp] theorem State.modCtx_packets (s : State) (t : Nat) (c : Fin 4) (f : Ctx → Ctx) : State.packets (s.modCtx t c f) = s.packets := State.modElem_packets s t _
@[simp] theorem State.modCtx_launches (s : State) (t : Nat) (c : Fin 4) (f : Ctx → Ctx) : State.launches (s.modCtx t c f) = s.launches := State.modElem_launches s t _
@[simp] theorem State.modCtx_hbm (s : State) (t : Nat) (c : Fin 4) (f : Ctx → Ctx) : State.hbm (s.modCtx t c f) = s.hbm := State.modElem_hbm s t _
@[simp] theorem State.modCtx_sram (s : State) (t : Nat) (c : Fin 4) (f : Ctx → Ctx) : State.sram (s.modCtx t c f) = s.sram := State.modElem_sram s t _
@[simp] theorem State.modCtx_full (s : State) (t : Nat) (c : Fin 4) (f : Ctx → Ctx) : State.full (s.modCtx t c f) = s.full := State.modElem_full s t _
@[simp] theorem State.modCtx_flash (s : State) (t : Nat) (c : Fin 4) (f : Ctx → Ctx) : State.flash (s.modCtx t c f) = s.flash := State.modElem_flash s t _
@[simp] theorem State.modCtx_lines (s : State) (t : Nat) (c : Fin 4) (f : Ctx → Ctx) : State.lines (s.modCtx t c f) = s.lines := State.modElem_lines s t _
@[simp] theorem State.modCtx_pend (s : State) (t : Nat) (c : Fin 4) (f : Ctx → Ctx) : State.pend (s.modCtx t c f) = s.pend := State.modElem_pend s t _
@[simp] theorem State.modCtx_ports (s : State) (t : Nat) (c : Fin 4) (f : Ctx → Ctx) : State.ports (s.modCtx t c f) = s.ports := State.modElem_ports s t _
@[simp] theorem State.modCtx_watched (s : State) (t : Nat) (c : Fin 4) (f : Ctx → Ctx) : State.watched (s.modCtx t c f) = s.watched := State.modElem_watched s t _
@[simp] theorem State.modCtx_relRecs (s : State) (t : Nat) (c : Fin 4) (f : Ctx → Ctx) : State.relRecs (s.modCtx t c f) = s.relRecs := State.modElem_relRecs s t _
@[simp] theorem State.modCtx_replicas (s : State) (t : Nat) (c : Fin 4) (f : Ctx → Ctx) : State.replicas (s.modCtx t c f) = s.replicas := State.modElem_replicas s t _
@[simp] theorem State.modCtx_fetches (s : State) (t : Nat) (c : Fin 4) (f : Ctx → Ctx) : State.fetches (s.modCtx t c f) = s.fetches := State.modElem_fetches s t _
@[simp] theorem State.modCtx_flights (s : State) (t : Nat) (c : Fin 4) (f : Ctx → Ctx) : State.flights (s.modCtx t c f) = s.flights := State.modElem_flights s t _
@[simp] theorem State.modCtx_served (s : State) (t : Nat) (c : Fin 4) (f : Ctx → Ctx) : State.served (s.modCtx t c f) = s.served := State.modElem_served s t _
@[simp] theorem State.modCtx_reqs (s : State) (t : Nat) (c : Fin 4) (f : Ctx → Ctx) : State.reqs (s.modCtx t c f) = s.reqs := State.modElem_reqs s t _
@[simp] theorem State.modCtx_faultToks (s : State) (t : Nat) (c : Fin 4) (f : Ctx → Ctx) : State.faultToks (s.modCtx t c f) = s.faultToks := State.modElem_faultToks s t _
@[simp] theorem State.modCtx_transfers (s : State) (t : Nat) (c : Fin 4) (f : Ctx → Ctx) : State.transfers (s.modCtx t c f) = s.transfers := State.modElem_transfers s t _
@[simp] theorem State.modCtx_regions (s : State) (t : Nat) (c : Fin 4) (f : Ctx → Ctx) : State.regions (s.modCtx t c f) = s.regions := State.modElem_regions s t _
@[simp] theorem State.modCtx_versions (s : State) (t : Nat) (c : Fin 4) (f : Ctx → Ctx) : State.versions (s.modCtx t c f) = s.versions := State.modElem_versions s t _
@[simp] theorem State.modCtx_tasks (s : State) (t : Nat) (c : Fin 4) (f : Ctx → Ctx) : State.tasks (s.modCtx t c f) = s.tasks := State.modElem_tasks s t _
@[simp] theorem State.modCtx_seq (s : State) (t : Nat) (c : Fin 4) (f : Ctx → Ctx) : State.seq (s.modCtx t c f) = s.seq := State.modElem_seq s t _
@[simp] theorem State.modCtx_maxTs (s : State) (t : Nat) (c : Fin 4) (f : Ctx → Ctx) : State.maxTs (s.modCtx t c f) = s.maxTs := State.modElem_maxTs s t _
@[simp] theorem State.modCtx_plans (s : State) (t : Nat) (c : Fin 4) (f : Ctx → Ctx) : State.plans (s.modCtx t c f) = s.plans := State.modElem_plans s t _
@[simp] theorem State.modCtx_library (s : State) (t : Nat) (c : Fin 4) (f : Ctx → Ctx) : State.library (s.modCtx t c f) = s.library := State.modElem_library s t _
@[simp] theorem State.modCtx_solderBusy (s : State) (t : Nat) (c : Fin 4) (f : Ctx → Ctx) : State.solderBusy (s.modCtx t c f) = s.solderBusy := State.modElem_solderBusy s t _
@[simp] theorem State.modCtx_motifs (s : State) (t : Nat) (c : Fin 4) (f : Ctx → Ctx) : State.motifs (s.modCtx t c f) = s.motifs := State.modElem_motifs s t _
@[simp] theorem State.modCtx_motifIds (s : State) (t : Nat) (c : Fin 4) (f : Ctx → Ctx) : State.motifIds (s.modCtx t c f) = s.motifIds := State.modElem_motifIds s t _
@[simp] theorem State.modCtx_launchCtr (s : State) (t : Nat) (c : Fin 4) (f : Ctx → Ctx) : State.launchCtr (s.modCtx t c f) = s.launchCtr := State.modElem_launchCtr s t _
@[simp] theorem State.modCtx_retiredIdx (s : State) (t : Nat) (c : Fin 4) (f : Ctx → Ctx) : State.retiredIdx (s.modCtx t c f) = s.retiredIdx := State.modElem_retiredIdx s t _
@[simp] theorem State.modCtx_reclaiming (s : State) (t : Nat) (c : Fin 4) (f : Ctx → Ctx) : State.reclaiming (s.modCtx t c f) = s.reclaiming := State.modElem_reclaiming s t _
@[simp] theorem State.modCtx_short (s : State) (t : Nat) (c : Fin 4) (f : Ctx → Ctx) : State.short (s.modCtx t c f) = s.short := State.modElem_short s t _
@[simp] theorem State.modCtx_dying (s : State) (t : Nat) (c : Fin 4) (f : Ctx → Ctx) : State.dying (s.modCtx t c f) = s.dying := State.modElem_dying s t _
@[simp] theorem State.modCtx_hnewWait (s : State) (t : Nat) (c : Fin 4) (f : Ctx → Ctx) : State.hnewWait (s.modCtx t c f) = s.hnewWait := State.modElem_hnewWait s t _
@[simp] theorem State.modCtx_comms (s : State) (t : Nat) (c : Fin 4) (f : Ctx → Ctx) : State.comms (s.modCtx t c f) = s.comms := State.modElem_comms s t _
@[simp] theorem State.modCtx_tables (s : State) (t : Nat) (c : Fin 4) (f : Ctx → Ctx) : State.tables (s.modCtx t c f) = s.tables := State.modElem_tables s t _
@[simp] theorem State.modCtx_engines (s : State) (t : Nat) (c : Fin 4) (f : Ctx → Ctx) : State.engines (s.modCtx t c f) = s.engines := State.modElem_engines s t _
@[simp] theorem State.modCtx_switches (s : State) (t : Nat) (c : Fin 4) (f : Ctx → Ctx) : State.switches (s.modCtx t c f) = s.switches := State.modElem_switches s t _

/-! ### `State.modMat` changes one matrix unit -/

@[simp] theorem State.modMat_cycle (s : State) (t : Nat) (f : Matrix → Matrix) : State.cycle (s.modMat t f) = s.cycle := State.modElem_cycle s t _
@[simp] theorem State.modMat_time (s : State) (t : Nat) (f : Matrix → Matrix) : State.time (s.modMat t f) = s.time := State.modElem_time s t _
@[simp] theorem State.modMat_epoch (s : State) (t : Nat) (f : Matrix → Matrix) : State.epoch (s.modMat t f) = s.epoch := State.modElem_epoch s t _
@[simp] theorem State.modMat_agenda (s : State) (t : Nat) (f : Matrix → Matrix) : State.agenda (s.modMat t f) = s.agenda := State.modElem_agenda s t _
@[simp] theorem State.modMat_scan (s : State) (t : Nat) (f : Matrix → Matrix) : State.scan (s.modMat t f) = s.scan := State.modElem_scan s t _
@[simp] theorem State.modMat_cur (s : State) (t : Nat) (f : Matrix → Matrix) : State.cur (s.modMat t f) = s.cur := State.modElem_cur s t _
@[simp] theorem State.modMat_freeCtr (s : State) (t : Nat) (f : Matrix → Matrix) : State.freeCtr (s.modMat t f) = s.freeCtr := State.modElem_freeCtr s t _
@[simp] theorem State.modMat_nextId (s : State) (t : Nat) (f : Matrix → Matrix) : State.nextId (s.modMat t f) = s.nextId := State.modElem_nextId s t _
@[simp] theorem State.modMat_hostOut (s : State) (t : Nat) (f : Matrix → Matrix) : State.hostOut (s.modMat t f) = s.hostOut := State.modElem_hostOut s t _
@[simp] theorem State.modMat_regs (s : State) (t : Nat) (f : Matrix → Matrix) : State.regs (s.modMat t f) = s.regs := State.modElem_regs s t _
@[simp] theorem State.modMat_dbg (s : State) (t : Nat) (f : Matrix → Matrix) : State.dbg (s.modMat t f) = s.dbg := State.modElem_dbg s t _
@[simp] theorem State.modMat_am (s : State) (t : Nat) (f : Matrix → Matrix) : State.am (s.modMat t f) = s.am := State.modElem_am s t _
@[simp] theorem State.modMat_queues (s : State) (t : Nat) (f : Matrix → Matrix) : State.queues (s.modMat t f) = s.queues := State.modElem_queues s t _
@[simp] theorem State.modMat_lastQueue (s : State) (t : Nat) (f : Matrix → Matrix) : State.lastQueue (s.modMat t f) = s.lastQueue := State.modElem_lastQueue s t _
@[simp] theorem State.modMat_lastGrant (s : State) (t : Nat) (f : Matrix → Matrix) : State.lastGrant (s.modMat t f) = s.lastGrant := State.modElem_lastGrant s t _
@[simp] theorem State.modMat_refilled (s : State) (t : Nat) (f : Matrix → Matrix) : State.refilled (s.modMat t f) = s.refilled := State.modElem_refilled s t _
@[simp] theorem State.modMat_packets (s : State) (t : Nat) (f : Matrix → Matrix) : State.packets (s.modMat t f) = s.packets := State.modElem_packets s t _
@[simp] theorem State.modMat_launches (s : State) (t : Nat) (f : Matrix → Matrix) : State.launches (s.modMat t f) = s.launches := State.modElem_launches s t _
@[simp] theorem State.modMat_hbm (s : State) (t : Nat) (f : Matrix → Matrix) : State.hbm (s.modMat t f) = s.hbm := State.modElem_hbm s t _
@[simp] theorem State.modMat_sram (s : State) (t : Nat) (f : Matrix → Matrix) : State.sram (s.modMat t f) = s.sram := State.modElem_sram s t _
@[simp] theorem State.modMat_full (s : State) (t : Nat) (f : Matrix → Matrix) : State.full (s.modMat t f) = s.full := State.modElem_full s t _
@[simp] theorem State.modMat_flash (s : State) (t : Nat) (f : Matrix → Matrix) : State.flash (s.modMat t f) = s.flash := State.modElem_flash s t _
@[simp] theorem State.modMat_lines (s : State) (t : Nat) (f : Matrix → Matrix) : State.lines (s.modMat t f) = s.lines := State.modElem_lines s t _
@[simp] theorem State.modMat_pend (s : State) (t : Nat) (f : Matrix → Matrix) : State.pend (s.modMat t f) = s.pend := State.modElem_pend s t _
@[simp] theorem State.modMat_ports (s : State) (t : Nat) (f : Matrix → Matrix) : State.ports (s.modMat t f) = s.ports := State.modElem_ports s t _
@[simp] theorem State.modMat_watched (s : State) (t : Nat) (f : Matrix → Matrix) : State.watched (s.modMat t f) = s.watched := State.modElem_watched s t _
@[simp] theorem State.modMat_relRecs (s : State) (t : Nat) (f : Matrix → Matrix) : State.relRecs (s.modMat t f) = s.relRecs := State.modElem_relRecs s t _
@[simp] theorem State.modMat_replicas (s : State) (t : Nat) (f : Matrix → Matrix) : State.replicas (s.modMat t f) = s.replicas := State.modElem_replicas s t _
@[simp] theorem State.modMat_fetches (s : State) (t : Nat) (f : Matrix → Matrix) : State.fetches (s.modMat t f) = s.fetches := State.modElem_fetches s t _
@[simp] theorem State.modMat_flights (s : State) (t : Nat) (f : Matrix → Matrix) : State.flights (s.modMat t f) = s.flights := State.modElem_flights s t _
@[simp] theorem State.modMat_served (s : State) (t : Nat) (f : Matrix → Matrix) : State.served (s.modMat t f) = s.served := State.modElem_served s t _
@[simp] theorem State.modMat_reqs (s : State) (t : Nat) (f : Matrix → Matrix) : State.reqs (s.modMat t f) = s.reqs := State.modElem_reqs s t _
@[simp] theorem State.modMat_faultToks (s : State) (t : Nat) (f : Matrix → Matrix) : State.faultToks (s.modMat t f) = s.faultToks := State.modElem_faultToks s t _
@[simp] theorem State.modMat_transfers (s : State) (t : Nat) (f : Matrix → Matrix) : State.transfers (s.modMat t f) = s.transfers := State.modElem_transfers s t _
@[simp] theorem State.modMat_regions (s : State) (t : Nat) (f : Matrix → Matrix) : State.regions (s.modMat t f) = s.regions := State.modElem_regions s t _
@[simp] theorem State.modMat_versions (s : State) (t : Nat) (f : Matrix → Matrix) : State.versions (s.modMat t f) = s.versions := State.modElem_versions s t _
@[simp] theorem State.modMat_tasks (s : State) (t : Nat) (f : Matrix → Matrix) : State.tasks (s.modMat t f) = s.tasks := State.modElem_tasks s t _
@[simp] theorem State.modMat_seq (s : State) (t : Nat) (f : Matrix → Matrix) : State.seq (s.modMat t f) = s.seq := State.modElem_seq s t _
@[simp] theorem State.modMat_maxTs (s : State) (t : Nat) (f : Matrix → Matrix) : State.maxTs (s.modMat t f) = s.maxTs := State.modElem_maxTs s t _
@[simp] theorem State.modMat_plans (s : State) (t : Nat) (f : Matrix → Matrix) : State.plans (s.modMat t f) = s.plans := State.modElem_plans s t _
@[simp] theorem State.modMat_library (s : State) (t : Nat) (f : Matrix → Matrix) : State.library (s.modMat t f) = s.library := State.modElem_library s t _
@[simp] theorem State.modMat_solderBusy (s : State) (t : Nat) (f : Matrix → Matrix) : State.solderBusy (s.modMat t f) = s.solderBusy := State.modElem_solderBusy s t _
@[simp] theorem State.modMat_motifs (s : State) (t : Nat) (f : Matrix → Matrix) : State.motifs (s.modMat t f) = s.motifs := State.modElem_motifs s t _
@[simp] theorem State.modMat_motifIds (s : State) (t : Nat) (f : Matrix → Matrix) : State.motifIds (s.modMat t f) = s.motifIds := State.modElem_motifIds s t _
@[simp] theorem State.modMat_launchCtr (s : State) (t : Nat) (f : Matrix → Matrix) : State.launchCtr (s.modMat t f) = s.launchCtr := State.modElem_launchCtr s t _
@[simp] theorem State.modMat_retiredIdx (s : State) (t : Nat) (f : Matrix → Matrix) : State.retiredIdx (s.modMat t f) = s.retiredIdx := State.modElem_retiredIdx s t _
@[simp] theorem State.modMat_reclaiming (s : State) (t : Nat) (f : Matrix → Matrix) : State.reclaiming (s.modMat t f) = s.reclaiming := State.modElem_reclaiming s t _
@[simp] theorem State.modMat_short (s : State) (t : Nat) (f : Matrix → Matrix) : State.short (s.modMat t f) = s.short := State.modElem_short s t _
@[simp] theorem State.modMat_dying (s : State) (t : Nat) (f : Matrix → Matrix) : State.dying (s.modMat t f) = s.dying := State.modElem_dying s t _
@[simp] theorem State.modMat_hnewWait (s : State) (t : Nat) (f : Matrix → Matrix) : State.hnewWait (s.modMat t f) = s.hnewWait := State.modElem_hnewWait s t _
@[simp] theorem State.modMat_comms (s : State) (t : Nat) (f : Matrix → Matrix) : State.comms (s.modMat t f) = s.comms := State.modElem_comms s t _
@[simp] theorem State.modMat_tables (s : State) (t : Nat) (f : Matrix → Matrix) : State.tables (s.modMat t f) = s.tables := State.modElem_tables s t _
@[simp] theorem State.modMat_engines (s : State) (t : Nat) (f : Matrix → Matrix) : State.engines (s.modMat t f) = s.engines := State.modElem_engines s t _
@[simp] theorem State.modMat_switches (s : State) (t : Nat) (f : Matrix → Matrix) : State.switches (s.modMat t f) = s.switches := State.modElem_switches s t _

/-! ### `State.modGen` changes one generator -/

@[simp] theorem State.modGen_cycle (s : State) (t : Nat) (g : Fin 4) (f : Gen → Gen) : State.cycle (s.modGen t g f) = s.cycle := State.modMem_cycle s t _
@[simp] theorem State.modGen_time (s : State) (t : Nat) (g : Fin 4) (f : Gen → Gen) : State.time (s.modGen t g f) = s.time := State.modMem_time s t _
@[simp] theorem State.modGen_epoch (s : State) (t : Nat) (g : Fin 4) (f : Gen → Gen) : State.epoch (s.modGen t g f) = s.epoch := State.modMem_epoch s t _
@[simp] theorem State.modGen_agenda (s : State) (t : Nat) (g : Fin 4) (f : Gen → Gen) : State.agenda (s.modGen t g f) = s.agenda := State.modMem_agenda s t _
@[simp] theorem State.modGen_scan (s : State) (t : Nat) (g : Fin 4) (f : Gen → Gen) : State.scan (s.modGen t g f) = s.scan := State.modMem_scan s t _
@[simp] theorem State.modGen_cur (s : State) (t : Nat) (g : Fin 4) (f : Gen → Gen) : State.cur (s.modGen t g f) = s.cur := State.modMem_cur s t _
@[simp] theorem State.modGen_freeCtr (s : State) (t : Nat) (g : Fin 4) (f : Gen → Gen) : State.freeCtr (s.modGen t g f) = s.freeCtr := State.modMem_freeCtr s t _
@[simp] theorem State.modGen_nextId (s : State) (t : Nat) (g : Fin 4) (f : Gen → Gen) : State.nextId (s.modGen t g f) = s.nextId := State.modMem_nextId s t _
@[simp] theorem State.modGen_hostOut (s : State) (t : Nat) (g : Fin 4) (f : Gen → Gen) : State.hostOut (s.modGen t g f) = s.hostOut := State.modMem_hostOut s t _
@[simp] theorem State.modGen_regs (s : State) (t : Nat) (g : Fin 4) (f : Gen → Gen) : State.regs (s.modGen t g f) = s.regs := State.modMem_regs s t _
@[simp] theorem State.modGen_dbg (s : State) (t : Nat) (g : Fin 4) (f : Gen → Gen) : State.dbg (s.modGen t g f) = s.dbg := State.modMem_dbg s t _
@[simp] theorem State.modGen_am (s : State) (t : Nat) (g : Fin 4) (f : Gen → Gen) : State.am (s.modGen t g f) = s.am := State.modMem_am s t _
@[simp] theorem State.modGen_queues (s : State) (t : Nat) (g : Fin 4) (f : Gen → Gen) : State.queues (s.modGen t g f) = s.queues := State.modMem_queues s t _
@[simp] theorem State.modGen_lastQueue (s : State) (t : Nat) (g : Fin 4) (f : Gen → Gen) : State.lastQueue (s.modGen t g f) = s.lastQueue := State.modMem_lastQueue s t _
@[simp] theorem State.modGen_lastGrant (s : State) (t : Nat) (g : Fin 4) (f : Gen → Gen) : State.lastGrant (s.modGen t g f) = s.lastGrant := State.modMem_lastGrant s t _
@[simp] theorem State.modGen_refilled (s : State) (t : Nat) (g : Fin 4) (f : Gen → Gen) : State.refilled (s.modGen t g f) = s.refilled := State.modMem_refilled s t _
@[simp] theorem State.modGen_packets (s : State) (t : Nat) (g : Fin 4) (f : Gen → Gen) : State.packets (s.modGen t g f) = s.packets := State.modMem_packets s t _
@[simp] theorem State.modGen_launches (s : State) (t : Nat) (g : Fin 4) (f : Gen → Gen) : State.launches (s.modGen t g f) = s.launches := State.modMem_launches s t _
@[simp] theorem State.modGen_hbm (s : State) (t : Nat) (g : Fin 4) (f : Gen → Gen) : State.hbm (s.modGen t g f) = s.hbm := State.modMem_hbm s t _
@[simp] theorem State.modGen_sram (s : State) (t : Nat) (g : Fin 4) (f : Gen → Gen) : State.sram (s.modGen t g f) = s.sram := State.modMem_sram s t _
@[simp] theorem State.modGen_full (s : State) (t : Nat) (g : Fin 4) (f : Gen → Gen) : State.full (s.modGen t g f) = s.full := State.modMem_full s t _
@[simp] theorem State.modGen_flash (s : State) (t : Nat) (g : Fin 4) (f : Gen → Gen) : State.flash (s.modGen t g f) = s.flash := State.modMem_flash s t _
@[simp] theorem State.modGen_lines (s : State) (t : Nat) (g : Fin 4) (f : Gen → Gen) : State.lines (s.modGen t g f) = s.lines := State.modMem_lines s t _
@[simp] theorem State.modGen_pend (s : State) (t : Nat) (g : Fin 4) (f : Gen → Gen) : State.pend (s.modGen t g f) = s.pend := State.modMem_pend s t _
@[simp] theorem State.modGen_ports (s : State) (t : Nat) (g : Fin 4) (f : Gen → Gen) : State.ports (s.modGen t g f) = s.ports := State.modMem_ports s t _
@[simp] theorem State.modGen_watched (s : State) (t : Nat) (g : Fin 4) (f : Gen → Gen) : State.watched (s.modGen t g f) = s.watched := State.modMem_watched s t _
@[simp] theorem State.modGen_relRecs (s : State) (t : Nat) (g : Fin 4) (f : Gen → Gen) : State.relRecs (s.modGen t g f) = s.relRecs := State.modMem_relRecs s t _
@[simp] theorem State.modGen_replicas (s : State) (t : Nat) (g : Fin 4) (f : Gen → Gen) : State.replicas (s.modGen t g f) = s.replicas := State.modMem_replicas s t _
@[simp] theorem State.modGen_fetches (s : State) (t : Nat) (g : Fin 4) (f : Gen → Gen) : State.fetches (s.modGen t g f) = s.fetches := State.modMem_fetches s t _
@[simp] theorem State.modGen_flights (s : State) (t : Nat) (g : Fin 4) (f : Gen → Gen) : State.flights (s.modGen t g f) = s.flights := State.modMem_flights s t _
@[simp] theorem State.modGen_served (s : State) (t : Nat) (g : Fin 4) (f : Gen → Gen) : State.served (s.modGen t g f) = s.served := State.modMem_served s t _
@[simp] theorem State.modGen_reqs (s : State) (t : Nat) (g : Fin 4) (f : Gen → Gen) : State.reqs (s.modGen t g f) = s.reqs := State.modMem_reqs s t _
@[simp] theorem State.modGen_faultToks (s : State) (t : Nat) (g : Fin 4) (f : Gen → Gen) : State.faultToks (s.modGen t g f) = s.faultToks := State.modMem_faultToks s t _
@[simp] theorem State.modGen_transfers (s : State) (t : Nat) (g : Fin 4) (f : Gen → Gen) : State.transfers (s.modGen t g f) = s.transfers := State.modMem_transfers s t _
@[simp] theorem State.modGen_regions (s : State) (t : Nat) (g : Fin 4) (f : Gen → Gen) : State.regions (s.modGen t g f) = s.regions := State.modMem_regions s t _
@[simp] theorem State.modGen_versions (s : State) (t : Nat) (g : Fin 4) (f : Gen → Gen) : State.versions (s.modGen t g f) = s.versions := State.modMem_versions s t _
@[simp] theorem State.modGen_tasks (s : State) (t : Nat) (g : Fin 4) (f : Gen → Gen) : State.tasks (s.modGen t g f) = s.tasks := State.modMem_tasks s t _
@[simp] theorem State.modGen_seq (s : State) (t : Nat) (g : Fin 4) (f : Gen → Gen) : State.seq (s.modGen t g f) = s.seq := State.modMem_seq s t _
@[simp] theorem State.modGen_maxTs (s : State) (t : Nat) (g : Fin 4) (f : Gen → Gen) : State.maxTs (s.modGen t g f) = s.maxTs := State.modMem_maxTs s t _
@[simp] theorem State.modGen_plans (s : State) (t : Nat) (g : Fin 4) (f : Gen → Gen) : State.plans (s.modGen t g f) = s.plans := State.modMem_plans s t _
@[simp] theorem State.modGen_library (s : State) (t : Nat) (g : Fin 4) (f : Gen → Gen) : State.library (s.modGen t g f) = s.library := State.modMem_library s t _
@[simp] theorem State.modGen_solderBusy (s : State) (t : Nat) (g : Fin 4) (f : Gen → Gen) : State.solderBusy (s.modGen t g f) = s.solderBusy := State.modMem_solderBusy s t _
@[simp] theorem State.modGen_motifs (s : State) (t : Nat) (g : Fin 4) (f : Gen → Gen) : State.motifs (s.modGen t g f) = s.motifs := State.modMem_motifs s t _
@[simp] theorem State.modGen_motifIds (s : State) (t : Nat) (g : Fin 4) (f : Gen → Gen) : State.motifIds (s.modGen t g f) = s.motifIds := State.modMem_motifIds s t _
@[simp] theorem State.modGen_launchCtr (s : State) (t : Nat) (g : Fin 4) (f : Gen → Gen) : State.launchCtr (s.modGen t g f) = s.launchCtr := State.modMem_launchCtr s t _
@[simp] theorem State.modGen_retiredIdx (s : State) (t : Nat) (g : Fin 4) (f : Gen → Gen) : State.retiredIdx (s.modGen t g f) = s.retiredIdx := State.modMem_retiredIdx s t _
@[simp] theorem State.modGen_reclaiming (s : State) (t : Nat) (g : Fin 4) (f : Gen → Gen) : State.reclaiming (s.modGen t g f) = s.reclaiming := State.modMem_reclaiming s t _
@[simp] theorem State.modGen_short (s : State) (t : Nat) (g : Fin 4) (f : Gen → Gen) : State.short (s.modGen t g f) = s.short := State.modMem_short s t _
@[simp] theorem State.modGen_dying (s : State) (t : Nat) (g : Fin 4) (f : Gen → Gen) : State.dying (s.modGen t g f) = s.dying := State.modMem_dying s t _
@[simp] theorem State.modGen_hnewWait (s : State) (t : Nat) (g : Fin 4) (f : Gen → Gen) : State.hnewWait (s.modGen t g f) = s.hnewWait := State.modMem_hnewWait s t _
@[simp] theorem State.modGen_comms (s : State) (t : Nat) (g : Fin 4) (f : Gen → Gen) : State.comms (s.modGen t g f) = s.comms := State.modMem_comms s t _
@[simp] theorem State.modGen_tables (s : State) (t : Nat) (g : Fin 4) (f : Gen → Gen) : State.tables (s.modGen t g f) = s.tables := State.modMem_tables s t _
@[simp] theorem State.modGen_engines (s : State) (t : Nat) (g : Fin 4) (f : Gen → Gen) : State.engines (s.modGen t g f) = s.engines := State.modMem_engines s t _
@[simp] theorem State.modGen_switches (s : State) (t : Nat) (g : Fin 4) (f : Gen → Gen) : State.switches (s.modGen t g f) = s.switches := State.modMem_switches s t _

/-! ### `State.enqueue` appends a token to a queue -/

@[simp] theorem State.enqueue_cycle (s : State) (t : Nat) (q : Fin 4) (k : Token) : State.cycle (s.enqueue t q k) = s.cycle := State.modTile_cycle s t _
@[simp] theorem State.enqueue_time (s : State) (t : Nat) (q : Fin 4) (k : Token) : State.time (s.enqueue t q k) = s.time := State.modTile_time s t _
@[simp] theorem State.enqueue_epoch (s : State) (t : Nat) (q : Fin 4) (k : Token) : State.epoch (s.enqueue t q k) = s.epoch := State.modTile_epoch s t _
@[simp] theorem State.enqueue_agenda (s : State) (t : Nat) (q : Fin 4) (k : Token) : State.agenda (s.enqueue t q k) = s.agenda := State.modTile_agenda s t _
@[simp] theorem State.enqueue_scan (s : State) (t : Nat) (q : Fin 4) (k : Token) : State.scan (s.enqueue t q k) = s.scan := State.modTile_scan s t _
@[simp] theorem State.enqueue_cur (s : State) (t : Nat) (q : Fin 4) (k : Token) : State.cur (s.enqueue t q k) = s.cur := State.modTile_cur s t _
@[simp] theorem State.enqueue_freeCtr (s : State) (t : Nat) (q : Fin 4) (k : Token) : State.freeCtr (s.enqueue t q k) = s.freeCtr := State.modTile_freeCtr s t _
@[simp] theorem State.enqueue_nextId (s : State) (t : Nat) (q : Fin 4) (k : Token) : State.nextId (s.enqueue t q k) = s.nextId := State.modTile_nextId s t _
@[simp] theorem State.enqueue_hostOut (s : State) (t : Nat) (q : Fin 4) (k : Token) : State.hostOut (s.enqueue t q k) = s.hostOut := State.modTile_hostOut s t _
@[simp] theorem State.enqueue_regs (s : State) (t : Nat) (q : Fin 4) (k : Token) : State.regs (s.enqueue t q k) = s.regs := State.modTile_regs s t _
@[simp] theorem State.enqueue_dbg (s : State) (t : Nat) (q : Fin 4) (k : Token) : State.dbg (s.enqueue t q k) = s.dbg := State.modTile_dbg s t _
@[simp] theorem State.enqueue_am (s : State) (t : Nat) (q : Fin 4) (k : Token) : State.am (s.enqueue t q k) = s.am := State.modTile_am s t _
@[simp] theorem State.enqueue_queues (s : State) (t : Nat) (q : Fin 4) (k : Token) : State.queues (s.enqueue t q k) = s.queues := State.modTile_queues s t _
@[simp] theorem State.enqueue_lastQueue (s : State) (t : Nat) (q : Fin 4) (k : Token) : State.lastQueue (s.enqueue t q k) = s.lastQueue := State.modTile_lastQueue s t _
@[simp] theorem State.enqueue_lastGrant (s : State) (t : Nat) (q : Fin 4) (k : Token) : State.lastGrant (s.enqueue t q k) = s.lastGrant := State.modTile_lastGrant s t _
@[simp] theorem State.enqueue_refilled (s : State) (t : Nat) (q : Fin 4) (k : Token) : State.refilled (s.enqueue t q k) = s.refilled := State.modTile_refilled s t _
@[simp] theorem State.enqueue_packets (s : State) (t : Nat) (q : Fin 4) (k : Token) : State.packets (s.enqueue t q k) = s.packets := State.modTile_packets s t _
@[simp] theorem State.enqueue_launches (s : State) (t : Nat) (q : Fin 4) (k : Token) : State.launches (s.enqueue t q k) = s.launches := State.modTile_launches s t _
@[simp] theorem State.enqueue_hbm (s : State) (t : Nat) (q : Fin 4) (k : Token) : State.hbm (s.enqueue t q k) = s.hbm := State.modTile_hbm s t _
@[simp] theorem State.enqueue_sram (s : State) (t : Nat) (q : Fin 4) (k : Token) : State.sram (s.enqueue t q k) = s.sram := State.modTile_sram s t _
@[simp] theorem State.enqueue_full (s : State) (t : Nat) (q : Fin 4) (k : Token) : State.full (s.enqueue t q k) = s.full := State.modTile_full s t _
@[simp] theorem State.enqueue_flash (s : State) (t : Nat) (q : Fin 4) (k : Token) : State.flash (s.enqueue t q k) = s.flash := State.modTile_flash s t _
@[simp] theorem State.enqueue_lines (s : State) (t : Nat) (q : Fin 4) (k : Token) : State.lines (s.enqueue t q k) = s.lines := State.modTile_lines s t _
@[simp] theorem State.enqueue_pend (s : State) (t : Nat) (q : Fin 4) (k : Token) : State.pend (s.enqueue t q k) = s.pend := State.modTile_pend s t _
@[simp] theorem State.enqueue_ports (s : State) (t : Nat) (q : Fin 4) (k : Token) : State.ports (s.enqueue t q k) = s.ports := State.modTile_ports s t _
@[simp] theorem State.enqueue_watched (s : State) (t : Nat) (q : Fin 4) (k : Token) : State.watched (s.enqueue t q k) = s.watched := State.modTile_watched s t _
@[simp] theorem State.enqueue_relRecs (s : State) (t : Nat) (q : Fin 4) (k : Token) : State.relRecs (s.enqueue t q k) = s.relRecs := State.modTile_relRecs s t _
@[simp] theorem State.enqueue_replicas (s : State) (t : Nat) (q : Fin 4) (k : Token) : State.replicas (s.enqueue t q k) = s.replicas := State.modTile_replicas s t _
@[simp] theorem State.enqueue_fetches (s : State) (t : Nat) (q : Fin 4) (k : Token) : State.fetches (s.enqueue t q k) = s.fetches := State.modTile_fetches s t _
@[simp] theorem State.enqueue_flights (s : State) (t : Nat) (q : Fin 4) (k : Token) : State.flights (s.enqueue t q k) = s.flights := State.modTile_flights s t _
@[simp] theorem State.enqueue_served (s : State) (t : Nat) (q : Fin 4) (k : Token) : State.served (s.enqueue t q k) = s.served := State.modTile_served s t _
@[simp] theorem State.enqueue_reqs (s : State) (t : Nat) (q : Fin 4) (k : Token) : State.reqs (s.enqueue t q k) = s.reqs := State.modTile_reqs s t _
@[simp] theorem State.enqueue_faultToks (s : State) (t : Nat) (q : Fin 4) (k : Token) : State.faultToks (s.enqueue t q k) = s.faultToks := State.modTile_faultToks s t _
@[simp] theorem State.enqueue_transfers (s : State) (t : Nat) (q : Fin 4) (k : Token) : State.transfers (s.enqueue t q k) = s.transfers := State.modTile_transfers s t _
@[simp] theorem State.enqueue_regions (s : State) (t : Nat) (q : Fin 4) (k : Token) : State.regions (s.enqueue t q k) = s.regions := State.modTile_regions s t _
@[simp] theorem State.enqueue_versions (s : State) (t : Nat) (q : Fin 4) (k : Token) : State.versions (s.enqueue t q k) = s.versions := State.modTile_versions s t _
@[simp] theorem State.enqueue_tasks (s : State) (t : Nat) (q : Fin 4) (k : Token) : State.tasks (s.enqueue t q k) = s.tasks := State.modTile_tasks s t _
@[simp] theorem State.enqueue_seq (s : State) (t : Nat) (q : Fin 4) (k : Token) : State.seq (s.enqueue t q k) = s.seq := State.modTile_seq s t _
@[simp] theorem State.enqueue_maxTs (s : State) (t : Nat) (q : Fin 4) (k : Token) : State.maxTs (s.enqueue t q k) = s.maxTs := State.modTile_maxTs s t _
@[simp] theorem State.enqueue_plans (s : State) (t : Nat) (q : Fin 4) (k : Token) : State.plans (s.enqueue t q k) = s.plans := State.modTile_plans s t _
@[simp] theorem State.enqueue_library (s : State) (t : Nat) (q : Fin 4) (k : Token) : State.library (s.enqueue t q k) = s.library := State.modTile_library s t _
@[simp] theorem State.enqueue_solderBusy (s : State) (t : Nat) (q : Fin 4) (k : Token) : State.solderBusy (s.enqueue t q k) = s.solderBusy := State.modTile_solderBusy s t _
@[simp] theorem State.enqueue_motifs (s : State) (t : Nat) (q : Fin 4) (k : Token) : State.motifs (s.enqueue t q k) = s.motifs := State.modTile_motifs s t _
@[simp] theorem State.enqueue_motifIds (s : State) (t : Nat) (q : Fin 4) (k : Token) : State.motifIds (s.enqueue t q k) = s.motifIds := State.modTile_motifIds s t _
@[simp] theorem State.enqueue_launchCtr (s : State) (t : Nat) (q : Fin 4) (k : Token) : State.launchCtr (s.enqueue t q k) = s.launchCtr := State.modTile_launchCtr s t _
@[simp] theorem State.enqueue_retiredIdx (s : State) (t : Nat) (q : Fin 4) (k : Token) : State.retiredIdx (s.enqueue t q k) = s.retiredIdx := State.modTile_retiredIdx s t _
@[simp] theorem State.enqueue_reclaiming (s : State) (t : Nat) (q : Fin 4) (k : Token) : State.reclaiming (s.enqueue t q k) = s.reclaiming := State.modTile_reclaiming s t _
@[simp] theorem State.enqueue_short (s : State) (t : Nat) (q : Fin 4) (k : Token) : State.short (s.enqueue t q k) = s.short := State.modTile_short s t _
@[simp] theorem State.enqueue_dying (s : State) (t : Nat) (q : Fin 4) (k : Token) : State.dying (s.enqueue t q k) = s.dying := State.modTile_dying s t _
@[simp] theorem State.enqueue_hnewWait (s : State) (t : Nat) (q : Fin 4) (k : Token) : State.hnewWait (s.enqueue t q k) = s.hnewWait := State.modTile_hnewWait s t _
@[simp] theorem State.enqueue_comms (s : State) (t : Nat) (q : Fin 4) (k : Token) : State.comms (s.enqueue t q k) = s.comms := State.modTile_comms s t _
@[simp] theorem State.enqueue_tables (s : State) (t : Nat) (q : Fin 4) (k : Token) : State.tables (s.enqueue t q k) = s.tables := State.modTile_tables s t _
@[simp] theorem State.enqueue_engines (s : State) (t : Nat) (q : Fin 4) (k : Token) : State.engines (s.enqueue t q k) = s.engines := State.modTile_engines s t _
@[simp] theorem State.enqueue_switches (s : State) (t : Nat) (q : Fin 4) (k : Token) : State.switches (s.enqueue t q k) = s.switches := State.modTile_switches s t _

/-! ### `State.dequeue` takes the head of a queue -/

@[simp] theorem State.dequeue_cycle (s : State) (t : Nat) (q : Fin 4) : State.cycle (s.dequeue t q) = s.cycle := State.modTile_cycle s t _
@[simp] theorem State.dequeue_time (s : State) (t : Nat) (q : Fin 4) : State.time (s.dequeue t q) = s.time := State.modTile_time s t _
@[simp] theorem State.dequeue_epoch (s : State) (t : Nat) (q : Fin 4) : State.epoch (s.dequeue t q) = s.epoch := State.modTile_epoch s t _
@[simp] theorem State.dequeue_agenda (s : State) (t : Nat) (q : Fin 4) : State.agenda (s.dequeue t q) = s.agenda := State.modTile_agenda s t _
@[simp] theorem State.dequeue_scan (s : State) (t : Nat) (q : Fin 4) : State.scan (s.dequeue t q) = s.scan := State.modTile_scan s t _
@[simp] theorem State.dequeue_cur (s : State) (t : Nat) (q : Fin 4) : State.cur (s.dequeue t q) = s.cur := State.modTile_cur s t _
@[simp] theorem State.dequeue_freeCtr (s : State) (t : Nat) (q : Fin 4) : State.freeCtr (s.dequeue t q) = s.freeCtr := State.modTile_freeCtr s t _
@[simp] theorem State.dequeue_nextId (s : State) (t : Nat) (q : Fin 4) : State.nextId (s.dequeue t q) = s.nextId := State.modTile_nextId s t _
@[simp] theorem State.dequeue_hostOut (s : State) (t : Nat) (q : Fin 4) : State.hostOut (s.dequeue t q) = s.hostOut := State.modTile_hostOut s t _
@[simp] theorem State.dequeue_regs (s : State) (t : Nat) (q : Fin 4) : State.regs (s.dequeue t q) = s.regs := State.modTile_regs s t _
@[simp] theorem State.dequeue_dbg (s : State) (t : Nat) (q : Fin 4) : State.dbg (s.dequeue t q) = s.dbg := State.modTile_dbg s t _
@[simp] theorem State.dequeue_am (s : State) (t : Nat) (q : Fin 4) : State.am (s.dequeue t q) = s.am := State.modTile_am s t _
@[simp] theorem State.dequeue_queues (s : State) (t : Nat) (q : Fin 4) : State.queues (s.dequeue t q) = s.queues := State.modTile_queues s t _
@[simp] theorem State.dequeue_lastQueue (s : State) (t : Nat) (q : Fin 4) : State.lastQueue (s.dequeue t q) = s.lastQueue := State.modTile_lastQueue s t _
@[simp] theorem State.dequeue_lastGrant (s : State) (t : Nat) (q : Fin 4) : State.lastGrant (s.dequeue t q) = s.lastGrant := State.modTile_lastGrant s t _
@[simp] theorem State.dequeue_refilled (s : State) (t : Nat) (q : Fin 4) : State.refilled (s.dequeue t q) = s.refilled := State.modTile_refilled s t _
@[simp] theorem State.dequeue_packets (s : State) (t : Nat) (q : Fin 4) : State.packets (s.dequeue t q) = s.packets := State.modTile_packets s t _
@[simp] theorem State.dequeue_launches (s : State) (t : Nat) (q : Fin 4) : State.launches (s.dequeue t q) = s.launches := State.modTile_launches s t _
@[simp] theorem State.dequeue_hbm (s : State) (t : Nat) (q : Fin 4) : State.hbm (s.dequeue t q) = s.hbm := State.modTile_hbm s t _
@[simp] theorem State.dequeue_sram (s : State) (t : Nat) (q : Fin 4) : State.sram (s.dequeue t q) = s.sram := State.modTile_sram s t _
@[simp] theorem State.dequeue_full (s : State) (t : Nat) (q : Fin 4) : State.full (s.dequeue t q) = s.full := State.modTile_full s t _
@[simp] theorem State.dequeue_flash (s : State) (t : Nat) (q : Fin 4) : State.flash (s.dequeue t q) = s.flash := State.modTile_flash s t _
@[simp] theorem State.dequeue_lines (s : State) (t : Nat) (q : Fin 4) : State.lines (s.dequeue t q) = s.lines := State.modTile_lines s t _
@[simp] theorem State.dequeue_pend (s : State) (t : Nat) (q : Fin 4) : State.pend (s.dequeue t q) = s.pend := State.modTile_pend s t _
@[simp] theorem State.dequeue_ports (s : State) (t : Nat) (q : Fin 4) : State.ports (s.dequeue t q) = s.ports := State.modTile_ports s t _
@[simp] theorem State.dequeue_watched (s : State) (t : Nat) (q : Fin 4) : State.watched (s.dequeue t q) = s.watched := State.modTile_watched s t _
@[simp] theorem State.dequeue_relRecs (s : State) (t : Nat) (q : Fin 4) : State.relRecs (s.dequeue t q) = s.relRecs := State.modTile_relRecs s t _
@[simp] theorem State.dequeue_replicas (s : State) (t : Nat) (q : Fin 4) : State.replicas (s.dequeue t q) = s.replicas := State.modTile_replicas s t _
@[simp] theorem State.dequeue_fetches (s : State) (t : Nat) (q : Fin 4) : State.fetches (s.dequeue t q) = s.fetches := State.modTile_fetches s t _
@[simp] theorem State.dequeue_flights (s : State) (t : Nat) (q : Fin 4) : State.flights (s.dequeue t q) = s.flights := State.modTile_flights s t _
@[simp] theorem State.dequeue_served (s : State) (t : Nat) (q : Fin 4) : State.served (s.dequeue t q) = s.served := State.modTile_served s t _
@[simp] theorem State.dequeue_reqs (s : State) (t : Nat) (q : Fin 4) : State.reqs (s.dequeue t q) = s.reqs := State.modTile_reqs s t _
@[simp] theorem State.dequeue_faultToks (s : State) (t : Nat) (q : Fin 4) : State.faultToks (s.dequeue t q) = s.faultToks := State.modTile_faultToks s t _
@[simp] theorem State.dequeue_transfers (s : State) (t : Nat) (q : Fin 4) : State.transfers (s.dequeue t q) = s.transfers := State.modTile_transfers s t _
@[simp] theorem State.dequeue_regions (s : State) (t : Nat) (q : Fin 4) : State.regions (s.dequeue t q) = s.regions := State.modTile_regions s t _
@[simp] theorem State.dequeue_versions (s : State) (t : Nat) (q : Fin 4) : State.versions (s.dequeue t q) = s.versions := State.modTile_versions s t _
@[simp] theorem State.dequeue_tasks (s : State) (t : Nat) (q : Fin 4) : State.tasks (s.dequeue t q) = s.tasks := State.modTile_tasks s t _
@[simp] theorem State.dequeue_seq (s : State) (t : Nat) (q : Fin 4) : State.seq (s.dequeue t q) = s.seq := State.modTile_seq s t _
@[simp] theorem State.dequeue_maxTs (s : State) (t : Nat) (q : Fin 4) : State.maxTs (s.dequeue t q) = s.maxTs := State.modTile_maxTs s t _
@[simp] theorem State.dequeue_plans (s : State) (t : Nat) (q : Fin 4) : State.plans (s.dequeue t q) = s.plans := State.modTile_plans s t _
@[simp] theorem State.dequeue_library (s : State) (t : Nat) (q : Fin 4) : State.library (s.dequeue t q) = s.library := State.modTile_library s t _
@[simp] theorem State.dequeue_solderBusy (s : State) (t : Nat) (q : Fin 4) : State.solderBusy (s.dequeue t q) = s.solderBusy := State.modTile_solderBusy s t _
@[simp] theorem State.dequeue_motifs (s : State) (t : Nat) (q : Fin 4) : State.motifs (s.dequeue t q) = s.motifs := State.modTile_motifs s t _
@[simp] theorem State.dequeue_motifIds (s : State) (t : Nat) (q : Fin 4) : State.motifIds (s.dequeue t q) = s.motifIds := State.modTile_motifIds s t _
@[simp] theorem State.dequeue_launchCtr (s : State) (t : Nat) (q : Fin 4) : State.launchCtr (s.dequeue t q) = s.launchCtr := State.modTile_launchCtr s t _
@[simp] theorem State.dequeue_retiredIdx (s : State) (t : Nat) (q : Fin 4) : State.retiredIdx (s.dequeue t q) = s.retiredIdx := State.modTile_retiredIdx s t _
@[simp] theorem State.dequeue_reclaiming (s : State) (t : Nat) (q : Fin 4) : State.reclaiming (s.dequeue t q) = s.reclaiming := State.modTile_reclaiming s t _
@[simp] theorem State.dequeue_short (s : State) (t : Nat) (q : Fin 4) : State.short (s.dequeue t q) = s.short := State.modTile_short s t _
@[simp] theorem State.dequeue_dying (s : State) (t : Nat) (q : Fin 4) : State.dying (s.dequeue t q) = s.dying := State.modTile_dying s t _
@[simp] theorem State.dequeue_hnewWait (s : State) (t : Nat) (q : Fin 4) : State.hnewWait (s.dequeue t q) = s.hnewWait := State.modTile_hnewWait s t _
@[simp] theorem State.dequeue_comms (s : State) (t : Nat) (q : Fin 4) : State.comms (s.dequeue t q) = s.comms := State.modTile_comms s t _
@[simp] theorem State.dequeue_tables (s : State) (t : Nat) (q : Fin 4) : State.tables (s.dequeue t q) = s.tables := State.modTile_tables s t _
@[simp] theorem State.dequeue_engines (s : State) (t : Nat) (q : Fin 4) : State.engines (s.dequeue t q) = s.engines := State.modTile_engines s t _
@[simp] theorem State.dequeue_switches (s : State) (t : Nat) (q : Fin 4) : State.switches (s.dequeue t q) = s.switches := State.modTile_switches s t _

/-! ### `State.putPort` places a token in a port -/

@[simp] theorem State.putPort_cycle (s : State) (t : Nat) (q : Fin 4) (k : Token) : State.cycle (s.putPort t q k) = s.cycle := State.modTile_cycle s t _
@[simp] theorem State.putPort_time (s : State) (t : Nat) (q : Fin 4) (k : Token) : State.time (s.putPort t q k) = s.time := State.modTile_time s t _
@[simp] theorem State.putPort_epoch (s : State) (t : Nat) (q : Fin 4) (k : Token) : State.epoch (s.putPort t q k) = s.epoch := State.modTile_epoch s t _
@[simp] theorem State.putPort_agenda (s : State) (t : Nat) (q : Fin 4) (k : Token) : State.agenda (s.putPort t q k) = s.agenda := State.modTile_agenda s t _
@[simp] theorem State.putPort_scan (s : State) (t : Nat) (q : Fin 4) (k : Token) : State.scan (s.putPort t q k) = s.scan := State.modTile_scan s t _
@[simp] theorem State.putPort_cur (s : State) (t : Nat) (q : Fin 4) (k : Token) : State.cur (s.putPort t q k) = s.cur := State.modTile_cur s t _
@[simp] theorem State.putPort_freeCtr (s : State) (t : Nat) (q : Fin 4) (k : Token) : State.freeCtr (s.putPort t q k) = s.freeCtr := State.modTile_freeCtr s t _
@[simp] theorem State.putPort_nextId (s : State) (t : Nat) (q : Fin 4) (k : Token) : State.nextId (s.putPort t q k) = s.nextId := State.modTile_nextId s t _
@[simp] theorem State.putPort_hostOut (s : State) (t : Nat) (q : Fin 4) (k : Token) : State.hostOut (s.putPort t q k) = s.hostOut := State.modTile_hostOut s t _
@[simp] theorem State.putPort_regs (s : State) (t : Nat) (q : Fin 4) (k : Token) : State.regs (s.putPort t q k) = s.regs := State.modTile_regs s t _
@[simp] theorem State.putPort_dbg (s : State) (t : Nat) (q : Fin 4) (k : Token) : State.dbg (s.putPort t q k) = s.dbg := State.modTile_dbg s t _
@[simp] theorem State.putPort_am (s : State) (t : Nat) (q : Fin 4) (k : Token) : State.am (s.putPort t q k) = s.am := State.modTile_am s t _
@[simp] theorem State.putPort_queues (s : State) (t : Nat) (q : Fin 4) (k : Token) : State.queues (s.putPort t q k) = s.queues := State.modTile_queues s t _
@[simp] theorem State.putPort_lastQueue (s : State) (t : Nat) (q : Fin 4) (k : Token) : State.lastQueue (s.putPort t q k) = s.lastQueue := State.modTile_lastQueue s t _
@[simp] theorem State.putPort_lastGrant (s : State) (t : Nat) (q : Fin 4) (k : Token) : State.lastGrant (s.putPort t q k) = s.lastGrant := State.modTile_lastGrant s t _
@[simp] theorem State.putPort_refilled (s : State) (t : Nat) (q : Fin 4) (k : Token) : State.refilled (s.putPort t q k) = s.refilled := State.modTile_refilled s t _
@[simp] theorem State.putPort_packets (s : State) (t : Nat) (q : Fin 4) (k : Token) : State.packets (s.putPort t q k) = s.packets := State.modTile_packets s t _
@[simp] theorem State.putPort_launches (s : State) (t : Nat) (q : Fin 4) (k : Token) : State.launches (s.putPort t q k) = s.launches := State.modTile_launches s t _
@[simp] theorem State.putPort_hbm (s : State) (t : Nat) (q : Fin 4) (k : Token) : State.hbm (s.putPort t q k) = s.hbm := State.modTile_hbm s t _
@[simp] theorem State.putPort_sram (s : State) (t : Nat) (q : Fin 4) (k : Token) : State.sram (s.putPort t q k) = s.sram := State.modTile_sram s t _
@[simp] theorem State.putPort_full (s : State) (t : Nat) (q : Fin 4) (k : Token) : State.full (s.putPort t q k) = s.full := State.modTile_full s t _
@[simp] theorem State.putPort_flash (s : State) (t : Nat) (q : Fin 4) (k : Token) : State.flash (s.putPort t q k) = s.flash := State.modTile_flash s t _
@[simp] theorem State.putPort_lines (s : State) (t : Nat) (q : Fin 4) (k : Token) : State.lines (s.putPort t q k) = s.lines := State.modTile_lines s t _
@[simp] theorem State.putPort_pend (s : State) (t : Nat) (q : Fin 4) (k : Token) : State.pend (s.putPort t q k) = s.pend := State.modTile_pend s t _
@[simp] theorem State.putPort_ports (s : State) (t : Nat) (q : Fin 4) (k : Token) : State.ports (s.putPort t q k) = s.ports := State.modTile_ports s t _
@[simp] theorem State.putPort_watched (s : State) (t : Nat) (q : Fin 4) (k : Token) : State.watched (s.putPort t q k) = s.watched := State.modTile_watched s t _
@[simp] theorem State.putPort_relRecs (s : State) (t : Nat) (q : Fin 4) (k : Token) : State.relRecs (s.putPort t q k) = s.relRecs := State.modTile_relRecs s t _
@[simp] theorem State.putPort_replicas (s : State) (t : Nat) (q : Fin 4) (k : Token) : State.replicas (s.putPort t q k) = s.replicas := State.modTile_replicas s t _
@[simp] theorem State.putPort_fetches (s : State) (t : Nat) (q : Fin 4) (k : Token) : State.fetches (s.putPort t q k) = s.fetches := State.modTile_fetches s t _
@[simp] theorem State.putPort_flights (s : State) (t : Nat) (q : Fin 4) (k : Token) : State.flights (s.putPort t q k) = s.flights := State.modTile_flights s t _
@[simp] theorem State.putPort_served (s : State) (t : Nat) (q : Fin 4) (k : Token) : State.served (s.putPort t q k) = s.served := State.modTile_served s t _
@[simp] theorem State.putPort_reqs (s : State) (t : Nat) (q : Fin 4) (k : Token) : State.reqs (s.putPort t q k) = s.reqs := State.modTile_reqs s t _
@[simp] theorem State.putPort_faultToks (s : State) (t : Nat) (q : Fin 4) (k : Token) : State.faultToks (s.putPort t q k) = s.faultToks := State.modTile_faultToks s t _
@[simp] theorem State.putPort_transfers (s : State) (t : Nat) (q : Fin 4) (k : Token) : State.transfers (s.putPort t q k) = s.transfers := State.modTile_transfers s t _
@[simp] theorem State.putPort_regions (s : State) (t : Nat) (q : Fin 4) (k : Token) : State.regions (s.putPort t q k) = s.regions := State.modTile_regions s t _
@[simp] theorem State.putPort_versions (s : State) (t : Nat) (q : Fin 4) (k : Token) : State.versions (s.putPort t q k) = s.versions := State.modTile_versions s t _
@[simp] theorem State.putPort_tasks (s : State) (t : Nat) (q : Fin 4) (k : Token) : State.tasks (s.putPort t q k) = s.tasks := State.modTile_tasks s t _
@[simp] theorem State.putPort_seq (s : State) (t : Nat) (q : Fin 4) (k : Token) : State.seq (s.putPort t q k) = s.seq := State.modTile_seq s t _
@[simp] theorem State.putPort_maxTs (s : State) (t : Nat) (q : Fin 4) (k : Token) : State.maxTs (s.putPort t q k) = s.maxTs := State.modTile_maxTs s t _
@[simp] theorem State.putPort_plans (s : State) (t : Nat) (q : Fin 4) (k : Token) : State.plans (s.putPort t q k) = s.plans := State.modTile_plans s t _
@[simp] theorem State.putPort_library (s : State) (t : Nat) (q : Fin 4) (k : Token) : State.library (s.putPort t q k) = s.library := State.modTile_library s t _
@[simp] theorem State.putPort_solderBusy (s : State) (t : Nat) (q : Fin 4) (k : Token) : State.solderBusy (s.putPort t q k) = s.solderBusy := State.modTile_solderBusy s t _
@[simp] theorem State.putPort_motifs (s : State) (t : Nat) (q : Fin 4) (k : Token) : State.motifs (s.putPort t q k) = s.motifs := State.modTile_motifs s t _
@[simp] theorem State.putPort_motifIds (s : State) (t : Nat) (q : Fin 4) (k : Token) : State.motifIds (s.putPort t q k) = s.motifIds := State.modTile_motifIds s t _
@[simp] theorem State.putPort_launchCtr (s : State) (t : Nat) (q : Fin 4) (k : Token) : State.launchCtr (s.putPort t q k) = s.launchCtr := State.modTile_launchCtr s t _
@[simp] theorem State.putPort_retiredIdx (s : State) (t : Nat) (q : Fin 4) (k : Token) : State.retiredIdx (s.putPort t q k) = s.retiredIdx := State.modTile_retiredIdx s t _
@[simp] theorem State.putPort_reclaiming (s : State) (t : Nat) (q : Fin 4) (k : Token) : State.reclaiming (s.putPort t q k) = s.reclaiming := State.modTile_reclaiming s t _
@[simp] theorem State.putPort_short (s : State) (t : Nat) (q : Fin 4) (k : Token) : State.short (s.putPort t q k) = s.short := State.modTile_short s t _
@[simp] theorem State.putPort_dying (s : State) (t : Nat) (q : Fin 4) (k : Token) : State.dying (s.putPort t q k) = s.dying := State.modTile_dying s t _
@[simp] theorem State.putPort_hnewWait (s : State) (t : Nat) (q : Fin 4) (k : Token) : State.hnewWait (s.putPort t q k) = s.hnewWait := State.modTile_hnewWait s t _
@[simp] theorem State.putPort_comms (s : State) (t : Nat) (q : Fin 4) (k : Token) : State.comms (s.putPort t q k) = s.comms := State.modTile_comms s t _
@[simp] theorem State.putPort_tables (s : State) (t : Nat) (q : Fin 4) (k : Token) : State.tables (s.putPort t q k) = s.tables := State.modTile_tables s t _
@[simp] theorem State.putPort_engines (s : State) (t : Nat) (q : Fin 4) (k : Token) : State.engines (s.putPort t q k) = s.engines := State.modTile_engines s t _
@[simp] theorem State.putPort_switches (s : State) (t : Nat) (q : Fin 4) (k : Token) : State.switches (s.putPort t q k) = s.switches := State.modTile_switches s t _

/-! ### `State.modRegion` changes one region -/

@[simp] theorem State.modRegion_cycle (s : State) (n : Nat) (f : Region → Region) : State.cycle (s.modRegion n f) = s.cycle := by unfold State.modRegion; split <;> rfl
@[simp] theorem State.modRegion_time (s : State) (n : Nat) (f : Region → Region) : State.time (s.modRegion n f) = s.time := by unfold State.modRegion; split <;> rfl
@[simp] theorem State.modRegion_epoch (s : State) (n : Nat) (f : Region → Region) : State.epoch (s.modRegion n f) = s.epoch := by unfold State.modRegion; split <;> rfl
@[simp] theorem State.modRegion_agenda (s : State) (n : Nat) (f : Region → Region) : State.agenda (s.modRegion n f) = s.agenda := by unfold State.modRegion; split <;> rfl
@[simp] theorem State.modRegion_scan (s : State) (n : Nat) (f : Region → Region) : State.scan (s.modRegion n f) = s.scan := by unfold State.modRegion; split <;> rfl
@[simp] theorem State.modRegion_cur (s : State) (n : Nat) (f : Region → Region) : State.cur (s.modRegion n f) = s.cur := by unfold State.modRegion; split <;> rfl
@[simp] theorem State.modRegion_freeCtr (s : State) (n : Nat) (f : Region → Region) : State.freeCtr (s.modRegion n f) = s.freeCtr := by unfold State.modRegion; split <;> rfl
@[simp] theorem State.modRegion_nextId (s : State) (n : Nat) (f : Region → Region) : State.nextId (s.modRegion n f) = s.nextId := by unfold State.modRegion; split <;> rfl
@[simp] theorem State.modRegion_hostOut (s : State) (n : Nat) (f : Region → Region) : State.hostOut (s.modRegion n f) = s.hostOut := by unfold State.modRegion; split <;> rfl
@[simp] theorem State.modRegion_regs (s : State) (n : Nat) (f : Region → Region) : State.regs (s.modRegion n f) = s.regs := by unfold State.modRegion; split <;> rfl
@[simp] theorem State.modRegion_dbg (s : State) (n : Nat) (f : Region → Region) : State.dbg (s.modRegion n f) = s.dbg := by unfold State.modRegion; split <;> rfl
@[simp] theorem State.modRegion_am (s : State) (n : Nat) (f : Region → Region) : State.am (s.modRegion n f) = s.am := by unfold State.modRegion; split <;> rfl
@[simp] theorem State.modRegion_queues (s : State) (n : Nat) (f : Region → Region) : State.queues (s.modRegion n f) = s.queues := by unfold State.modRegion; split <;> rfl
@[simp] theorem State.modRegion_lastQueue (s : State) (n : Nat) (f : Region → Region) : State.lastQueue (s.modRegion n f) = s.lastQueue := by unfold State.modRegion; split <;> rfl
@[simp] theorem State.modRegion_lastGrant (s : State) (n : Nat) (f : Region → Region) : State.lastGrant (s.modRegion n f) = s.lastGrant := by unfold State.modRegion; split <;> rfl
@[simp] theorem State.modRegion_refilled (s : State) (n : Nat) (f : Region → Region) : State.refilled (s.modRegion n f) = s.refilled := by unfold State.modRegion; split <;> rfl
@[simp] theorem State.modRegion_packets (s : State) (n : Nat) (f : Region → Region) : State.packets (s.modRegion n f) = s.packets := by unfold State.modRegion; split <;> rfl
@[simp] theorem State.modRegion_launches (s : State) (n : Nat) (f : Region → Region) : State.launches (s.modRegion n f) = s.launches := by unfold State.modRegion; split <;> rfl
@[simp] theorem State.modRegion_hbm (s : State) (n : Nat) (f : Region → Region) : State.hbm (s.modRegion n f) = s.hbm := by unfold State.modRegion; split <;> rfl
@[simp] theorem State.modRegion_sram (s : State) (n : Nat) (f : Region → Region) : State.sram (s.modRegion n f) = s.sram := by unfold State.modRegion; split <;> rfl
@[simp] theorem State.modRegion_full (s : State) (n : Nat) (f : Region → Region) : State.full (s.modRegion n f) = s.full := by unfold State.modRegion; split <;> rfl
@[simp] theorem State.modRegion_flash (s : State) (n : Nat) (f : Region → Region) : State.flash (s.modRegion n f) = s.flash := by unfold State.modRegion; split <;> rfl
@[simp] theorem State.modRegion_lines (s : State) (n : Nat) (f : Region → Region) : State.lines (s.modRegion n f) = s.lines := by unfold State.modRegion; split <;> rfl
@[simp] theorem State.modRegion_pend (s : State) (n : Nat) (f : Region → Region) : State.pend (s.modRegion n f) = s.pend := by unfold State.modRegion; split <;> rfl
@[simp] theorem State.modRegion_ports (s : State) (n : Nat) (f : Region → Region) : State.ports (s.modRegion n f) = s.ports := by unfold State.modRegion; split <;> rfl
@[simp] theorem State.modRegion_watched (s : State) (n : Nat) (f : Region → Region) : State.watched (s.modRegion n f) = s.watched := by unfold State.modRegion; split <;> rfl
@[simp] theorem State.modRegion_relRecs (s : State) (n : Nat) (f : Region → Region) : State.relRecs (s.modRegion n f) = s.relRecs := by unfold State.modRegion; split <;> rfl
@[simp] theorem State.modRegion_replicas (s : State) (n : Nat) (f : Region → Region) : State.replicas (s.modRegion n f) = s.replicas := by unfold State.modRegion; split <;> rfl
@[simp] theorem State.modRegion_fetches (s : State) (n : Nat) (f : Region → Region) : State.fetches (s.modRegion n f) = s.fetches := by unfold State.modRegion; split <;> rfl
@[simp] theorem State.modRegion_tiles (s : State) (n : Nat) (f : Region → Region) : State.tiles (s.modRegion n f) = s.tiles := by unfold State.modRegion; split <;> rfl
@[simp] theorem State.modRegion_flights (s : State) (n : Nat) (f : Region → Region) : State.flights (s.modRegion n f) = s.flights := by unfold State.modRegion; split <;> rfl
@[simp] theorem State.modRegion_served (s : State) (n : Nat) (f : Region → Region) : State.served (s.modRegion n f) = s.served := by unfold State.modRegion; split <;> rfl
@[simp] theorem State.modRegion_reqs (s : State) (n : Nat) (f : Region → Region) : State.reqs (s.modRegion n f) = s.reqs := by unfold State.modRegion; split <;> rfl
@[simp] theorem State.modRegion_faultToks (s : State) (n : Nat) (f : Region → Region) : State.faultToks (s.modRegion n f) = s.faultToks := by unfold State.modRegion; split <;> rfl
@[simp] theorem State.modRegion_transfers (s : State) (n : Nat) (f : Region → Region) : State.transfers (s.modRegion n f) = s.transfers := by unfold State.modRegion; split <;> rfl
@[simp] theorem State.modRegion_versions (s : State) (n : Nat) (f : Region → Region) : State.versions (s.modRegion n f) = s.versions := by unfold State.modRegion; split <;> rfl
@[simp] theorem State.modRegion_tasks (s : State) (n : Nat) (f : Region → Region) : State.tasks (s.modRegion n f) = s.tasks := by unfold State.modRegion; split <;> rfl
@[simp] theorem State.modRegion_seq (s : State) (n : Nat) (f : Region → Region) : State.seq (s.modRegion n f) = s.seq := by unfold State.modRegion; split <;> rfl
@[simp] theorem State.modRegion_maxTs (s : State) (n : Nat) (f : Region → Region) : State.maxTs (s.modRegion n f) = s.maxTs := by unfold State.modRegion; split <;> rfl
@[simp] theorem State.modRegion_plans (s : State) (n : Nat) (f : Region → Region) : State.plans (s.modRegion n f) = s.plans := by unfold State.modRegion; split <;> rfl
@[simp] theorem State.modRegion_library (s : State) (n : Nat) (f : Region → Region) : State.library (s.modRegion n f) = s.library := by unfold State.modRegion; split <;> rfl
@[simp] theorem State.modRegion_solderBusy (s : State) (n : Nat) (f : Region → Region) : State.solderBusy (s.modRegion n f) = s.solderBusy := by unfold State.modRegion; split <;> rfl
@[simp] theorem State.modRegion_motifs (s : State) (n : Nat) (f : Region → Region) : State.motifs (s.modRegion n f) = s.motifs := by unfold State.modRegion; split <;> rfl
@[simp] theorem State.modRegion_motifIds (s : State) (n : Nat) (f : Region → Region) : State.motifIds (s.modRegion n f) = s.motifIds := by unfold State.modRegion; split <;> rfl
@[simp] theorem State.modRegion_launchCtr (s : State) (n : Nat) (f : Region → Region) : State.launchCtr (s.modRegion n f) = s.launchCtr := by unfold State.modRegion; split <;> rfl
@[simp] theorem State.modRegion_retiredIdx (s : State) (n : Nat) (f : Region → Region) : State.retiredIdx (s.modRegion n f) = s.retiredIdx := by unfold State.modRegion; split <;> rfl
@[simp] theorem State.modRegion_reclaiming (s : State) (n : Nat) (f : Region → Region) : State.reclaiming (s.modRegion n f) = s.reclaiming := by unfold State.modRegion; split <;> rfl
@[simp] theorem State.modRegion_short (s : State) (n : Nat) (f : Region → Region) : State.short (s.modRegion n f) = s.short := by unfold State.modRegion; split <;> rfl
@[simp] theorem State.modRegion_dying (s : State) (n : Nat) (f : Region → Region) : State.dying (s.modRegion n f) = s.dying := by unfold State.modRegion; split <;> rfl
@[simp] theorem State.modRegion_hnewWait (s : State) (n : Nat) (f : Region → Region) : State.hnewWait (s.modRegion n f) = s.hnewWait := by unfold State.modRegion; split <;> rfl
@[simp] theorem State.modRegion_comms (s : State) (n : Nat) (f : Region → Region) : State.comms (s.modRegion n f) = s.comms := by unfold State.modRegion; split <;> rfl
@[simp] theorem State.modRegion_tables (s : State) (n : Nat) (f : Region → Region) : State.tables (s.modRegion n f) = s.tables := by unfold State.modRegion; split <;> rfl
@[simp] theorem State.modRegion_engines (s : State) (n : Nat) (f : Region → Region) : State.engines (s.modRegion n f) = s.engines := by unfold State.modRegion; split <;> rfl
@[simp] theorem State.modRegion_switches (s : State) (n : Nat) (f : Region → Region) : State.switches (s.modRegion n f) = s.switches := by unfold State.modRegion; split <;> rfl

/-! ### `State.modTask` changes one task -/

@[simp] theorem State.modTask_cycle (s : State) (n : Nat) (f : Task → Task) : State.cycle (s.modTask n f) = s.cycle := rfl
@[simp] theorem State.modTask_time (s : State) (n : Nat) (f : Task → Task) : State.time (s.modTask n f) = s.time := rfl
@[simp] theorem State.modTask_epoch (s : State) (n : Nat) (f : Task → Task) : State.epoch (s.modTask n f) = s.epoch := rfl
@[simp] theorem State.modTask_agenda (s : State) (n : Nat) (f : Task → Task) : State.agenda (s.modTask n f) = s.agenda := rfl
@[simp] theorem State.modTask_scan (s : State) (n : Nat) (f : Task → Task) : State.scan (s.modTask n f) = s.scan := rfl
@[simp] theorem State.modTask_cur (s : State) (n : Nat) (f : Task → Task) : State.cur (s.modTask n f) = s.cur := rfl
@[simp] theorem State.modTask_freeCtr (s : State) (n : Nat) (f : Task → Task) : State.freeCtr (s.modTask n f) = s.freeCtr := rfl
@[simp] theorem State.modTask_nextId (s : State) (n : Nat) (f : Task → Task) : State.nextId (s.modTask n f) = s.nextId := rfl
@[simp] theorem State.modTask_hostOut (s : State) (n : Nat) (f : Task → Task) : State.hostOut (s.modTask n f) = s.hostOut := rfl
@[simp] theorem State.modTask_regs (s : State) (n : Nat) (f : Task → Task) : State.regs (s.modTask n f) = s.regs := rfl
@[simp] theorem State.modTask_dbg (s : State) (n : Nat) (f : Task → Task) : State.dbg (s.modTask n f) = s.dbg := rfl
@[simp] theorem State.modTask_am (s : State) (n : Nat) (f : Task → Task) : State.am (s.modTask n f) = s.am := rfl
@[simp] theorem State.modTask_queues (s : State) (n : Nat) (f : Task → Task) : State.queues (s.modTask n f) = s.queues := rfl
@[simp] theorem State.modTask_lastQueue (s : State) (n : Nat) (f : Task → Task) : State.lastQueue (s.modTask n f) = s.lastQueue := rfl
@[simp] theorem State.modTask_lastGrant (s : State) (n : Nat) (f : Task → Task) : State.lastGrant (s.modTask n f) = s.lastGrant := rfl
@[simp] theorem State.modTask_refilled (s : State) (n : Nat) (f : Task → Task) : State.refilled (s.modTask n f) = s.refilled := rfl
@[simp] theorem State.modTask_packets (s : State) (n : Nat) (f : Task → Task) : State.packets (s.modTask n f) = s.packets := rfl
@[simp] theorem State.modTask_launches (s : State) (n : Nat) (f : Task → Task) : State.launches (s.modTask n f) = s.launches := rfl
@[simp] theorem State.modTask_hbm (s : State) (n : Nat) (f : Task → Task) : State.hbm (s.modTask n f) = s.hbm := rfl
@[simp] theorem State.modTask_sram (s : State) (n : Nat) (f : Task → Task) : State.sram (s.modTask n f) = s.sram := rfl
@[simp] theorem State.modTask_full (s : State) (n : Nat) (f : Task → Task) : State.full (s.modTask n f) = s.full := rfl
@[simp] theorem State.modTask_flash (s : State) (n : Nat) (f : Task → Task) : State.flash (s.modTask n f) = s.flash := rfl
@[simp] theorem State.modTask_lines (s : State) (n : Nat) (f : Task → Task) : State.lines (s.modTask n f) = s.lines := rfl
@[simp] theorem State.modTask_pend (s : State) (n : Nat) (f : Task → Task) : State.pend (s.modTask n f) = s.pend := rfl
@[simp] theorem State.modTask_ports (s : State) (n : Nat) (f : Task → Task) : State.ports (s.modTask n f) = s.ports := rfl
@[simp] theorem State.modTask_watched (s : State) (n : Nat) (f : Task → Task) : State.watched (s.modTask n f) = s.watched := rfl
@[simp] theorem State.modTask_relRecs (s : State) (n : Nat) (f : Task → Task) : State.relRecs (s.modTask n f) = s.relRecs := rfl
@[simp] theorem State.modTask_replicas (s : State) (n : Nat) (f : Task → Task) : State.replicas (s.modTask n f) = s.replicas := rfl
@[simp] theorem State.modTask_fetches (s : State) (n : Nat) (f : Task → Task) : State.fetches (s.modTask n f) = s.fetches := rfl
@[simp] theorem State.modTask_tiles (s : State) (n : Nat) (f : Task → Task) : State.tiles (s.modTask n f) = s.tiles := rfl
@[simp] theorem State.modTask_flights (s : State) (n : Nat) (f : Task → Task) : State.flights (s.modTask n f) = s.flights := rfl
@[simp] theorem State.modTask_served (s : State) (n : Nat) (f : Task → Task) : State.served (s.modTask n f) = s.served := rfl
@[simp] theorem State.modTask_reqs (s : State) (n : Nat) (f : Task → Task) : State.reqs (s.modTask n f) = s.reqs := rfl
@[simp] theorem State.modTask_faultToks (s : State) (n : Nat) (f : Task → Task) : State.faultToks (s.modTask n f) = s.faultToks := rfl
@[simp] theorem State.modTask_transfers (s : State) (n : Nat) (f : Task → Task) : State.transfers (s.modTask n f) = s.transfers := rfl
@[simp] theorem State.modTask_regions (s : State) (n : Nat) (f : Task → Task) : State.regions (s.modTask n f) = s.regions := rfl
@[simp] theorem State.modTask_versions (s : State) (n : Nat) (f : Task → Task) : State.versions (s.modTask n f) = s.versions := rfl
@[simp] theorem State.modTask_seq (s : State) (n : Nat) (f : Task → Task) : State.seq (s.modTask n f) = s.seq := rfl
@[simp] theorem State.modTask_maxTs (s : State) (n : Nat) (f : Task → Task) : State.maxTs (s.modTask n f) = s.maxTs := rfl
@[simp] theorem State.modTask_plans (s : State) (n : Nat) (f : Task → Task) : State.plans (s.modTask n f) = s.plans := rfl
@[simp] theorem State.modTask_library (s : State) (n : Nat) (f : Task → Task) : State.library (s.modTask n f) = s.library := rfl
@[simp] theorem State.modTask_solderBusy (s : State) (n : Nat) (f : Task → Task) : State.solderBusy (s.modTask n f) = s.solderBusy := rfl
@[simp] theorem State.modTask_motifs (s : State) (n : Nat) (f : Task → Task) : State.motifs (s.modTask n f) = s.motifs := rfl
@[simp] theorem State.modTask_motifIds (s : State) (n : Nat) (f : Task → Task) : State.motifIds (s.modTask n f) = s.motifIds := rfl
@[simp] theorem State.modTask_launchCtr (s : State) (n : Nat) (f : Task → Task) : State.launchCtr (s.modTask n f) = s.launchCtr := rfl
@[simp] theorem State.modTask_retiredIdx (s : State) (n : Nat) (f : Task → Task) : State.retiredIdx (s.modTask n f) = s.retiredIdx := rfl
@[simp] theorem State.modTask_reclaiming (s : State) (n : Nat) (f : Task → Task) : State.reclaiming (s.modTask n f) = s.reclaiming := rfl
@[simp] theorem State.modTask_short (s : State) (n : Nat) (f : Task → Task) : State.short (s.modTask n f) = s.short := rfl
@[simp] theorem State.modTask_dying (s : State) (n : Nat) (f : Task → Task) : State.dying (s.modTask n f) = s.dying := rfl
@[simp] theorem State.modTask_hnewWait (s : State) (n : Nat) (f : Task → Task) : State.hnewWait (s.modTask n f) = s.hnewWait := rfl
@[simp] theorem State.modTask_comms (s : State) (n : Nat) (f : Task → Task) : State.comms (s.modTask n f) = s.comms := rfl
@[simp] theorem State.modTask_tables (s : State) (n : Nat) (f : Task → Task) : State.tables (s.modTask n f) = s.tables := rfl
@[simp] theorem State.modTask_engines (s : State) (n : Nat) (f : Task → Task) : State.engines (s.modTask n f) = s.engines := rfl
@[simp] theorem State.modTask_switches (s : State) (n : Nat) (f : Task → Task) : State.switches (s.modTask n f) = s.switches := rfl

/-! ### `State.modQueue` changes one queue -/

@[simp] theorem State.modQueue_cycle (s : State) (q : Nat) (f : Queue → Queue) : State.cycle (s.modQueue q f) = s.cycle := rfl
@[simp] theorem State.modQueue_time (s : State) (q : Nat) (f : Queue → Queue) : State.time (s.modQueue q f) = s.time := rfl
@[simp] theorem State.modQueue_epoch (s : State) (q : Nat) (f : Queue → Queue) : State.epoch (s.modQueue q f) = s.epoch := rfl
@[simp] theorem State.modQueue_agenda (s : State) (q : Nat) (f : Queue → Queue) : State.agenda (s.modQueue q f) = s.agenda := rfl
@[simp] theorem State.modQueue_scan (s : State) (q : Nat) (f : Queue → Queue) : State.scan (s.modQueue q f) = s.scan := rfl
@[simp] theorem State.modQueue_cur (s : State) (q : Nat) (f : Queue → Queue) : State.cur (s.modQueue q f) = s.cur := rfl
@[simp] theorem State.modQueue_freeCtr (s : State) (q : Nat) (f : Queue → Queue) : State.freeCtr (s.modQueue q f) = s.freeCtr := rfl
@[simp] theorem State.modQueue_nextId (s : State) (q : Nat) (f : Queue → Queue) : State.nextId (s.modQueue q f) = s.nextId := rfl
@[simp] theorem State.modQueue_hostOut (s : State) (q : Nat) (f : Queue → Queue) : State.hostOut (s.modQueue q f) = s.hostOut := rfl
@[simp] theorem State.modQueue_regs (s : State) (q : Nat) (f : Queue → Queue) : State.regs (s.modQueue q f) = s.regs := rfl
@[simp] theorem State.modQueue_dbg (s : State) (q : Nat) (f : Queue → Queue) : State.dbg (s.modQueue q f) = s.dbg := rfl
@[simp] theorem State.modQueue_am (s : State) (q : Nat) (f : Queue → Queue) : State.am (s.modQueue q f) = s.am := rfl
@[simp] theorem State.modQueue_lastQueue (s : State) (q : Nat) (f : Queue → Queue) : State.lastQueue (s.modQueue q f) = s.lastQueue := rfl
@[simp] theorem State.modQueue_lastGrant (s : State) (q : Nat) (f : Queue → Queue) : State.lastGrant (s.modQueue q f) = s.lastGrant := rfl
@[simp] theorem State.modQueue_refilled (s : State) (q : Nat) (f : Queue → Queue) : State.refilled (s.modQueue q f) = s.refilled := rfl
@[simp] theorem State.modQueue_packets (s : State) (q : Nat) (f : Queue → Queue) : State.packets (s.modQueue q f) = s.packets := rfl
@[simp] theorem State.modQueue_launches (s : State) (q : Nat) (f : Queue → Queue) : State.launches (s.modQueue q f) = s.launches := rfl
@[simp] theorem State.modQueue_hbm (s : State) (q : Nat) (f : Queue → Queue) : State.hbm (s.modQueue q f) = s.hbm := rfl
@[simp] theorem State.modQueue_sram (s : State) (q : Nat) (f : Queue → Queue) : State.sram (s.modQueue q f) = s.sram := rfl
@[simp] theorem State.modQueue_full (s : State) (q : Nat) (f : Queue → Queue) : State.full (s.modQueue q f) = s.full := rfl
@[simp] theorem State.modQueue_flash (s : State) (q : Nat) (f : Queue → Queue) : State.flash (s.modQueue q f) = s.flash := rfl
@[simp] theorem State.modQueue_lines (s : State) (q : Nat) (f : Queue → Queue) : State.lines (s.modQueue q f) = s.lines := rfl
@[simp] theorem State.modQueue_pend (s : State) (q : Nat) (f : Queue → Queue) : State.pend (s.modQueue q f) = s.pend := rfl
@[simp] theorem State.modQueue_ports (s : State) (q : Nat) (f : Queue → Queue) : State.ports (s.modQueue q f) = s.ports := rfl
@[simp] theorem State.modQueue_watched (s : State) (q : Nat) (f : Queue → Queue) : State.watched (s.modQueue q f) = s.watched := rfl
@[simp] theorem State.modQueue_relRecs (s : State) (q : Nat) (f : Queue → Queue) : State.relRecs (s.modQueue q f) = s.relRecs := rfl
@[simp] theorem State.modQueue_replicas (s : State) (q : Nat) (f : Queue → Queue) : State.replicas (s.modQueue q f) = s.replicas := rfl
@[simp] theorem State.modQueue_fetches (s : State) (q : Nat) (f : Queue → Queue) : State.fetches (s.modQueue q f) = s.fetches := rfl
@[simp] theorem State.modQueue_tiles (s : State) (q : Nat) (f : Queue → Queue) : State.tiles (s.modQueue q f) = s.tiles := rfl
@[simp] theorem State.modQueue_flights (s : State) (q : Nat) (f : Queue → Queue) : State.flights (s.modQueue q f) = s.flights := rfl
@[simp] theorem State.modQueue_served (s : State) (q : Nat) (f : Queue → Queue) : State.served (s.modQueue q f) = s.served := rfl
@[simp] theorem State.modQueue_reqs (s : State) (q : Nat) (f : Queue → Queue) : State.reqs (s.modQueue q f) = s.reqs := rfl
@[simp] theorem State.modQueue_faultToks (s : State) (q : Nat) (f : Queue → Queue) : State.faultToks (s.modQueue q f) = s.faultToks := rfl
@[simp] theorem State.modQueue_transfers (s : State) (q : Nat) (f : Queue → Queue) : State.transfers (s.modQueue q f) = s.transfers := rfl
@[simp] theorem State.modQueue_regions (s : State) (q : Nat) (f : Queue → Queue) : State.regions (s.modQueue q f) = s.regions := rfl
@[simp] theorem State.modQueue_versions (s : State) (q : Nat) (f : Queue → Queue) : State.versions (s.modQueue q f) = s.versions := rfl
@[simp] theorem State.modQueue_tasks (s : State) (q : Nat) (f : Queue → Queue) : State.tasks (s.modQueue q f) = s.tasks := rfl
@[simp] theorem State.modQueue_seq (s : State) (q : Nat) (f : Queue → Queue) : State.seq (s.modQueue q f) = s.seq := rfl
@[simp] theorem State.modQueue_maxTs (s : State) (q : Nat) (f : Queue → Queue) : State.maxTs (s.modQueue q f) = s.maxTs := rfl
@[simp] theorem State.modQueue_plans (s : State) (q : Nat) (f : Queue → Queue) : State.plans (s.modQueue q f) = s.plans := rfl
@[simp] theorem State.modQueue_library (s : State) (q : Nat) (f : Queue → Queue) : State.library (s.modQueue q f) = s.library := rfl
@[simp] theorem State.modQueue_solderBusy (s : State) (q : Nat) (f : Queue → Queue) : State.solderBusy (s.modQueue q f) = s.solderBusy := rfl
@[simp] theorem State.modQueue_motifs (s : State) (q : Nat) (f : Queue → Queue) : State.motifs (s.modQueue q f) = s.motifs := rfl
@[simp] theorem State.modQueue_motifIds (s : State) (q : Nat) (f : Queue → Queue) : State.motifIds (s.modQueue q f) = s.motifIds := rfl
@[simp] theorem State.modQueue_launchCtr (s : State) (q : Nat) (f : Queue → Queue) : State.launchCtr (s.modQueue q f) = s.launchCtr := rfl
@[simp] theorem State.modQueue_retiredIdx (s : State) (q : Nat) (f : Queue → Queue) : State.retiredIdx (s.modQueue q f) = s.retiredIdx := rfl
@[simp] theorem State.modQueue_reclaiming (s : State) (q : Nat) (f : Queue → Queue) : State.reclaiming (s.modQueue q f) = s.reclaiming := rfl
@[simp] theorem State.modQueue_short (s : State) (q : Nat) (f : Queue → Queue) : State.short (s.modQueue q f) = s.short := rfl
@[simp] theorem State.modQueue_dying (s : State) (q : Nat) (f : Queue → Queue) : State.dying (s.modQueue q f) = s.dying := rfl
@[simp] theorem State.modQueue_hnewWait (s : State) (q : Nat) (f : Queue → Queue) : State.hnewWait (s.modQueue q f) = s.hnewWait := rfl
@[simp] theorem State.modQueue_comms (s : State) (q : Nat) (f : Queue → Queue) : State.comms (s.modQueue q f) = s.comms := rfl
@[simp] theorem State.modQueue_tables (s : State) (q : Nat) (f : Queue → Queue) : State.tables (s.modQueue q f) = s.tables := rfl
@[simp] theorem State.modQueue_engines (s : State) (q : Nat) (f : Queue → Queue) : State.engines (s.modQueue q f) = s.engines := rfl
@[simp] theorem State.modQueue_switches (s : State) (q : Nat) (f : Queue → Queue) : State.switches (s.modQueue q f) = s.switches := rfl

/-! ### `State.modPacket` changes one packet -/

@[simp] theorem State.modPacket_cycle (s : State) (p : Nat) (f : Packet → Packet) : State.cycle (s.modPacket p f) = s.cycle := rfl
@[simp] theorem State.modPacket_time (s : State) (p : Nat) (f : Packet → Packet) : State.time (s.modPacket p f) = s.time := rfl
@[simp] theorem State.modPacket_epoch (s : State) (p : Nat) (f : Packet → Packet) : State.epoch (s.modPacket p f) = s.epoch := rfl
@[simp] theorem State.modPacket_agenda (s : State) (p : Nat) (f : Packet → Packet) : State.agenda (s.modPacket p f) = s.agenda := rfl
@[simp] theorem State.modPacket_scan (s : State) (p : Nat) (f : Packet → Packet) : State.scan (s.modPacket p f) = s.scan := rfl
@[simp] theorem State.modPacket_cur (s : State) (p : Nat) (f : Packet → Packet) : State.cur (s.modPacket p f) = s.cur := rfl
@[simp] theorem State.modPacket_freeCtr (s : State) (p : Nat) (f : Packet → Packet) : State.freeCtr (s.modPacket p f) = s.freeCtr := rfl
@[simp] theorem State.modPacket_nextId (s : State) (p : Nat) (f : Packet → Packet) : State.nextId (s.modPacket p f) = s.nextId := rfl
@[simp] theorem State.modPacket_hostOut (s : State) (p : Nat) (f : Packet → Packet) : State.hostOut (s.modPacket p f) = s.hostOut := rfl
@[simp] theorem State.modPacket_regs (s : State) (p : Nat) (f : Packet → Packet) : State.regs (s.modPacket p f) = s.regs := rfl
@[simp] theorem State.modPacket_dbg (s : State) (p : Nat) (f : Packet → Packet) : State.dbg (s.modPacket p f) = s.dbg := rfl
@[simp] theorem State.modPacket_am (s : State) (p : Nat) (f : Packet → Packet) : State.am (s.modPacket p f) = s.am := rfl
@[simp] theorem State.modPacket_queues (s : State) (p : Nat) (f : Packet → Packet) : State.queues (s.modPacket p f) = s.queues := rfl
@[simp] theorem State.modPacket_lastQueue (s : State) (p : Nat) (f : Packet → Packet) : State.lastQueue (s.modPacket p f) = s.lastQueue := rfl
@[simp] theorem State.modPacket_lastGrant (s : State) (p : Nat) (f : Packet → Packet) : State.lastGrant (s.modPacket p f) = s.lastGrant := rfl
@[simp] theorem State.modPacket_refilled (s : State) (p : Nat) (f : Packet → Packet) : State.refilled (s.modPacket p f) = s.refilled := rfl
@[simp] theorem State.modPacket_launches (s : State) (p : Nat) (f : Packet → Packet) : State.launches (s.modPacket p f) = s.launches := rfl
@[simp] theorem State.modPacket_hbm (s : State) (p : Nat) (f : Packet → Packet) : State.hbm (s.modPacket p f) = s.hbm := rfl
@[simp] theorem State.modPacket_sram (s : State) (p : Nat) (f : Packet → Packet) : State.sram (s.modPacket p f) = s.sram := rfl
@[simp] theorem State.modPacket_full (s : State) (p : Nat) (f : Packet → Packet) : State.full (s.modPacket p f) = s.full := rfl
@[simp] theorem State.modPacket_flash (s : State) (p : Nat) (f : Packet → Packet) : State.flash (s.modPacket p f) = s.flash := rfl
@[simp] theorem State.modPacket_lines (s : State) (p : Nat) (f : Packet → Packet) : State.lines (s.modPacket p f) = s.lines := rfl
@[simp] theorem State.modPacket_pend (s : State) (p : Nat) (f : Packet → Packet) : State.pend (s.modPacket p f) = s.pend := rfl
@[simp] theorem State.modPacket_ports (s : State) (p : Nat) (f : Packet → Packet) : State.ports (s.modPacket p f) = s.ports := rfl
@[simp] theorem State.modPacket_watched (s : State) (p : Nat) (f : Packet → Packet) : State.watched (s.modPacket p f) = s.watched := rfl
@[simp] theorem State.modPacket_relRecs (s : State) (p : Nat) (f : Packet → Packet) : State.relRecs (s.modPacket p f) = s.relRecs := rfl
@[simp] theorem State.modPacket_replicas (s : State) (p : Nat) (f : Packet → Packet) : State.replicas (s.modPacket p f) = s.replicas := rfl
@[simp] theorem State.modPacket_fetches (s : State) (p : Nat) (f : Packet → Packet) : State.fetches (s.modPacket p f) = s.fetches := rfl
@[simp] theorem State.modPacket_tiles (s : State) (p : Nat) (f : Packet → Packet) : State.tiles (s.modPacket p f) = s.tiles := rfl
@[simp] theorem State.modPacket_flights (s : State) (p : Nat) (f : Packet → Packet) : State.flights (s.modPacket p f) = s.flights := rfl
@[simp] theorem State.modPacket_served (s : State) (p : Nat) (f : Packet → Packet) : State.served (s.modPacket p f) = s.served := rfl
@[simp] theorem State.modPacket_reqs (s : State) (p : Nat) (f : Packet → Packet) : State.reqs (s.modPacket p f) = s.reqs := rfl
@[simp] theorem State.modPacket_faultToks (s : State) (p : Nat) (f : Packet → Packet) : State.faultToks (s.modPacket p f) = s.faultToks := rfl
@[simp] theorem State.modPacket_transfers (s : State) (p : Nat) (f : Packet → Packet) : State.transfers (s.modPacket p f) = s.transfers := rfl
@[simp] theorem State.modPacket_regions (s : State) (p : Nat) (f : Packet → Packet) : State.regions (s.modPacket p f) = s.regions := rfl
@[simp] theorem State.modPacket_versions (s : State) (p : Nat) (f : Packet → Packet) : State.versions (s.modPacket p f) = s.versions := rfl
@[simp] theorem State.modPacket_tasks (s : State) (p : Nat) (f : Packet → Packet) : State.tasks (s.modPacket p f) = s.tasks := rfl
@[simp] theorem State.modPacket_seq (s : State) (p : Nat) (f : Packet → Packet) : State.seq (s.modPacket p f) = s.seq := rfl
@[simp] theorem State.modPacket_maxTs (s : State) (p : Nat) (f : Packet → Packet) : State.maxTs (s.modPacket p f) = s.maxTs := rfl
@[simp] theorem State.modPacket_plans (s : State) (p : Nat) (f : Packet → Packet) : State.plans (s.modPacket p f) = s.plans := rfl
@[simp] theorem State.modPacket_library (s : State) (p : Nat) (f : Packet → Packet) : State.library (s.modPacket p f) = s.library := rfl
@[simp] theorem State.modPacket_solderBusy (s : State) (p : Nat) (f : Packet → Packet) : State.solderBusy (s.modPacket p f) = s.solderBusy := rfl
@[simp] theorem State.modPacket_motifs (s : State) (p : Nat) (f : Packet → Packet) : State.motifs (s.modPacket p f) = s.motifs := rfl
@[simp] theorem State.modPacket_motifIds (s : State) (p : Nat) (f : Packet → Packet) : State.motifIds (s.modPacket p f) = s.motifIds := rfl
@[simp] theorem State.modPacket_launchCtr (s : State) (p : Nat) (f : Packet → Packet) : State.launchCtr (s.modPacket p f) = s.launchCtr := rfl
@[simp] theorem State.modPacket_retiredIdx (s : State) (p : Nat) (f : Packet → Packet) : State.retiredIdx (s.modPacket p f) = s.retiredIdx := rfl
@[simp] theorem State.modPacket_reclaiming (s : State) (p : Nat) (f : Packet → Packet) : State.reclaiming (s.modPacket p f) = s.reclaiming := rfl
@[simp] theorem State.modPacket_short (s : State) (p : Nat) (f : Packet → Packet) : State.short (s.modPacket p f) = s.short := rfl
@[simp] theorem State.modPacket_dying (s : State) (p : Nat) (f : Packet → Packet) : State.dying (s.modPacket p f) = s.dying := rfl
@[simp] theorem State.modPacket_hnewWait (s : State) (p : Nat) (f : Packet → Packet) : State.hnewWait (s.modPacket p f) = s.hnewWait := rfl
@[simp] theorem State.modPacket_comms (s : State) (p : Nat) (f : Packet → Packet) : State.comms (s.modPacket p f) = s.comms := rfl
@[simp] theorem State.modPacket_tables (s : State) (p : Nat) (f : Packet → Packet) : State.tables (s.modPacket p f) = s.tables := rfl
@[simp] theorem State.modPacket_engines (s : State) (p : Nat) (f : Packet → Packet) : State.engines (s.modPacket p f) = s.engines := rfl
@[simp] theorem State.modPacket_switches (s : State) (p : Nat) (f : Packet → Packet) : State.switches (s.modPacket p f) = s.switches := rfl

/-! ### `State.modReq` changes one request -/

@[simp] theorem State.modReq_cycle (s : State) (r : Nat) (f : Req → Req) : State.cycle (s.modReq r f) = s.cycle := rfl
@[simp] theorem State.modReq_time (s : State) (r : Nat) (f : Req → Req) : State.time (s.modReq r f) = s.time := rfl
@[simp] theorem State.modReq_epoch (s : State) (r : Nat) (f : Req → Req) : State.epoch (s.modReq r f) = s.epoch := rfl
@[simp] theorem State.modReq_agenda (s : State) (r : Nat) (f : Req → Req) : State.agenda (s.modReq r f) = s.agenda := rfl
@[simp] theorem State.modReq_scan (s : State) (r : Nat) (f : Req → Req) : State.scan (s.modReq r f) = s.scan := rfl
@[simp] theorem State.modReq_cur (s : State) (r : Nat) (f : Req → Req) : State.cur (s.modReq r f) = s.cur := rfl
@[simp] theorem State.modReq_freeCtr (s : State) (r : Nat) (f : Req → Req) : State.freeCtr (s.modReq r f) = s.freeCtr := rfl
@[simp] theorem State.modReq_nextId (s : State) (r : Nat) (f : Req → Req) : State.nextId (s.modReq r f) = s.nextId := rfl
@[simp] theorem State.modReq_hostOut (s : State) (r : Nat) (f : Req → Req) : State.hostOut (s.modReq r f) = s.hostOut := rfl
@[simp] theorem State.modReq_regs (s : State) (r : Nat) (f : Req → Req) : State.regs (s.modReq r f) = s.regs := rfl
@[simp] theorem State.modReq_dbg (s : State) (r : Nat) (f : Req → Req) : State.dbg (s.modReq r f) = s.dbg := rfl
@[simp] theorem State.modReq_am (s : State) (r : Nat) (f : Req → Req) : State.am (s.modReq r f) = s.am := rfl
@[simp] theorem State.modReq_queues (s : State) (r : Nat) (f : Req → Req) : State.queues (s.modReq r f) = s.queues := rfl
@[simp] theorem State.modReq_lastQueue (s : State) (r : Nat) (f : Req → Req) : State.lastQueue (s.modReq r f) = s.lastQueue := rfl
@[simp] theorem State.modReq_lastGrant (s : State) (r : Nat) (f : Req → Req) : State.lastGrant (s.modReq r f) = s.lastGrant := rfl
@[simp] theorem State.modReq_refilled (s : State) (r : Nat) (f : Req → Req) : State.refilled (s.modReq r f) = s.refilled := rfl
@[simp] theorem State.modReq_packets (s : State) (r : Nat) (f : Req → Req) : State.packets (s.modReq r f) = s.packets := rfl
@[simp] theorem State.modReq_launches (s : State) (r : Nat) (f : Req → Req) : State.launches (s.modReq r f) = s.launches := rfl
@[simp] theorem State.modReq_hbm (s : State) (r : Nat) (f : Req → Req) : State.hbm (s.modReq r f) = s.hbm := rfl
@[simp] theorem State.modReq_sram (s : State) (r : Nat) (f : Req → Req) : State.sram (s.modReq r f) = s.sram := rfl
@[simp] theorem State.modReq_full (s : State) (r : Nat) (f : Req → Req) : State.full (s.modReq r f) = s.full := rfl
@[simp] theorem State.modReq_flash (s : State) (r : Nat) (f : Req → Req) : State.flash (s.modReq r f) = s.flash := rfl
@[simp] theorem State.modReq_lines (s : State) (r : Nat) (f : Req → Req) : State.lines (s.modReq r f) = s.lines := rfl
@[simp] theorem State.modReq_pend (s : State) (r : Nat) (f : Req → Req) : State.pend (s.modReq r f) = s.pend := rfl
@[simp] theorem State.modReq_ports (s : State) (r : Nat) (f : Req → Req) : State.ports (s.modReq r f) = s.ports := rfl
@[simp] theorem State.modReq_watched (s : State) (r : Nat) (f : Req → Req) : State.watched (s.modReq r f) = s.watched := rfl
@[simp] theorem State.modReq_relRecs (s : State) (r : Nat) (f : Req → Req) : State.relRecs (s.modReq r f) = s.relRecs := rfl
@[simp] theorem State.modReq_replicas (s : State) (r : Nat) (f : Req → Req) : State.replicas (s.modReq r f) = s.replicas := rfl
@[simp] theorem State.modReq_fetches (s : State) (r : Nat) (f : Req → Req) : State.fetches (s.modReq r f) = s.fetches := rfl
@[simp] theorem State.modReq_tiles (s : State) (r : Nat) (f : Req → Req) : State.tiles (s.modReq r f) = s.tiles := rfl
@[simp] theorem State.modReq_flights (s : State) (r : Nat) (f : Req → Req) : State.flights (s.modReq r f) = s.flights := rfl
@[simp] theorem State.modReq_served (s : State) (r : Nat) (f : Req → Req) : State.served (s.modReq r f) = s.served := rfl
@[simp] theorem State.modReq_faultToks (s : State) (r : Nat) (f : Req → Req) : State.faultToks (s.modReq r f) = s.faultToks := rfl
@[simp] theorem State.modReq_transfers (s : State) (r : Nat) (f : Req → Req) : State.transfers (s.modReq r f) = s.transfers := rfl
@[simp] theorem State.modReq_regions (s : State) (r : Nat) (f : Req → Req) : State.regions (s.modReq r f) = s.regions := rfl
@[simp] theorem State.modReq_versions (s : State) (r : Nat) (f : Req → Req) : State.versions (s.modReq r f) = s.versions := rfl
@[simp] theorem State.modReq_tasks (s : State) (r : Nat) (f : Req → Req) : State.tasks (s.modReq r f) = s.tasks := rfl
@[simp] theorem State.modReq_seq (s : State) (r : Nat) (f : Req → Req) : State.seq (s.modReq r f) = s.seq := rfl
@[simp] theorem State.modReq_maxTs (s : State) (r : Nat) (f : Req → Req) : State.maxTs (s.modReq r f) = s.maxTs := rfl
@[simp] theorem State.modReq_plans (s : State) (r : Nat) (f : Req → Req) : State.plans (s.modReq r f) = s.plans := rfl
@[simp] theorem State.modReq_library (s : State) (r : Nat) (f : Req → Req) : State.library (s.modReq r f) = s.library := rfl
@[simp] theorem State.modReq_solderBusy (s : State) (r : Nat) (f : Req → Req) : State.solderBusy (s.modReq r f) = s.solderBusy := rfl
@[simp] theorem State.modReq_motifs (s : State) (r : Nat) (f : Req → Req) : State.motifs (s.modReq r f) = s.motifs := rfl
@[simp] theorem State.modReq_motifIds (s : State) (r : Nat) (f : Req → Req) : State.motifIds (s.modReq r f) = s.motifIds := rfl
@[simp] theorem State.modReq_launchCtr (s : State) (r : Nat) (f : Req → Req) : State.launchCtr (s.modReq r f) = s.launchCtr := rfl
@[simp] theorem State.modReq_retiredIdx (s : State) (r : Nat) (f : Req → Req) : State.retiredIdx (s.modReq r f) = s.retiredIdx := rfl
@[simp] theorem State.modReq_reclaiming (s : State) (r : Nat) (f : Req → Req) : State.reclaiming (s.modReq r f) = s.reclaiming := rfl
@[simp] theorem State.modReq_short (s : State) (r : Nat) (f : Req → Req) : State.short (s.modReq r f) = s.short := rfl
@[simp] theorem State.modReq_dying (s : State) (r : Nat) (f : Req → Req) : State.dying (s.modReq r f) = s.dying := rfl
@[simp] theorem State.modReq_hnewWait (s : State) (r : Nat) (f : Req → Req) : State.hnewWait (s.modReq r f) = s.hnewWait := rfl
@[simp] theorem State.modReq_comms (s : State) (r : Nat) (f : Req → Req) : State.comms (s.modReq r f) = s.comms := rfl
@[simp] theorem State.modReq_tables (s : State) (r : Nat) (f : Req → Req) : State.tables (s.modReq r f) = s.tables := rfl
@[simp] theorem State.modReq_engines (s : State) (r : Nat) (f : Req → Req) : State.engines (s.modReq r f) = s.engines := rfl
@[simp] theorem State.modReq_switches (s : State) (r : Nat) (f : Req → Req) : State.switches (s.modReq r f) = s.switches := rfl

/-! ### `State.dropReq` drops one request -/

@[simp] theorem State.dropReq_cycle (s : State) (r : Nat) : State.cycle (s.dropReq r) = s.cycle := rfl
@[simp] theorem State.dropReq_time (s : State) (r : Nat) : State.time (s.dropReq r) = s.time := rfl
@[simp] theorem State.dropReq_epoch (s : State) (r : Nat) : State.epoch (s.dropReq r) = s.epoch := rfl
@[simp] theorem State.dropReq_agenda (s : State) (r : Nat) : State.agenda (s.dropReq r) = s.agenda := rfl
@[simp] theorem State.dropReq_scan (s : State) (r : Nat) : State.scan (s.dropReq r) = s.scan := rfl
@[simp] theorem State.dropReq_cur (s : State) (r : Nat) : State.cur (s.dropReq r) = s.cur := rfl
@[simp] theorem State.dropReq_freeCtr (s : State) (r : Nat) : State.freeCtr (s.dropReq r) = s.freeCtr := rfl
@[simp] theorem State.dropReq_nextId (s : State) (r : Nat) : State.nextId (s.dropReq r) = s.nextId := rfl
@[simp] theorem State.dropReq_hostOut (s : State) (r : Nat) : State.hostOut (s.dropReq r) = s.hostOut := rfl
@[simp] theorem State.dropReq_regs (s : State) (r : Nat) : State.regs (s.dropReq r) = s.regs := rfl
@[simp] theorem State.dropReq_dbg (s : State) (r : Nat) : State.dbg (s.dropReq r) = s.dbg := rfl
@[simp] theorem State.dropReq_am (s : State) (r : Nat) : State.am (s.dropReq r) = s.am := rfl
@[simp] theorem State.dropReq_queues (s : State) (r : Nat) : State.queues (s.dropReq r) = s.queues := rfl
@[simp] theorem State.dropReq_lastQueue (s : State) (r : Nat) : State.lastQueue (s.dropReq r) = s.lastQueue := rfl
@[simp] theorem State.dropReq_lastGrant (s : State) (r : Nat) : State.lastGrant (s.dropReq r) = s.lastGrant := rfl
@[simp] theorem State.dropReq_refilled (s : State) (r : Nat) : State.refilled (s.dropReq r) = s.refilled := rfl
@[simp] theorem State.dropReq_packets (s : State) (r : Nat) : State.packets (s.dropReq r) = s.packets := rfl
@[simp] theorem State.dropReq_launches (s : State) (r : Nat) : State.launches (s.dropReq r) = s.launches := rfl
@[simp] theorem State.dropReq_hbm (s : State) (r : Nat) : State.hbm (s.dropReq r) = s.hbm := rfl
@[simp] theorem State.dropReq_sram (s : State) (r : Nat) : State.sram (s.dropReq r) = s.sram := rfl
@[simp] theorem State.dropReq_full (s : State) (r : Nat) : State.full (s.dropReq r) = s.full := rfl
@[simp] theorem State.dropReq_flash (s : State) (r : Nat) : State.flash (s.dropReq r) = s.flash := rfl
@[simp] theorem State.dropReq_lines (s : State) (r : Nat) : State.lines (s.dropReq r) = s.lines := rfl
@[simp] theorem State.dropReq_pend (s : State) (r : Nat) : State.pend (s.dropReq r) = s.pend := rfl
@[simp] theorem State.dropReq_ports (s : State) (r : Nat) : State.ports (s.dropReq r) = s.ports := rfl
@[simp] theorem State.dropReq_watched (s : State) (r : Nat) : State.watched (s.dropReq r) = s.watched := rfl
@[simp] theorem State.dropReq_relRecs (s : State) (r : Nat) : State.relRecs (s.dropReq r) = s.relRecs := rfl
@[simp] theorem State.dropReq_replicas (s : State) (r : Nat) : State.replicas (s.dropReq r) = s.replicas := rfl
@[simp] theorem State.dropReq_fetches (s : State) (r : Nat) : State.fetches (s.dropReq r) = s.fetches := rfl
@[simp] theorem State.dropReq_tiles (s : State) (r : Nat) : State.tiles (s.dropReq r) = s.tiles := rfl
@[simp] theorem State.dropReq_flights (s : State) (r : Nat) : State.flights (s.dropReq r) = s.flights := rfl
@[simp] theorem State.dropReq_served (s : State) (r : Nat) : State.served (s.dropReq r) = s.served := rfl
@[simp] theorem State.dropReq_faultToks (s : State) (r : Nat) : State.faultToks (s.dropReq r) = s.faultToks := rfl
@[simp] theorem State.dropReq_transfers (s : State) (r : Nat) : State.transfers (s.dropReq r) = s.transfers := rfl
@[simp] theorem State.dropReq_regions (s : State) (r : Nat) : State.regions (s.dropReq r) = s.regions := rfl
@[simp] theorem State.dropReq_versions (s : State) (r : Nat) : State.versions (s.dropReq r) = s.versions := rfl
@[simp] theorem State.dropReq_tasks (s : State) (r : Nat) : State.tasks (s.dropReq r) = s.tasks := rfl
@[simp] theorem State.dropReq_seq (s : State) (r : Nat) : State.seq (s.dropReq r) = s.seq := rfl
@[simp] theorem State.dropReq_maxTs (s : State) (r : Nat) : State.maxTs (s.dropReq r) = s.maxTs := rfl
@[simp] theorem State.dropReq_plans (s : State) (r : Nat) : State.plans (s.dropReq r) = s.plans := rfl
@[simp] theorem State.dropReq_library (s : State) (r : Nat) : State.library (s.dropReq r) = s.library := rfl
@[simp] theorem State.dropReq_solderBusy (s : State) (r : Nat) : State.solderBusy (s.dropReq r) = s.solderBusy := rfl
@[simp] theorem State.dropReq_motifs (s : State) (r : Nat) : State.motifs (s.dropReq r) = s.motifs := rfl
@[simp] theorem State.dropReq_motifIds (s : State) (r : Nat) : State.motifIds (s.dropReq r) = s.motifIds := rfl
@[simp] theorem State.dropReq_launchCtr (s : State) (r : Nat) : State.launchCtr (s.dropReq r) = s.launchCtr := rfl
@[simp] theorem State.dropReq_retiredIdx (s : State) (r : Nat) : State.retiredIdx (s.dropReq r) = s.retiredIdx := rfl
@[simp] theorem State.dropReq_reclaiming (s : State) (r : Nat) : State.reclaiming (s.dropReq r) = s.reclaiming := rfl
@[simp] theorem State.dropReq_short (s : State) (r : Nat) : State.short (s.dropReq r) = s.short := rfl
@[simp] theorem State.dropReq_dying (s : State) (r : Nat) : State.dying (s.dropReq r) = s.dying := rfl
@[simp] theorem State.dropReq_hnewWait (s : State) (r : Nat) : State.hnewWait (s.dropReq r) = s.hnewWait := rfl
@[simp] theorem State.dropReq_comms (s : State) (r : Nat) : State.comms (s.dropReq r) = s.comms := rfl
@[simp] theorem State.dropReq_tables (s : State) (r : Nat) : State.tables (s.dropReq r) = s.tables := rfl
@[simp] theorem State.dropReq_engines (s : State) (r : Nat) : State.engines (s.dropReq r) = s.engines := rfl
@[simp] theorem State.dropReq_switches (s : State) (r : Nat) : State.switches (s.dropReq r) = s.switches := rfl

/-! ### `State.modPort` changes one port tile -/

@[simp] theorem State.modPort_cycle (s : State) (n : Nat) (f : PortTile → PortTile) : State.cycle (s.modPort n f) = s.cycle := rfl
@[simp] theorem State.modPort_time (s : State) (n : Nat) (f : PortTile → PortTile) : State.time (s.modPort n f) = s.time := rfl
@[simp] theorem State.modPort_epoch (s : State) (n : Nat) (f : PortTile → PortTile) : State.epoch (s.modPort n f) = s.epoch := rfl
@[simp] theorem State.modPort_agenda (s : State) (n : Nat) (f : PortTile → PortTile) : State.agenda (s.modPort n f) = s.agenda := rfl
@[simp] theorem State.modPort_scan (s : State) (n : Nat) (f : PortTile → PortTile) : State.scan (s.modPort n f) = s.scan := rfl
@[simp] theorem State.modPort_cur (s : State) (n : Nat) (f : PortTile → PortTile) : State.cur (s.modPort n f) = s.cur := rfl
@[simp] theorem State.modPort_freeCtr (s : State) (n : Nat) (f : PortTile → PortTile) : State.freeCtr (s.modPort n f) = s.freeCtr := rfl
@[simp] theorem State.modPort_nextId (s : State) (n : Nat) (f : PortTile → PortTile) : State.nextId (s.modPort n f) = s.nextId := rfl
@[simp] theorem State.modPort_hostOut (s : State) (n : Nat) (f : PortTile → PortTile) : State.hostOut (s.modPort n f) = s.hostOut := rfl
@[simp] theorem State.modPort_regs (s : State) (n : Nat) (f : PortTile → PortTile) : State.regs (s.modPort n f) = s.regs := rfl
@[simp] theorem State.modPort_dbg (s : State) (n : Nat) (f : PortTile → PortTile) : State.dbg (s.modPort n f) = s.dbg := rfl
@[simp] theorem State.modPort_am (s : State) (n : Nat) (f : PortTile → PortTile) : State.am (s.modPort n f) = s.am := rfl
@[simp] theorem State.modPort_queues (s : State) (n : Nat) (f : PortTile → PortTile) : State.queues (s.modPort n f) = s.queues := rfl
@[simp] theorem State.modPort_lastQueue (s : State) (n : Nat) (f : PortTile → PortTile) : State.lastQueue (s.modPort n f) = s.lastQueue := rfl
@[simp] theorem State.modPort_lastGrant (s : State) (n : Nat) (f : PortTile → PortTile) : State.lastGrant (s.modPort n f) = s.lastGrant := rfl
@[simp] theorem State.modPort_refilled (s : State) (n : Nat) (f : PortTile → PortTile) : State.refilled (s.modPort n f) = s.refilled := rfl
@[simp] theorem State.modPort_packets (s : State) (n : Nat) (f : PortTile → PortTile) : State.packets (s.modPort n f) = s.packets := rfl
@[simp] theorem State.modPort_launches (s : State) (n : Nat) (f : PortTile → PortTile) : State.launches (s.modPort n f) = s.launches := rfl
@[simp] theorem State.modPort_hbm (s : State) (n : Nat) (f : PortTile → PortTile) : State.hbm (s.modPort n f) = s.hbm := rfl
@[simp] theorem State.modPort_sram (s : State) (n : Nat) (f : PortTile → PortTile) : State.sram (s.modPort n f) = s.sram := rfl
@[simp] theorem State.modPort_full (s : State) (n : Nat) (f : PortTile → PortTile) : State.full (s.modPort n f) = s.full := rfl
@[simp] theorem State.modPort_flash (s : State) (n : Nat) (f : PortTile → PortTile) : State.flash (s.modPort n f) = s.flash := rfl
@[simp] theorem State.modPort_lines (s : State) (n : Nat) (f : PortTile → PortTile) : State.lines (s.modPort n f) = s.lines := rfl
@[simp] theorem State.modPort_pend (s : State) (n : Nat) (f : PortTile → PortTile) : State.pend (s.modPort n f) = s.pend := rfl
@[simp] theorem State.modPort_watched (s : State) (n : Nat) (f : PortTile → PortTile) : State.watched (s.modPort n f) = s.watched := rfl
@[simp] theorem State.modPort_relRecs (s : State) (n : Nat) (f : PortTile → PortTile) : State.relRecs (s.modPort n f) = s.relRecs := rfl
@[simp] theorem State.modPort_replicas (s : State) (n : Nat) (f : PortTile → PortTile) : State.replicas (s.modPort n f) = s.replicas := rfl
@[simp] theorem State.modPort_fetches (s : State) (n : Nat) (f : PortTile → PortTile) : State.fetches (s.modPort n f) = s.fetches := rfl
@[simp] theorem State.modPort_tiles (s : State) (n : Nat) (f : PortTile → PortTile) : State.tiles (s.modPort n f) = s.tiles := rfl
@[simp] theorem State.modPort_flights (s : State) (n : Nat) (f : PortTile → PortTile) : State.flights (s.modPort n f) = s.flights := rfl
@[simp] theorem State.modPort_served (s : State) (n : Nat) (f : PortTile → PortTile) : State.served (s.modPort n f) = s.served := rfl
@[simp] theorem State.modPort_reqs (s : State) (n : Nat) (f : PortTile → PortTile) : State.reqs (s.modPort n f) = s.reqs := rfl
@[simp] theorem State.modPort_faultToks (s : State) (n : Nat) (f : PortTile → PortTile) : State.faultToks (s.modPort n f) = s.faultToks := rfl
@[simp] theorem State.modPort_transfers (s : State) (n : Nat) (f : PortTile → PortTile) : State.transfers (s.modPort n f) = s.transfers := rfl
@[simp] theorem State.modPort_regions (s : State) (n : Nat) (f : PortTile → PortTile) : State.regions (s.modPort n f) = s.regions := rfl
@[simp] theorem State.modPort_versions (s : State) (n : Nat) (f : PortTile → PortTile) : State.versions (s.modPort n f) = s.versions := rfl
@[simp] theorem State.modPort_tasks (s : State) (n : Nat) (f : PortTile → PortTile) : State.tasks (s.modPort n f) = s.tasks := rfl
@[simp] theorem State.modPort_seq (s : State) (n : Nat) (f : PortTile → PortTile) : State.seq (s.modPort n f) = s.seq := rfl
@[simp] theorem State.modPort_maxTs (s : State) (n : Nat) (f : PortTile → PortTile) : State.maxTs (s.modPort n f) = s.maxTs := rfl
@[simp] theorem State.modPort_plans (s : State) (n : Nat) (f : PortTile → PortTile) : State.plans (s.modPort n f) = s.plans := rfl
@[simp] theorem State.modPort_library (s : State) (n : Nat) (f : PortTile → PortTile) : State.library (s.modPort n f) = s.library := rfl
@[simp] theorem State.modPort_solderBusy (s : State) (n : Nat) (f : PortTile → PortTile) : State.solderBusy (s.modPort n f) = s.solderBusy := rfl
@[simp] theorem State.modPort_motifs (s : State) (n : Nat) (f : PortTile → PortTile) : State.motifs (s.modPort n f) = s.motifs := rfl
@[simp] theorem State.modPort_motifIds (s : State) (n : Nat) (f : PortTile → PortTile) : State.motifIds (s.modPort n f) = s.motifIds := rfl
@[simp] theorem State.modPort_launchCtr (s : State) (n : Nat) (f : PortTile → PortTile) : State.launchCtr (s.modPort n f) = s.launchCtr := rfl
@[simp] theorem State.modPort_retiredIdx (s : State) (n : Nat) (f : PortTile → PortTile) : State.retiredIdx (s.modPort n f) = s.retiredIdx := rfl
@[simp] theorem State.modPort_reclaiming (s : State) (n : Nat) (f : PortTile → PortTile) : State.reclaiming (s.modPort n f) = s.reclaiming := rfl
@[simp] theorem State.modPort_short (s : State) (n : Nat) (f : PortTile → PortTile) : State.short (s.modPort n f) = s.short := rfl
@[simp] theorem State.modPort_dying (s : State) (n : Nat) (f : PortTile → PortTile) : State.dying (s.modPort n f) = s.dying := rfl
@[simp] theorem State.modPort_hnewWait (s : State) (n : Nat) (f : PortTile → PortTile) : State.hnewWait (s.modPort n f) = s.hnewWait := rfl
@[simp] theorem State.modPort_comms (s : State) (n : Nat) (f : PortTile → PortTile) : State.comms (s.modPort n f) = s.comms := rfl
@[simp] theorem State.modPort_tables (s : State) (n : Nat) (f : PortTile → PortTile) : State.tables (s.modPort n f) = s.tables := rfl
@[simp] theorem State.modPort_engines (s : State) (n : Nat) (f : PortTile → PortTile) : State.engines (s.modPort n f) = s.engines := rfl
@[simp] theorem State.modPort_switches (s : State) (n : Nat) (f : PortTile → PortTile) : State.switches (s.modPort n f) = s.switches := rfl

/-! ### `State.usePort` gives an access of a port tile -/

@[simp] theorem State.usePort_cycle (s : State) (n c : Nat) (w : Option Nat) : State.cycle (s.usePort n c w) = s.cycle := rfl
@[simp] theorem State.usePort_time (s : State) (n c : Nat) (w : Option Nat) : State.time (s.usePort n c w) = s.time := rfl
@[simp] theorem State.usePort_epoch (s : State) (n c : Nat) (w : Option Nat) : State.epoch (s.usePort n c w) = s.epoch := rfl
@[simp] theorem State.usePort_agenda (s : State) (n c : Nat) (w : Option Nat) : State.agenda (s.usePort n c w) = s.agenda := rfl
@[simp] theorem State.usePort_scan (s : State) (n c : Nat) (w : Option Nat) : State.scan (s.usePort n c w) = s.scan := rfl
@[simp] theorem State.usePort_cur (s : State) (n c : Nat) (w : Option Nat) : State.cur (s.usePort n c w) = s.cur := rfl
@[simp] theorem State.usePort_freeCtr (s : State) (n c : Nat) (w : Option Nat) : State.freeCtr (s.usePort n c w) = s.freeCtr := rfl
@[simp] theorem State.usePort_nextId (s : State) (n c : Nat) (w : Option Nat) : State.nextId (s.usePort n c w) = s.nextId := rfl
@[simp] theorem State.usePort_hostOut (s : State) (n c : Nat) (w : Option Nat) : State.hostOut (s.usePort n c w) = s.hostOut := rfl
@[simp] theorem State.usePort_regs (s : State) (n c : Nat) (w : Option Nat) : State.regs (s.usePort n c w) = s.regs := rfl
@[simp] theorem State.usePort_dbg (s : State) (n c : Nat) (w : Option Nat) : State.dbg (s.usePort n c w) = s.dbg := rfl
@[simp] theorem State.usePort_am (s : State) (n c : Nat) (w : Option Nat) : State.am (s.usePort n c w) = s.am := rfl
@[simp] theorem State.usePort_queues (s : State) (n c : Nat) (w : Option Nat) : State.queues (s.usePort n c w) = s.queues := rfl
@[simp] theorem State.usePort_lastQueue (s : State) (n c : Nat) (w : Option Nat) : State.lastQueue (s.usePort n c w) = s.lastQueue := rfl
@[simp] theorem State.usePort_lastGrant (s : State) (n c : Nat) (w : Option Nat) : State.lastGrant (s.usePort n c w) = s.lastGrant := rfl
@[simp] theorem State.usePort_refilled (s : State) (n c : Nat) (w : Option Nat) : State.refilled (s.usePort n c w) = s.refilled := rfl
@[simp] theorem State.usePort_packets (s : State) (n c : Nat) (w : Option Nat) : State.packets (s.usePort n c w) = s.packets := rfl
@[simp] theorem State.usePort_launches (s : State) (n c : Nat) (w : Option Nat) : State.launches (s.usePort n c w) = s.launches := rfl
@[simp] theorem State.usePort_hbm (s : State) (n c : Nat) (w : Option Nat) : State.hbm (s.usePort n c w) = s.hbm := rfl
@[simp] theorem State.usePort_sram (s : State) (n c : Nat) (w : Option Nat) : State.sram (s.usePort n c w) = s.sram := rfl
@[simp] theorem State.usePort_full (s : State) (n c : Nat) (w : Option Nat) : State.full (s.usePort n c w) = s.full := rfl
@[simp] theorem State.usePort_flash (s : State) (n c : Nat) (w : Option Nat) : State.flash (s.usePort n c w) = s.flash := rfl
@[simp] theorem State.usePort_lines (s : State) (n c : Nat) (w : Option Nat) : State.lines (s.usePort n c w) = s.lines := rfl
@[simp] theorem State.usePort_pend (s : State) (n c : Nat) (w : Option Nat) : State.pend (s.usePort n c w) = s.pend := rfl
@[simp] theorem State.usePort_watched (s : State) (n c : Nat) (w : Option Nat) : State.watched (s.usePort n c w) = s.watched := rfl
@[simp] theorem State.usePort_relRecs (s : State) (n c : Nat) (w : Option Nat) : State.relRecs (s.usePort n c w) = s.relRecs := rfl
@[simp] theorem State.usePort_replicas (s : State) (n c : Nat) (w : Option Nat) : State.replicas (s.usePort n c w) = s.replicas := rfl
@[simp] theorem State.usePort_fetches (s : State) (n c : Nat) (w : Option Nat) : State.fetches (s.usePort n c w) = s.fetches := rfl
@[simp] theorem State.usePort_tiles (s : State) (n c : Nat) (w : Option Nat) : State.tiles (s.usePort n c w) = s.tiles := rfl
@[simp] theorem State.usePort_flights (s : State) (n c : Nat) (w : Option Nat) : State.flights (s.usePort n c w) = s.flights := rfl
@[simp] theorem State.usePort_served (s : State) (n c : Nat) (w : Option Nat) : State.served (s.usePort n c w) = s.served := rfl
@[simp] theorem State.usePort_reqs (s : State) (n c : Nat) (w : Option Nat) : State.reqs (s.usePort n c w) = s.reqs := rfl
@[simp] theorem State.usePort_faultToks (s : State) (n c : Nat) (w : Option Nat) : State.faultToks (s.usePort n c w) = s.faultToks := rfl
@[simp] theorem State.usePort_transfers (s : State) (n c : Nat) (w : Option Nat) : State.transfers (s.usePort n c w) = s.transfers := rfl
@[simp] theorem State.usePort_regions (s : State) (n c : Nat) (w : Option Nat) : State.regions (s.usePort n c w) = s.regions := rfl
@[simp] theorem State.usePort_versions (s : State) (n c : Nat) (w : Option Nat) : State.versions (s.usePort n c w) = s.versions := rfl
@[simp] theorem State.usePort_tasks (s : State) (n c : Nat) (w : Option Nat) : State.tasks (s.usePort n c w) = s.tasks := rfl
@[simp] theorem State.usePort_seq (s : State) (n c : Nat) (w : Option Nat) : State.seq (s.usePort n c w) = s.seq := rfl
@[simp] theorem State.usePort_maxTs (s : State) (n c : Nat) (w : Option Nat) : State.maxTs (s.usePort n c w) = s.maxTs := rfl
@[simp] theorem State.usePort_plans (s : State) (n c : Nat) (w : Option Nat) : State.plans (s.usePort n c w) = s.plans := rfl
@[simp] theorem State.usePort_library (s : State) (n c : Nat) (w : Option Nat) : State.library (s.usePort n c w) = s.library := rfl
@[simp] theorem State.usePort_solderBusy (s : State) (n c : Nat) (w : Option Nat) : State.solderBusy (s.usePort n c w) = s.solderBusy := rfl
@[simp] theorem State.usePort_motifs (s : State) (n c : Nat) (w : Option Nat) : State.motifs (s.usePort n c w) = s.motifs := rfl
@[simp] theorem State.usePort_motifIds (s : State) (n c : Nat) (w : Option Nat) : State.motifIds (s.usePort n c w) = s.motifIds := rfl
@[simp] theorem State.usePort_launchCtr (s : State) (n c : Nat) (w : Option Nat) : State.launchCtr (s.usePort n c w) = s.launchCtr := rfl
@[simp] theorem State.usePort_retiredIdx (s : State) (n c : Nat) (w : Option Nat) : State.retiredIdx (s.usePort n c w) = s.retiredIdx := rfl
@[simp] theorem State.usePort_reclaiming (s : State) (n c : Nat) (w : Option Nat) : State.reclaiming (s.usePort n c w) = s.reclaiming := rfl
@[simp] theorem State.usePort_short (s : State) (n c : Nat) (w : Option Nat) : State.short (s.usePort n c w) = s.short := rfl
@[simp] theorem State.usePort_dying (s : State) (n c : Nat) (w : Option Nat) : State.dying (s.usePort n c w) = s.dying := rfl
@[simp] theorem State.usePort_hnewWait (s : State) (n c : Nat) (w : Option Nat) : State.hnewWait (s.usePort n c w) = s.hnewWait := rfl
@[simp] theorem State.usePort_comms (s : State) (n c : Nat) (w : Option Nat) : State.comms (s.usePort n c w) = s.comms := rfl
@[simp] theorem State.usePort_tables (s : State) (n c : Nat) (w : Option Nat) : State.tables (s.usePort n c w) = s.tables := rfl
@[simp] theorem State.usePort_engines (s : State) (n c : Nat) (w : Option Nat) : State.engines (s.usePort n c w) = s.engines := rfl
@[simp] theorem State.usePort_switches (s : State) (n c : Nat) (w : Option Nat) : State.switches (s.usePort n c w) = s.switches := rfl

/-! ### `State.tick` advances the free values -/

@[simp] theorem State.tick_cycle (s : State) : State.cycle (s.tick) = s.cycle := rfl
@[simp] theorem State.tick_time (s : State) : State.time (s.tick) = s.time := rfl
@[simp] theorem State.tick_epoch (s : State) : State.epoch (s.tick) = s.epoch := rfl
@[simp] theorem State.tick_agenda (s : State) : State.agenda (s.tick) = s.agenda := rfl
@[simp] theorem State.tick_scan (s : State) : State.scan (s.tick) = s.scan := rfl
@[simp] theorem State.tick_cur (s : State) : State.cur (s.tick) = s.cur := rfl
@[simp] theorem State.tick_nextId (s : State) : State.nextId (s.tick) = s.nextId := rfl
@[simp] theorem State.tick_hostOut (s : State) : State.hostOut (s.tick) = s.hostOut := rfl
@[simp] theorem State.tick_regs (s : State) : State.regs (s.tick) = s.regs := rfl
@[simp] theorem State.tick_dbg (s : State) : State.dbg (s.tick) = s.dbg := rfl
@[simp] theorem State.tick_am (s : State) : State.am (s.tick) = s.am := rfl
@[simp] theorem State.tick_queues (s : State) : State.queues (s.tick) = s.queues := rfl
@[simp] theorem State.tick_lastQueue (s : State) : State.lastQueue (s.tick) = s.lastQueue := rfl
@[simp] theorem State.tick_lastGrant (s : State) : State.lastGrant (s.tick) = s.lastGrant := rfl
@[simp] theorem State.tick_refilled (s : State) : State.refilled (s.tick) = s.refilled := rfl
@[simp] theorem State.tick_packets (s : State) : State.packets (s.tick) = s.packets := rfl
@[simp] theorem State.tick_launches (s : State) : State.launches (s.tick) = s.launches := rfl
@[simp] theorem State.tick_hbm (s : State) : State.hbm (s.tick) = s.hbm := rfl
@[simp] theorem State.tick_sram (s : State) : State.sram (s.tick) = s.sram := rfl
@[simp] theorem State.tick_full (s : State) : State.full (s.tick) = s.full := rfl
@[simp] theorem State.tick_flash (s : State) : State.flash (s.tick) = s.flash := rfl
@[simp] theorem State.tick_lines (s : State) : State.lines (s.tick) = s.lines := rfl
@[simp] theorem State.tick_pend (s : State) : State.pend (s.tick) = s.pend := rfl
@[simp] theorem State.tick_ports (s : State) : State.ports (s.tick) = s.ports := rfl
@[simp] theorem State.tick_watched (s : State) : State.watched (s.tick) = s.watched := rfl
@[simp] theorem State.tick_relRecs (s : State) : State.relRecs (s.tick) = s.relRecs := rfl
@[simp] theorem State.tick_replicas (s : State) : State.replicas (s.tick) = s.replicas := rfl
@[simp] theorem State.tick_fetches (s : State) : State.fetches (s.tick) = s.fetches := rfl
@[simp] theorem State.tick_tiles (s : State) : State.tiles (s.tick) = s.tiles := rfl
@[simp] theorem State.tick_flights (s : State) : State.flights (s.tick) = s.flights := rfl
@[simp] theorem State.tick_served (s : State) : State.served (s.tick) = s.served := rfl
@[simp] theorem State.tick_reqs (s : State) : State.reqs (s.tick) = s.reqs := rfl
@[simp] theorem State.tick_faultToks (s : State) : State.faultToks (s.tick) = s.faultToks := rfl
@[simp] theorem State.tick_transfers (s : State) : State.transfers (s.tick) = s.transfers := rfl
@[simp] theorem State.tick_regions (s : State) : State.regions (s.tick) = s.regions := rfl
@[simp] theorem State.tick_versions (s : State) : State.versions (s.tick) = s.versions := rfl
@[simp] theorem State.tick_tasks (s : State) : State.tasks (s.tick) = s.tasks := rfl
@[simp] theorem State.tick_seq (s : State) : State.seq (s.tick) = s.seq := rfl
@[simp] theorem State.tick_maxTs (s : State) : State.maxTs (s.tick) = s.maxTs := rfl
@[simp] theorem State.tick_plans (s : State) : State.plans (s.tick) = s.plans := rfl
@[simp] theorem State.tick_library (s : State) : State.library (s.tick) = s.library := rfl
@[simp] theorem State.tick_solderBusy (s : State) : State.solderBusy (s.tick) = s.solderBusy := rfl
@[simp] theorem State.tick_motifs (s : State) : State.motifs (s.tick) = s.motifs := rfl
@[simp] theorem State.tick_motifIds (s : State) : State.motifIds (s.tick) = s.motifIds := rfl
@[simp] theorem State.tick_launchCtr (s : State) : State.launchCtr (s.tick) = s.launchCtr := rfl
@[simp] theorem State.tick_retiredIdx (s : State) : State.retiredIdx (s.tick) = s.retiredIdx := rfl
@[simp] theorem State.tick_reclaiming (s : State) : State.reclaiming (s.tick) = s.reclaiming := rfl
@[simp] theorem State.tick_short (s : State) : State.short (s.tick) = s.short := rfl
@[simp] theorem State.tick_dying (s : State) : State.dying (s.tick) = s.dying := rfl
@[simp] theorem State.tick_hnewWait (s : State) : State.hnewWait (s.tick) = s.hnewWait := rfl
@[simp] theorem State.tick_comms (s : State) : State.comms (s.tick) = s.comms := rfl
@[simp] theorem State.tick_tables (s : State) : State.tables (s.tick) = s.tables := rfl
@[simp] theorem State.tick_engines (s : State) : State.engines (s.tick) = s.engines := rfl
@[simp] theorem State.tick_switches (s : State) : State.switches (s.tick) = s.switches := rfl

/-! ### `State.fresh` advances the names -/

@[simp] theorem State.fresh_cycle (s : State) : State.cycle (s.fresh) = s.cycle := rfl
@[simp] theorem State.fresh_time (s : State) : State.time (s.fresh) = s.time := rfl
@[simp] theorem State.fresh_epoch (s : State) : State.epoch (s.fresh) = s.epoch := rfl
@[simp] theorem State.fresh_agenda (s : State) : State.agenda (s.fresh) = s.agenda := rfl
@[simp] theorem State.fresh_scan (s : State) : State.scan (s.fresh) = s.scan := rfl
@[simp] theorem State.fresh_cur (s : State) : State.cur (s.fresh) = s.cur := rfl
@[simp] theorem State.fresh_freeCtr (s : State) : State.freeCtr (s.fresh) = s.freeCtr := rfl
@[simp] theorem State.fresh_hostOut (s : State) : State.hostOut (s.fresh) = s.hostOut := rfl
@[simp] theorem State.fresh_regs (s : State) : State.regs (s.fresh) = s.regs := rfl
@[simp] theorem State.fresh_dbg (s : State) : State.dbg (s.fresh) = s.dbg := rfl
@[simp] theorem State.fresh_am (s : State) : State.am (s.fresh) = s.am := rfl
@[simp] theorem State.fresh_queues (s : State) : State.queues (s.fresh) = s.queues := rfl
@[simp] theorem State.fresh_lastQueue (s : State) : State.lastQueue (s.fresh) = s.lastQueue := rfl
@[simp] theorem State.fresh_lastGrant (s : State) : State.lastGrant (s.fresh) = s.lastGrant := rfl
@[simp] theorem State.fresh_refilled (s : State) : State.refilled (s.fresh) = s.refilled := rfl
@[simp] theorem State.fresh_packets (s : State) : State.packets (s.fresh) = s.packets := rfl
@[simp] theorem State.fresh_launches (s : State) : State.launches (s.fresh) = s.launches := rfl
@[simp] theorem State.fresh_hbm (s : State) : State.hbm (s.fresh) = s.hbm := rfl
@[simp] theorem State.fresh_sram (s : State) : State.sram (s.fresh) = s.sram := rfl
@[simp] theorem State.fresh_full (s : State) : State.full (s.fresh) = s.full := rfl
@[simp] theorem State.fresh_flash (s : State) : State.flash (s.fresh) = s.flash := rfl
@[simp] theorem State.fresh_lines (s : State) : State.lines (s.fresh) = s.lines := rfl
@[simp] theorem State.fresh_pend (s : State) : State.pend (s.fresh) = s.pend := rfl
@[simp] theorem State.fresh_ports (s : State) : State.ports (s.fresh) = s.ports := rfl
@[simp] theorem State.fresh_watched (s : State) : State.watched (s.fresh) = s.watched := rfl
@[simp] theorem State.fresh_relRecs (s : State) : State.relRecs (s.fresh) = s.relRecs := rfl
@[simp] theorem State.fresh_replicas (s : State) : State.replicas (s.fresh) = s.replicas := rfl
@[simp] theorem State.fresh_fetches (s : State) : State.fetches (s.fresh) = s.fetches := rfl
@[simp] theorem State.fresh_tiles (s : State) : State.tiles (s.fresh) = s.tiles := rfl
@[simp] theorem State.fresh_flights (s : State) : State.flights (s.fresh) = s.flights := rfl
@[simp] theorem State.fresh_served (s : State) : State.served (s.fresh) = s.served := rfl
@[simp] theorem State.fresh_reqs (s : State) : State.reqs (s.fresh) = s.reqs := rfl
@[simp] theorem State.fresh_faultToks (s : State) : State.faultToks (s.fresh) = s.faultToks := rfl
@[simp] theorem State.fresh_transfers (s : State) : State.transfers (s.fresh) = s.transfers := rfl
@[simp] theorem State.fresh_regions (s : State) : State.regions (s.fresh) = s.regions := rfl
@[simp] theorem State.fresh_versions (s : State) : State.versions (s.fresh) = s.versions := rfl
@[simp] theorem State.fresh_tasks (s : State) : State.tasks (s.fresh) = s.tasks := rfl
@[simp] theorem State.fresh_seq (s : State) : State.seq (s.fresh) = s.seq := rfl
@[simp] theorem State.fresh_maxTs (s : State) : State.maxTs (s.fresh) = s.maxTs := rfl
@[simp] theorem State.fresh_plans (s : State) : State.plans (s.fresh) = s.plans := rfl
@[simp] theorem State.fresh_library (s : State) : State.library (s.fresh) = s.library := rfl
@[simp] theorem State.fresh_solderBusy (s : State) : State.solderBusy (s.fresh) = s.solderBusy := rfl
@[simp] theorem State.fresh_motifs (s : State) : State.motifs (s.fresh) = s.motifs := rfl
@[simp] theorem State.fresh_motifIds (s : State) : State.motifIds (s.fresh) = s.motifIds := rfl
@[simp] theorem State.fresh_launchCtr (s : State) : State.launchCtr (s.fresh) = s.launchCtr := rfl
@[simp] theorem State.fresh_retiredIdx (s : State) : State.retiredIdx (s.fresh) = s.retiredIdx := rfl
@[simp] theorem State.fresh_reclaiming (s : State) : State.reclaiming (s.fresh) = s.reclaiming := rfl
@[simp] theorem State.fresh_short (s : State) : State.short (s.fresh) = s.short := rfl
@[simp] theorem State.fresh_dying (s : State) : State.dying (s.fresh) = s.dying := rfl
@[simp] theorem State.fresh_hnewWait (s : State) : State.hnewWait (s.fresh) = s.hnewWait := rfl
@[simp] theorem State.fresh_comms (s : State) : State.comms (s.fresh) = s.comms := rfl
@[simp] theorem State.fresh_tables (s : State) : State.tables (s.fresh) = s.tables := rfl
@[simp] theorem State.fresh_engines (s : State) : State.engines (s.fresh) = s.engines := rfl
@[simp] theorem State.fresh_switches (s : State) : State.switches (s.fresh) = s.switches := rfl

/-! ### `State.at` adds an event to the agenda -/

@[simp] theorem State.at_cycle (s : State) (c : Nat) (i : Instr) : State.cycle (s.at c i) = s.cycle := rfl
@[simp] theorem State.at_time (s : State) (c : Nat) (i : Instr) : State.time (s.at c i) = s.time := rfl
@[simp] theorem State.at_epoch (s : State) (c : Nat) (i : Instr) : State.epoch (s.at c i) = s.epoch := rfl
@[simp] theorem State.at_scan (s : State) (c : Nat) (i : Instr) : State.scan (s.at c i) = s.scan := rfl
@[simp] theorem State.at_cur (s : State) (c : Nat) (i : Instr) : State.cur (s.at c i) = s.cur := rfl
@[simp] theorem State.at_freeCtr (s : State) (c : Nat) (i : Instr) : State.freeCtr (s.at c i) = s.freeCtr := rfl
@[simp] theorem State.at_nextId (s : State) (c : Nat) (i : Instr) : State.nextId (s.at c i) = s.nextId := rfl
@[simp] theorem State.at_hostOut (s : State) (c : Nat) (i : Instr) : State.hostOut (s.at c i) = s.hostOut := rfl
@[simp] theorem State.at_regs (s : State) (c : Nat) (i : Instr) : State.regs (s.at c i) = s.regs := rfl
@[simp] theorem State.at_dbg (s : State) (c : Nat) (i : Instr) : State.dbg (s.at c i) = s.dbg := rfl
@[simp] theorem State.at_am (s : State) (c : Nat) (i : Instr) : State.am (s.at c i) = s.am := rfl
@[simp] theorem State.at_queues (s : State) (c : Nat) (i : Instr) : State.queues (s.at c i) = s.queues := rfl
@[simp] theorem State.at_lastQueue (s : State) (c : Nat) (i : Instr) : State.lastQueue (s.at c i) = s.lastQueue := rfl
@[simp] theorem State.at_lastGrant (s : State) (c : Nat) (i : Instr) : State.lastGrant (s.at c i) = s.lastGrant := rfl
@[simp] theorem State.at_refilled (s : State) (c : Nat) (i : Instr) : State.refilled (s.at c i) = s.refilled := rfl
@[simp] theorem State.at_packets (s : State) (c : Nat) (i : Instr) : State.packets (s.at c i) = s.packets := rfl
@[simp] theorem State.at_launches (s : State) (c : Nat) (i : Instr) : State.launches (s.at c i) = s.launches := rfl
@[simp] theorem State.at_hbm (s : State) (c : Nat) (i : Instr) : State.hbm (s.at c i) = s.hbm := rfl
@[simp] theorem State.at_sram (s : State) (c : Nat) (i : Instr) : State.sram (s.at c i) = s.sram := rfl
@[simp] theorem State.at_full (s : State) (c : Nat) (i : Instr) : State.full (s.at c i) = s.full := rfl
@[simp] theorem State.at_flash (s : State) (c : Nat) (i : Instr) : State.flash (s.at c i) = s.flash := rfl
@[simp] theorem State.at_lines (s : State) (c : Nat) (i : Instr) : State.lines (s.at c i) = s.lines := rfl
@[simp] theorem State.at_pend (s : State) (c : Nat) (i : Instr) : State.pend (s.at c i) = s.pend := rfl
@[simp] theorem State.at_ports (s : State) (c : Nat) (i : Instr) : State.ports (s.at c i) = s.ports := rfl
@[simp] theorem State.at_watched (s : State) (c : Nat) (i : Instr) : State.watched (s.at c i) = s.watched := rfl
@[simp] theorem State.at_relRecs (s : State) (c : Nat) (i : Instr) : State.relRecs (s.at c i) = s.relRecs := rfl
@[simp] theorem State.at_replicas (s : State) (c : Nat) (i : Instr) : State.replicas (s.at c i) = s.replicas := rfl
@[simp] theorem State.at_fetches (s : State) (c : Nat) (i : Instr) : State.fetches (s.at c i) = s.fetches := rfl
@[simp] theorem State.at_tiles (s : State) (c : Nat) (i : Instr) : State.tiles (s.at c i) = s.tiles := rfl
@[simp] theorem State.at_flights (s : State) (c : Nat) (i : Instr) : State.flights (s.at c i) = s.flights := rfl
@[simp] theorem State.at_served (s : State) (c : Nat) (i : Instr) : State.served (s.at c i) = s.served := rfl
@[simp] theorem State.at_reqs (s : State) (c : Nat) (i : Instr) : State.reqs (s.at c i) = s.reqs := rfl
@[simp] theorem State.at_faultToks (s : State) (c : Nat) (i : Instr) : State.faultToks (s.at c i) = s.faultToks := rfl
@[simp] theorem State.at_transfers (s : State) (c : Nat) (i : Instr) : State.transfers (s.at c i) = s.transfers := rfl
@[simp] theorem State.at_regions (s : State) (c : Nat) (i : Instr) : State.regions (s.at c i) = s.regions := rfl
@[simp] theorem State.at_versions (s : State) (c : Nat) (i : Instr) : State.versions (s.at c i) = s.versions := rfl
@[simp] theorem State.at_tasks (s : State) (c : Nat) (i : Instr) : State.tasks (s.at c i) = s.tasks := rfl
@[simp] theorem State.at_seq (s : State) (c : Nat) (i : Instr) : State.seq (s.at c i) = s.seq := rfl
@[simp] theorem State.at_maxTs (s : State) (c : Nat) (i : Instr) : State.maxTs (s.at c i) = s.maxTs := rfl
@[simp] theorem State.at_plans (s : State) (c : Nat) (i : Instr) : State.plans (s.at c i) = s.plans := rfl
@[simp] theorem State.at_library (s : State) (c : Nat) (i : Instr) : State.library (s.at c i) = s.library := rfl
@[simp] theorem State.at_solderBusy (s : State) (c : Nat) (i : Instr) : State.solderBusy (s.at c i) = s.solderBusy := rfl
@[simp] theorem State.at_motifs (s : State) (c : Nat) (i : Instr) : State.motifs (s.at c i) = s.motifs := rfl
@[simp] theorem State.at_motifIds (s : State) (c : Nat) (i : Instr) : State.motifIds (s.at c i) = s.motifIds := rfl
@[simp] theorem State.at_launchCtr (s : State) (c : Nat) (i : Instr) : State.launchCtr (s.at c i) = s.launchCtr := rfl
@[simp] theorem State.at_retiredIdx (s : State) (c : Nat) (i : Instr) : State.retiredIdx (s.at c i) = s.retiredIdx := rfl
@[simp] theorem State.at_reclaiming (s : State) (c : Nat) (i : Instr) : State.reclaiming (s.at c i) = s.reclaiming := rfl
@[simp] theorem State.at_short (s : State) (c : Nat) (i : Instr) : State.short (s.at c i) = s.short := rfl
@[simp] theorem State.at_dying (s : State) (c : Nat) (i : Instr) : State.dying (s.at c i) = s.dying := rfl
@[simp] theorem State.at_hnewWait (s : State) (c : Nat) (i : Instr) : State.hnewWait (s.at c i) = s.hnewWait := rfl
@[simp] theorem State.at_comms (s : State) (c : Nat) (i : Instr) : State.comms (s.at c i) = s.comms := rfl
@[simp] theorem State.at_tables (s : State) (c : Nat) (i : Instr) : State.tables (s.at c i) = s.tables := rfl
@[simp] theorem State.at_engines (s : State) (c : Nat) (i : Instr) : State.engines (s.at c i) = s.engines := rfl
@[simp] theorem State.at_switches (s : State) (c : Nat) (i : Instr) : State.switches (s.at c i) = s.switches := rfl

/-! ### `State.first` adds work to the scan -/

@[simp] theorem State.first_cycle (s : State) (w : Work) : State.cycle (s.first w) = s.cycle := rfl
@[simp] theorem State.first_time (s : State) (w : Work) : State.time (s.first w) = s.time := rfl
@[simp] theorem State.first_epoch (s : State) (w : Work) : State.epoch (s.first w) = s.epoch := rfl
@[simp] theorem State.first_agenda (s : State) (w : Work) : State.agenda (s.first w) = s.agenda := rfl
@[simp] theorem State.first_cur (s : State) (w : Work) : State.cur (s.first w) = s.cur := rfl
@[simp] theorem State.first_freeCtr (s : State) (w : Work) : State.freeCtr (s.first w) = s.freeCtr := rfl
@[simp] theorem State.first_nextId (s : State) (w : Work) : State.nextId (s.first w) = s.nextId := rfl
@[simp] theorem State.first_hostOut (s : State) (w : Work) : State.hostOut (s.first w) = s.hostOut := rfl
@[simp] theorem State.first_regs (s : State) (w : Work) : State.regs (s.first w) = s.regs := rfl
@[simp] theorem State.first_dbg (s : State) (w : Work) : State.dbg (s.first w) = s.dbg := rfl
@[simp] theorem State.first_am (s : State) (w : Work) : State.am (s.first w) = s.am := rfl
@[simp] theorem State.first_queues (s : State) (w : Work) : State.queues (s.first w) = s.queues := rfl
@[simp] theorem State.first_lastQueue (s : State) (w : Work) : State.lastQueue (s.first w) = s.lastQueue := rfl
@[simp] theorem State.first_lastGrant (s : State) (w : Work) : State.lastGrant (s.first w) = s.lastGrant := rfl
@[simp] theorem State.first_refilled (s : State) (w : Work) : State.refilled (s.first w) = s.refilled := rfl
@[simp] theorem State.first_packets (s : State) (w : Work) : State.packets (s.first w) = s.packets := rfl
@[simp] theorem State.first_launches (s : State) (w : Work) : State.launches (s.first w) = s.launches := rfl
@[simp] theorem State.first_hbm (s : State) (w : Work) : State.hbm (s.first w) = s.hbm := rfl
@[simp] theorem State.first_sram (s : State) (w : Work) : State.sram (s.first w) = s.sram := rfl
@[simp] theorem State.first_full (s : State) (w : Work) : State.full (s.first w) = s.full := rfl
@[simp] theorem State.first_flash (s : State) (w : Work) : State.flash (s.first w) = s.flash := rfl
@[simp] theorem State.first_lines (s : State) (w : Work) : State.lines (s.first w) = s.lines := rfl
@[simp] theorem State.first_pend (s : State) (w : Work) : State.pend (s.first w) = s.pend := rfl
@[simp] theorem State.first_ports (s : State) (w : Work) : State.ports (s.first w) = s.ports := rfl
@[simp] theorem State.first_watched (s : State) (w : Work) : State.watched (s.first w) = s.watched := rfl
@[simp] theorem State.first_relRecs (s : State) (w : Work) : State.relRecs (s.first w) = s.relRecs := rfl
@[simp] theorem State.first_replicas (s : State) (w : Work) : State.replicas (s.first w) = s.replicas := rfl
@[simp] theorem State.first_fetches (s : State) (w : Work) : State.fetches (s.first w) = s.fetches := rfl
@[simp] theorem State.first_tiles (s : State) (w : Work) : State.tiles (s.first w) = s.tiles := rfl
@[simp] theorem State.first_flights (s : State) (w : Work) : State.flights (s.first w) = s.flights := rfl
@[simp] theorem State.first_served (s : State) (w : Work) : State.served (s.first w) = s.served := rfl
@[simp] theorem State.first_reqs (s : State) (w : Work) : State.reqs (s.first w) = s.reqs := rfl
@[simp] theorem State.first_faultToks (s : State) (w : Work) : State.faultToks (s.first w) = s.faultToks := rfl
@[simp] theorem State.first_transfers (s : State) (w : Work) : State.transfers (s.first w) = s.transfers := rfl
@[simp] theorem State.first_regions (s : State) (w : Work) : State.regions (s.first w) = s.regions := rfl
@[simp] theorem State.first_versions (s : State) (w : Work) : State.versions (s.first w) = s.versions := rfl
@[simp] theorem State.first_tasks (s : State) (w : Work) : State.tasks (s.first w) = s.tasks := rfl
@[simp] theorem State.first_seq (s : State) (w : Work) : State.seq (s.first w) = s.seq := rfl
@[simp] theorem State.first_maxTs (s : State) (w : Work) : State.maxTs (s.first w) = s.maxTs := rfl
@[simp] theorem State.first_plans (s : State) (w : Work) : State.plans (s.first w) = s.plans := rfl
@[simp] theorem State.first_library (s : State) (w : Work) : State.library (s.first w) = s.library := rfl
@[simp] theorem State.first_solderBusy (s : State) (w : Work) : State.solderBusy (s.first w) = s.solderBusy := rfl
@[simp] theorem State.first_motifs (s : State) (w : Work) : State.motifs (s.first w) = s.motifs := rfl
@[simp] theorem State.first_motifIds (s : State) (w : Work) : State.motifIds (s.first w) = s.motifIds := rfl
@[simp] theorem State.first_launchCtr (s : State) (w : Work) : State.launchCtr (s.first w) = s.launchCtr := rfl
@[simp] theorem State.first_retiredIdx (s : State) (w : Work) : State.retiredIdx (s.first w) = s.retiredIdx := rfl
@[simp] theorem State.first_reclaiming (s : State) (w : Work) : State.reclaiming (s.first w) = s.reclaiming := rfl
@[simp] theorem State.first_short (s : State) (w : Work) : State.short (s.first w) = s.short := rfl
@[simp] theorem State.first_dying (s : State) (w : Work) : State.dying (s.first w) = s.dying := rfl
@[simp] theorem State.first_hnewWait (s : State) (w : Work) : State.hnewWait (s.first w) = s.hnewWait := rfl
@[simp] theorem State.first_comms (s : State) (w : Work) : State.comms (s.first w) = s.comms := rfl
@[simp] theorem State.first_tables (s : State) (w : Work) : State.tables (s.first w) = s.tables := rfl
@[simp] theorem State.first_engines (s : State) (w : Work) : State.engines (s.first w) = s.engines := rfl
@[simp] theorem State.first_switches (s : State) (w : Work) : State.switches (s.first w) = s.switches := rfl

/-! ### Looking up what an update left -/

@[simp] theorem State.region?_setTile (s : State) (t : Nat) (x : Tile) (u : Nat) : State.region? (s.setTile t x) u = s.region? u := by simp [State.region?]
@[simp] theorem State.task?_setTile (s : State) (t : Nat) (x : Tile) (u : Nat) : State.task? (s.setTile t x) u = s.task? u := by simp [State.task?]
@[simp] theorem State.packet?_setTile (s : State) (t : Nat) (x : Tile) (u : Nat) : State.packet? (s.setTile t x) u = s.packet? u := by simp [State.packet?]
@[simp] theorem State.req?_setTile (s : State) (t : Nat) (x : Tile) (u : Nat) : State.req? (s.setTile t x) u = s.req? u := by simp [State.req?]
@[simp] theorem State.region?_modTile (s : State) (t : Nat) (f : Tile → Tile) (u : Nat) : State.region? (s.modTile t f) u = s.region? u := by simp [State.region?]
@[simp] theorem State.task?_modTile (s : State) (t : Nat) (f : Tile → Tile) (u : Nat) : State.task? (s.modTile t f) u = s.task? u := by simp [State.task?]
@[simp] theorem State.packet?_modTile (s : State) (t : Nat) (f : Tile → Tile) (u : Nat) : State.packet? (s.modTile t f) u = s.packet? u := by simp [State.packet?]
@[simp] theorem State.req?_modTile (s : State) (t : Nat) (f : Tile → Tile) (u : Nat) : State.req? (s.modTile t f) u = s.req? u := by simp [State.req?]
@[simp] theorem State.region?_modElem (s : State) (t : Nat) (f : Elem → Elem) (u : Nat) : State.region? (s.modElem t f) u = s.region? u := by simp [State.region?]
@[simp] theorem State.task?_modElem (s : State) (t : Nat) (f : Elem → Elem) (u : Nat) : State.task? (s.modElem t f) u = s.task? u := by simp [State.task?]
@[simp] theorem State.packet?_modElem (s : State) (t : Nat) (f : Elem → Elem) (u : Nat) : State.packet? (s.modElem t f) u = s.packet? u := by simp [State.packet?]
@[simp] theorem State.req?_modElem (s : State) (t : Nat) (f : Elem → Elem) (u : Nat) : State.req? (s.modElem t f) u = s.req? u := by simp [State.req?]
@[simp] theorem State.region?_modMem (s : State) (t : Nat) (f : MTile → MTile) (u : Nat) : State.region? (s.modMem t f) u = s.region? u := by simp [State.region?]
@[simp] theorem State.task?_modMem (s : State) (t : Nat) (f : MTile → MTile) (u : Nat) : State.task? (s.modMem t f) u = s.task? u := by simp [State.task?]
@[simp] theorem State.packet?_modMem (s : State) (t : Nat) (f : MTile → MTile) (u : Nat) : State.packet? (s.modMem t f) u = s.packet? u := by simp [State.packet?]
@[simp] theorem State.req?_modMem (s : State) (t : Nat) (f : MTile → MTile) (u : Nat) : State.req? (s.modMem t f) u = s.req? u := by simp [State.req?]
@[simp] theorem State.region?_modCtx (s : State) (t : Nat) (c : Fin 4) (f : Ctx → Ctx) (u : Nat) : State.region? (s.modCtx t c f) u = s.region? u := by simp [State.region?]
@[simp] theorem State.task?_modCtx (s : State) (t : Nat) (c : Fin 4) (f : Ctx → Ctx) (u : Nat) : State.task? (s.modCtx t c f) u = s.task? u := by simp [State.task?]
@[simp] theorem State.packet?_modCtx (s : State) (t : Nat) (c : Fin 4) (f : Ctx → Ctx) (u : Nat) : State.packet? (s.modCtx t c f) u = s.packet? u := by simp [State.packet?]
@[simp] theorem State.req?_modCtx (s : State) (t : Nat) (c : Fin 4) (f : Ctx → Ctx) (u : Nat) : State.req? (s.modCtx t c f) u = s.req? u := by simp [State.req?]
@[simp] theorem State.region?_modMat (s : State) (t : Nat) (f : Matrix → Matrix) (u : Nat) : State.region? (s.modMat t f) u = s.region? u := by simp [State.region?]
@[simp] theorem State.task?_modMat (s : State) (t : Nat) (f : Matrix → Matrix) (u : Nat) : State.task? (s.modMat t f) u = s.task? u := by simp [State.task?]
@[simp] theorem State.packet?_modMat (s : State) (t : Nat) (f : Matrix → Matrix) (u : Nat) : State.packet? (s.modMat t f) u = s.packet? u := by simp [State.packet?]
@[simp] theorem State.req?_modMat (s : State) (t : Nat) (f : Matrix → Matrix) (u : Nat) : State.req? (s.modMat t f) u = s.req? u := by simp [State.req?]
@[simp] theorem State.region?_modGen (s : State) (t : Nat) (g : Fin 4) (f : Gen → Gen) (u : Nat) : State.region? (s.modGen t g f) u = s.region? u := by simp [State.region?]
@[simp] theorem State.task?_modGen (s : State) (t : Nat) (g : Fin 4) (f : Gen → Gen) (u : Nat) : State.task? (s.modGen t g f) u = s.task? u := by simp [State.task?]
@[simp] theorem State.packet?_modGen (s : State) (t : Nat) (g : Fin 4) (f : Gen → Gen) (u : Nat) : State.packet? (s.modGen t g f) u = s.packet? u := by simp [State.packet?]
@[simp] theorem State.req?_modGen (s : State) (t : Nat) (g : Fin 4) (f : Gen → Gen) (u : Nat) : State.req? (s.modGen t g f) u = s.req? u := by simp [State.req?]
@[simp] theorem State.region?_enqueue (s : State) (t : Nat) (q : Fin 4) (k : Token) (u : Nat) : State.region? (s.enqueue t q k) u = s.region? u := by simp [State.region?]
@[simp] theorem State.task?_enqueue (s : State) (t : Nat) (q : Fin 4) (k : Token) (u : Nat) : State.task? (s.enqueue t q k) u = s.task? u := by simp [State.task?]
@[simp] theorem State.packet?_enqueue (s : State) (t : Nat) (q : Fin 4) (k : Token) (u : Nat) : State.packet? (s.enqueue t q k) u = s.packet? u := by simp [State.packet?]
@[simp] theorem State.req?_enqueue (s : State) (t : Nat) (q : Fin 4) (k : Token) (u : Nat) : State.req? (s.enqueue t q k) u = s.req? u := by simp [State.req?]
@[simp] theorem State.region?_dequeue (s : State) (t : Nat) (q : Fin 4) (u : Nat) : State.region? (s.dequeue t q) u = s.region? u := by simp [State.region?]
@[simp] theorem State.task?_dequeue (s : State) (t : Nat) (q : Fin 4) (u : Nat) : State.task? (s.dequeue t q) u = s.task? u := by simp [State.task?]
@[simp] theorem State.packet?_dequeue (s : State) (t : Nat) (q : Fin 4) (u : Nat) : State.packet? (s.dequeue t q) u = s.packet? u := by simp [State.packet?]
@[simp] theorem State.req?_dequeue (s : State) (t : Nat) (q : Fin 4) (u : Nat) : State.req? (s.dequeue t q) u = s.req? u := by simp [State.req?]
@[simp] theorem State.region?_putPort (s : State) (t : Nat) (q : Fin 4) (k : Token) (u : Nat) : State.region? (s.putPort t q k) u = s.region? u := by simp [State.region?]
@[simp] theorem State.task?_putPort (s : State) (t : Nat) (q : Fin 4) (k : Token) (u : Nat) : State.task? (s.putPort t q k) u = s.task? u := by simp [State.task?]
@[simp] theorem State.packet?_putPort (s : State) (t : Nat) (q : Fin 4) (k : Token) (u : Nat) : State.packet? (s.putPort t q k) u = s.packet? u := by simp [State.packet?]
@[simp] theorem State.req?_putPort (s : State) (t : Nat) (q : Fin 4) (k : Token) (u : Nat) : State.req? (s.putPort t q k) u = s.req? u := by simp [State.req?]
@[simp] theorem State.tile?_modRegion (s : State) (n : Nat) (f : Region → Region) (u : Nat) : State.tile? (s.modRegion n f) u = s.tile? u := by simp [State.tile?]
@[simp] theorem State.elem?_modRegion (s : State) (n : Nat) (f : Region → Region) (u : Nat) : State.elem? (s.modRegion n f) u = s.elem? u := by simp [State.elem?, State.tile?]
@[simp] theorem State.mem?_modRegion (s : State) (n : Nat) (f : Region → Region) (u : Nat) : State.mem? (s.modRegion n f) u = s.mem? u := by simp [State.mem?, State.tile?]
@[simp] theorem State.task?_modRegion (s : State) (n : Nat) (f : Region → Region) (u : Nat) : State.task? (s.modRegion n f) u = s.task? u := by simp [State.task?]
@[simp] theorem State.packet?_modRegion (s : State) (n : Nat) (f : Region → Region) (u : Nat) : State.packet? (s.modRegion n f) u = s.packet? u := by simp [State.packet?]
@[simp] theorem State.req?_modRegion (s : State) (n : Nat) (f : Region → Region) (u : Nat) : State.req? (s.modRegion n f) u = s.req? u := by simp [State.req?]
@[simp] theorem State.tile?_modTask (s : State) (n : Nat) (f : Task → Task) (u : Nat) : State.tile? (s.modTask n f) u = s.tile? u := by simp [State.tile?]
@[simp] theorem State.elem?_modTask (s : State) (n : Nat) (f : Task → Task) (u : Nat) : State.elem? (s.modTask n f) u = s.elem? u := by simp [State.elem?, State.tile?]
@[simp] theorem State.mem?_modTask (s : State) (n : Nat) (f : Task → Task) (u : Nat) : State.mem? (s.modTask n f) u = s.mem? u := by simp [State.mem?, State.tile?]
@[simp] theorem State.region?_modTask (s : State) (n : Nat) (f : Task → Task) (u : Nat) : State.region? (s.modTask n f) u = s.region? u := by simp [State.region?]
@[simp] theorem State.packet?_modTask (s : State) (n : Nat) (f : Task → Task) (u : Nat) : State.packet? (s.modTask n f) u = s.packet? u := by simp [State.packet?]
@[simp] theorem State.req?_modTask (s : State) (n : Nat) (f : Task → Task) (u : Nat) : State.req? (s.modTask n f) u = s.req? u := by simp [State.req?]
@[simp] theorem State.tile?_modQueue (s : State) (q : Nat) (f : Queue → Queue) (u : Nat) : State.tile? (s.modQueue q f) u = s.tile? u := by simp [State.tile?]
@[simp] theorem State.elem?_modQueue (s : State) (q : Nat) (f : Queue → Queue) (u : Nat) : State.elem? (s.modQueue q f) u = s.elem? u := by simp [State.elem?, State.tile?]
@[simp] theorem State.mem?_modQueue (s : State) (q : Nat) (f : Queue → Queue) (u : Nat) : State.mem? (s.modQueue q f) u = s.mem? u := by simp [State.mem?, State.tile?]
@[simp] theorem State.region?_modQueue (s : State) (q : Nat) (f : Queue → Queue) (u : Nat) : State.region? (s.modQueue q f) u = s.region? u := by simp [State.region?]
@[simp] theorem State.task?_modQueue (s : State) (q : Nat) (f : Queue → Queue) (u : Nat) : State.task? (s.modQueue q f) u = s.task? u := by simp [State.task?]
@[simp] theorem State.packet?_modQueue (s : State) (q : Nat) (f : Queue → Queue) (u : Nat) : State.packet? (s.modQueue q f) u = s.packet? u := by simp [State.packet?]
@[simp] theorem State.req?_modQueue (s : State) (q : Nat) (f : Queue → Queue) (u : Nat) : State.req? (s.modQueue q f) u = s.req? u := by simp [State.req?]
@[simp] theorem State.tile?_modPacket (s : State) (p : Nat) (f : Packet → Packet) (u : Nat) : State.tile? (s.modPacket p f) u = s.tile? u := by simp [State.tile?]
@[simp] theorem State.elem?_modPacket (s : State) (p : Nat) (f : Packet → Packet) (u : Nat) : State.elem? (s.modPacket p f) u = s.elem? u := by simp [State.elem?, State.tile?]
@[simp] theorem State.mem?_modPacket (s : State) (p : Nat) (f : Packet → Packet) (u : Nat) : State.mem? (s.modPacket p f) u = s.mem? u := by simp [State.mem?, State.tile?]
@[simp] theorem State.region?_modPacket (s : State) (p : Nat) (f : Packet → Packet) (u : Nat) : State.region? (s.modPacket p f) u = s.region? u := by simp [State.region?]
@[simp] theorem State.task?_modPacket (s : State) (p : Nat) (f : Packet → Packet) (u : Nat) : State.task? (s.modPacket p f) u = s.task? u := by simp [State.task?]
@[simp] theorem State.req?_modPacket (s : State) (p : Nat) (f : Packet → Packet) (u : Nat) : State.req? (s.modPacket p f) u = s.req? u := by simp [State.req?]
@[simp] theorem State.tile?_modReq (s : State) (r : Nat) (f : Req → Req) (u : Nat) : State.tile? (s.modReq r f) u = s.tile? u := by simp [State.tile?]
@[simp] theorem State.elem?_modReq (s : State) (r : Nat) (f : Req → Req) (u : Nat) : State.elem? (s.modReq r f) u = s.elem? u := by simp [State.elem?, State.tile?]
@[simp] theorem State.mem?_modReq (s : State) (r : Nat) (f : Req → Req) (u : Nat) : State.mem? (s.modReq r f) u = s.mem? u := by simp [State.mem?, State.tile?]
@[simp] theorem State.region?_modReq (s : State) (r : Nat) (f : Req → Req) (u : Nat) : State.region? (s.modReq r f) u = s.region? u := by simp [State.region?]
@[simp] theorem State.task?_modReq (s : State) (r : Nat) (f : Req → Req) (u : Nat) : State.task? (s.modReq r f) u = s.task? u := by simp [State.task?]
@[simp] theorem State.packet?_modReq (s : State) (r : Nat) (f : Req → Req) (u : Nat) : State.packet? (s.modReq r f) u = s.packet? u := by simp [State.packet?]
@[simp] theorem State.tile?_dropReq (s : State) (r : Nat) (u : Nat) : State.tile? (s.dropReq r) u = s.tile? u := by simp [State.tile?]
@[simp] theorem State.elem?_dropReq (s : State) (r : Nat) (u : Nat) : State.elem? (s.dropReq r) u = s.elem? u := by simp [State.elem?, State.tile?]
@[simp] theorem State.mem?_dropReq (s : State) (r : Nat) (u : Nat) : State.mem? (s.dropReq r) u = s.mem? u := by simp [State.mem?, State.tile?]
@[simp] theorem State.region?_dropReq (s : State) (r : Nat) (u : Nat) : State.region? (s.dropReq r) u = s.region? u := by simp [State.region?]
@[simp] theorem State.task?_dropReq (s : State) (r : Nat) (u : Nat) : State.task? (s.dropReq r) u = s.task? u := by simp [State.task?]
@[simp] theorem State.packet?_dropReq (s : State) (r : Nat) (u : Nat) : State.packet? (s.dropReq r) u = s.packet? u := by simp [State.packet?]
@[simp] theorem State.tile?_modPort (s : State) (n : Nat) (f : PortTile → PortTile) (u : Nat) : State.tile? (s.modPort n f) u = s.tile? u := by simp [State.tile?]
@[simp] theorem State.elem?_modPort (s : State) (n : Nat) (f : PortTile → PortTile) (u : Nat) : State.elem? (s.modPort n f) u = s.elem? u := by simp [State.elem?, State.tile?]
@[simp] theorem State.mem?_modPort (s : State) (n : Nat) (f : PortTile → PortTile) (u : Nat) : State.mem? (s.modPort n f) u = s.mem? u := by simp [State.mem?, State.tile?]
@[simp] theorem State.region?_modPort (s : State) (n : Nat) (f : PortTile → PortTile) (u : Nat) : State.region? (s.modPort n f) u = s.region? u := by simp [State.region?]
@[simp] theorem State.task?_modPort (s : State) (n : Nat) (f : PortTile → PortTile) (u : Nat) : State.task? (s.modPort n f) u = s.task? u := by simp [State.task?]
@[simp] theorem State.packet?_modPort (s : State) (n : Nat) (f : PortTile → PortTile) (u : Nat) : State.packet? (s.modPort n f) u = s.packet? u := by simp [State.packet?]
@[simp] theorem State.req?_modPort (s : State) (n : Nat) (f : PortTile → PortTile) (u : Nat) : State.req? (s.modPort n f) u = s.req? u := by simp [State.req?]
@[simp] theorem State.tile?_usePort (s : State) (n c : Nat) (w : Option Nat) (u : Nat) : State.tile? (s.usePort n c w) u = s.tile? u := by simp [State.tile?]
@[simp] theorem State.elem?_usePort (s : State) (n c : Nat) (w : Option Nat) (u : Nat) : State.elem? (s.usePort n c w) u = s.elem? u := by simp [State.elem?, State.tile?]
@[simp] theorem State.mem?_usePort (s : State) (n c : Nat) (w : Option Nat) (u : Nat) : State.mem? (s.usePort n c w) u = s.mem? u := by simp [State.mem?, State.tile?]
@[simp] theorem State.region?_usePort (s : State) (n c : Nat) (w : Option Nat) (u : Nat) : State.region? (s.usePort n c w) u = s.region? u := by simp [State.region?]
@[simp] theorem State.task?_usePort (s : State) (n c : Nat) (w : Option Nat) (u : Nat) : State.task? (s.usePort n c w) u = s.task? u := by simp [State.task?]
@[simp] theorem State.packet?_usePort (s : State) (n c : Nat) (w : Option Nat) (u : Nat) : State.packet? (s.usePort n c w) u = s.packet? u := by simp [State.packet?]
@[simp] theorem State.req?_usePort (s : State) (n c : Nat) (w : Option Nat) (u : Nat) : State.req? (s.usePort n c w) u = s.req? u := by simp [State.req?]
@[simp] theorem State.tile?_tick (s : State) (u : Nat) : State.tile? (s.tick) u = s.tile? u := by simp [State.tile?]
@[simp] theorem State.elem?_tick (s : State) (u : Nat) : State.elem? (s.tick) u = s.elem? u := by simp [State.elem?, State.tile?]
@[simp] theorem State.mem?_tick (s : State) (u : Nat) : State.mem? (s.tick) u = s.mem? u := by simp [State.mem?, State.tile?]
@[simp] theorem State.region?_tick (s : State) (u : Nat) : State.region? (s.tick) u = s.region? u := by simp [State.region?]
@[simp] theorem State.task?_tick (s : State) (u : Nat) : State.task? (s.tick) u = s.task? u := by simp [State.task?]
@[simp] theorem State.packet?_tick (s : State) (u : Nat) : State.packet? (s.tick) u = s.packet? u := by simp [State.packet?]
@[simp] theorem State.req?_tick (s : State) (u : Nat) : State.req? (s.tick) u = s.req? u := by simp [State.req?]
@[simp] theorem State.tile?_fresh (s : State) (u : Nat) : State.tile? (s.fresh) u = s.tile? u := by simp [State.tile?]
@[simp] theorem State.elem?_fresh (s : State) (u : Nat) : State.elem? (s.fresh) u = s.elem? u := by simp [State.elem?, State.tile?]
@[simp] theorem State.mem?_fresh (s : State) (u : Nat) : State.mem? (s.fresh) u = s.mem? u := by simp [State.mem?, State.tile?]
@[simp] theorem State.region?_fresh (s : State) (u : Nat) : State.region? (s.fresh) u = s.region? u := by simp [State.region?]
@[simp] theorem State.task?_fresh (s : State) (u : Nat) : State.task? (s.fresh) u = s.task? u := by simp [State.task?]
@[simp] theorem State.packet?_fresh (s : State) (u : Nat) : State.packet? (s.fresh) u = s.packet? u := by simp [State.packet?]
@[simp] theorem State.req?_fresh (s : State) (u : Nat) : State.req? (s.fresh) u = s.req? u := by simp [State.req?]
@[simp] theorem State.tile?_at (s : State) (c : Nat) (i : Instr) (u : Nat) : State.tile? (s.at c i) u = s.tile? u := by simp [State.tile?]
@[simp] theorem State.elem?_at (s : State) (c : Nat) (i : Instr) (u : Nat) : State.elem? (s.at c i) u = s.elem? u := by simp [State.elem?, State.tile?]
@[simp] theorem State.mem?_at (s : State) (c : Nat) (i : Instr) (u : Nat) : State.mem? (s.at c i) u = s.mem? u := by simp [State.mem?, State.tile?]
@[simp] theorem State.region?_at (s : State) (c : Nat) (i : Instr) (u : Nat) : State.region? (s.at c i) u = s.region? u := by simp [State.region?]
@[simp] theorem State.task?_at (s : State) (c : Nat) (i : Instr) (u : Nat) : State.task? (s.at c i) u = s.task? u := by simp [State.task?]
@[simp] theorem State.packet?_at (s : State) (c : Nat) (i : Instr) (u : Nat) : State.packet? (s.at c i) u = s.packet? u := by simp [State.packet?]
@[simp] theorem State.req?_at (s : State) (c : Nat) (i : Instr) (u : Nat) : State.req? (s.at c i) u = s.req? u := by simp [State.req?]
@[simp] theorem State.tile?_first (s : State) (w : Work) (u : Nat) : State.tile? (s.first w) u = s.tile? u := by simp [State.tile?]
@[simp] theorem State.elem?_first (s : State) (w : Work) (u : Nat) : State.elem? (s.first w) u = s.elem? u := by simp [State.elem?, State.tile?]
@[simp] theorem State.mem?_first (s : State) (w : Work) (u : Nat) : State.mem? (s.first w) u = s.mem? u := by simp [State.mem?, State.tile?]
@[simp] theorem State.region?_first (s : State) (w : Work) (u : Nat) : State.region? (s.first w) u = s.region? u := by simp [State.region?]
@[simp] theorem State.task?_first (s : State) (w : Work) (u : Nat) : State.task? (s.first w) u = s.task? u := by simp [State.task?]
@[simp] theorem State.packet?_first (s : State) (w : Work) (u : Nat) : State.packet? (s.first w) u = s.packet? u := by simp [State.packet?]
@[simp] theorem State.req?_first (s : State) (w : Work) (u : Nat) : State.req? (s.first w) u = s.req? u := by simp [State.req?]

/-! ### Looking up what an update changed -/

/-- The tile just put. -/
@[simp] theorem State.tile?_setTile_same (s : State) (t : Nat) (x : Tile) : (s.setTile t x).tile? t = some x :=
  SMap.find?_put_same s.tiles t x

/-- Every other tile. -/
theorem State.tile?_setTile_other (s : State) (t u : Nat) (x : Tile) (h : u ≠ t) : (s.setTile t x).tile? u = s.tile? u :=
  SMap.find?_put_other s.tiles t u x h

/-- The tile just changed. -/
@[simp] theorem State.tile?_modTile_same (s : State) (t : Nat) (f : Tile → Tile) : (s.modTile t f).tile? t = (s.tile? t).map f := by
  unfold State.modTile
  cases h : s.tile? t with
  | none => simpa using h
  | some x => simp

/-- Every other tile. -/
theorem State.tile?_modTile_other (s : State) (t u : Nat) (f : Tile → Tile) (h : u ≠ t) : (s.modTile t f).tile? u = s.tile? u := by
  unfold State.modTile
  cases s.tile? t with
  | none => rfl
  | some x => exact State.tile?_setTile_other s t u (f x) h

/-- The element just changed. -/
@[simp] theorem State.elem?_modElem_same (s : State) (t : Nat) (f : Elem → Elem) : (s.modElem t f).elem? t = (s.elem? t).map f := by
  unfold State.modElem State.elem?
  cases h : s.tile? t with
  | none => simp [h]
  | some x => simp [h]

/-- Every other element. -/
theorem State.elem?_modTile_other (s : State) (t u : Nat) (f : Tile → Tile) (h : u ≠ t) : (s.modTile t f).elem? u = s.elem? u := by
  simp only [State.elem?, State.tile?_modTile_other s t u f h]

/-- The region just changed. -/
@[simp] theorem State.region?_modRegion_same (s : State) (n : Nat) (f : Region → Region) :
    (s.modRegion n f).region? n = (s.region? n).map f := by
  unfold State.modRegion
  cases h : s.region? n with
  | none => simpa using h
  | some x => exact SMap.find?_put_same s.regions n (f x)

/-- Every other region. -/
theorem State.region?_modRegion_other (s : State) (n m : Nat) (f : Region → Region) (h : m ≠ n) :
    (s.modRegion n f).region? m = s.region? m := by
  unfold State.modRegion
  cases s.region? n with
  | none => rfl
  | some x => exact SMap.find?_put_other s.regions n m (f x) h

/-- The context just changed in an element. -/
@[simp] theorem Elem.ctx_modCtx_same (e : Elem) (c : Fin 4) (f : Ctx → Ctx) : (e.modCtx c f).ctx.get c = f (e.ctx.get c) :=
  Vector.get_set_same e.ctx c _

/-- Every other context. -/
theorem Elem.ctx_modCtx_other (e : Elem) (c d : Fin 4) (f : Ctx → Ctx) (h : d ≠ c) : (e.modCtx c f).ctx.get d = e.ctx.get d :=
  Vector.get_set_other e.ctx c d _ h


end Sys2Proof.Machine
end

