-- ==== Sys2Proof/Laws/Trace.lean ====
section
/-!
SUPPORT. What the watchpoints and the trace ring can change of a state, said once: the noted matches, the ring's registers, HBM.
-/
namespace Sys2Proof.Machine

/-! ## Folds of updates -/

/-- What every update of a fold leaves, the fold leaves. -/
theorem foldl_keeps {α β γ : Type} (P : α → γ) (f : α → β → α) (h : ∀ a b, P (f a b) = P a) (xs : List β) (a : α) :
    P (xs.foldl f a) = P a := by
  induction xs generalizing a with
  | nil => rfl
  | cons x xs ih => rw [List.foldl_cons, ih, h]

/-- A relation that every update of a fold keeps, the fold keeps. -/
theorem foldl_rel {α β : Type} (R : α → α → Prop) (f : α → β → α) (refl : ∀ a, R a a) (trans : ∀ a b c, R a b → R b c → R a c)
    (h : ∀ a b, R a (f a b)) (xs : List β) (a : α) : R a (xs.foldl f a) := by
  induction xs generalizing a with
  | nil => exact refl a
  | cons x xs ih => exact trans _ _ _ (h a x) (ih _)

/-! ## Watchpoints -/

/-- A comparison with the watchpoints changes the noted matches only. -/
theorem State.watch_only (s : State) (die k n kind cls : Nat) :
    s.watch die k n kind cls = { s with watched := (s.watch die k n kind cls).watched } := by
  have tr : ∀ a b c : State, b = { a with watched := b.watched } → c = { b with watched := c.watched } → c = { a with watched := c.watched } := by
    intro a b c h1 h2; rw [h1] at h2; exact h2
  unfold State.watch
  split
  · refine foldl_rel (fun a b : State => b = { a with watched := b.watched }) _ (fun _ => rfl) tr (fun a sec => ?_) _ s
    refine foldl_rel (fun a b : State => b = { a with watched := b.watched }) _ (fun _ => rfl) tr (fun a w => ?_) _ a
    split <;> rfl
  · rfl

/-- With no watchpoint armed a comparison changes nothing. -/
theorem State.watch_unarmed (s : State) (die k n kind cls : Nat) (h : ∀ w, (s.dbg.watch.get w).getLsbD 53 = false) :
    s.watch die k n kind cls = s := by
  unfold State.watch
  rw [if_neg]
  simpa using h

/-! ## The ring -/

/-- A record touches the ring's registers, HBM and the noted matches only. -/
theorem State.traceRecord_only (s : State) (r : Nat) :
    s.traceRecord r = { s with hbm := (s.traceRecord r).hbm, dbg := (s.traceRecord r).dbg, watched := (s.traceRecord r).watched } := by
  unfold State.traceRecord State.watchSys
  split
  · rfl
  · dsimp only
    split
    · rfl
    · rw [State.watch_only]

/-- A token's log touches the same. -/
theorem State.sinkLog_only (s : State) (n : Nat) (k : Token) (d : Bool) :
    s.sinkLog n k d = { s with hbm := (s.sinkLog n k d).hbm, dbg := (s.sinkLog n k d).dbg, watched := (s.sinkLog n k d).watched } := by
  unfold State.sinkLog
  split
  · exact State.traceRecord_only s _
  · rfl

end Sys2Proof.Machine
end

