-- ==== Sys2Proof/Laws/Caches.lean ====
section
/-!
SUPPORT. What the operations on memory and on the port caches can change of a state, said once: HBM, the lines of the caches, the packets whose
condition a write meets, and the counter of free values.
-/
namespace Sys2Proof.Machine

/-- `t` differs from `s` in memory, the port caches, the WAITs that a write meets and the free values drawn. -/
def OnlyCaches (s t : State) : Prop := t = { s with hbm := t.hbm, lines := t.lines, packets := t.packets, freeCtr := t.freeCtr }

theorem OnlyCaches.refl (s : State) : OnlyCaches s s := rfl

theorem OnlyCaches.trans {a b c : State} (h1 : OnlyCaches a b) (h2 : OnlyCaches b c) : OnlyCaches a c := by
  unfold OnlyCaches at *
  rw [h1] at h2
  exact h2

theorem OnlyCaches.fold {α : Type} (f : State → α → State) (h : ∀ a x, OnlyCaches a (f a x)) (xs : List α) (a : State) : OnlyCaches a (xs.foldl f a) :=
  foldl_rel OnlyCaches f OnlyCaches.refl (fun _ _ _ => OnlyCaches.trans) h xs a

theorem State.retest_only (s : State) (ls : List Nat) : OnlyCaches s (s.retest ls) := by
  unfold State.retest
  dsimp only
  split <;> rfl

theorem State.flushSector_only (s : State) (sec : Nat) (x : Sector) : OnlyCaches s (s.flushSector sec x) := rfl

theorem State.writeBackLine_only (s : State) (key : Nat) (l : Line) : OnlyCaches s (s.writeBackLine key l) := by
  unfold State.writeBackLine
  dsimp only
  refine OnlyCaches.trans ?_ (State.retest_only _ _)
  exact OnlyCaches.trans (OnlyCaches.fold (fun (s : State) i => s.flushSector (key % 2 ^ 44 * 4 + i) (Vector.at (n := 3) l.secs i)) (fun a i => State.flushSector_only a _ _) (List.range 4) s) rfl

theorem State.hold_only (s : State) (die line : Nat) : OnlyCaches s (s.hold die line) := by
  unfold State.hold
  dsimp only
  repeat' split
  · rfl
  · rfl
  · rfl
  · exact (State.writeBackLine_only s _ _).trans rfl

theorem State.modSector_only (s : State) (die sec : Nat) (f : Sector → Sector) : OnlyCaches s (s.modSector die sec f) := by
  unfold State.modSector
  split <;> rfl

theorem State.touch_only (s : State) (die k n : Nat) : OnlyCaches s (s.touch die k n) := by
  unfold State.touch
  split
  · rfl
  · exact OnlyCaches.fold _ (fun a sec => (State.hold_only a _ _).trans (State.modSector_only _ _ _ _)) _ s

theorem State.settleLine_only (s : State) (die line : Nat) : OnlyCaches s (s.settleLine die line) := by
  unfold State.settleLine
  refine OnlyCaches.fold _ (fun a d => ?_) _ s
  repeat' split
  · exact State.writeBackLine_only _ _ _
  · rfl
  · rfl

theorem State.storeHome_only (s : State) (k : Nat) (bs : List Byte) : OnlyCaches s (s.storeHome k bs) := by
  unfold State.storeHome
  dsimp only
  exact OnlyCaches.trans (by rfl) (State.retest_only _ _)

theorem State.putHome_only (s : State) (k n x : Nat) : OnlyCaches s (s.putHome k n x) := State.storeHome_only _ _ _

theorem State.storeDie_only (s : State) (die k : Nat) (bs : List Byte) : OnlyCaches s (s.storeDie die k bs) := by
  unfold State.storeDie
  split
  · exact State.storeHome_only _ _ _
  · refine OnlyCaches.trans ?_ (State.retest_only _ _)
    refine OnlyCaches.trans (b := (linesOf k bs.length).foldl (fun (s : State) l => (s.settleLine die l).hold die l) s) ?_ ?_
    · exact OnlyCaches.fold _ (fun a l => (State.settleLine_only a _ _).trans (State.hold_only _ _ _)) _ s
    · exact OnlyCaches.fold _ (fun a x => State.modSector_only _ _ _ _) _ _

theorem State.commitSector_only (s : State) (p : Pending) : OnlyCaches s (s.commitSector p) := by
  unfold State.commitSector
  have h : OnlyCaches s ((s.settleLine p.die (p.sec / 4)).hold p.die (p.sec / 4)) := (State.settleLine_only _ _ _).trans (State.hold_only _ _ _)
  dsimp only
  split
  · refine OnlyCaches.trans (h.trans ?_) (State.retest_only _ _)
    exact OnlyCaches.trans (OnlyCaches.fold _ (fun a d => State.modSector_only _ _ _ _) _ _) (State.modSector_only _ _ _ _)
  · exact h.trans (OnlyCaches.fold _ (fun a i => State.storeHome_only _ _ _) _ _)

theorem State.writeBack_only (s : State) (die : Nat) (r : Rng) : OnlyCaches s (s.writeBack die r) := by
  unfold State.writeBack
  exact OnlyCaches.fold _ (fun a x => State.writeBackLine_only _ _ _) _ s

/-- An object-table entry written, and the watchpoints that see it. -/
theorem State.putObj_only (s : State) (i e : Nat) : ∃ u, OnlyCaches s u ∧ s.putObj i e = { u with watched := (s.putObj i e).watched } :=
  ⟨_, State.putHome_only s (s.objKey i) 32 e, State.watch_only _ _ _ _ _ _⟩

theorem State.putObj_plans (s : State) (i e : Nat) : (s.putObj i e).plans = s.plans := by
  obtain ⟨u, hu, h⟩ := State.putObj_only s i e
  rw [h, show u.plans = s.plans from by rw [hu]]

end Sys2Proof.Machine
end

