-- ==== Sys2Proof/Laws/Fire.lean ====
section
/-!
SUPPORT. What a firing can do, said once: how it gets under way, what its completion leaves, what a fault of a firing leaves.
-/
namespace Sys2Proof.Machine

/-! ## The parts of a state that no firing's completion touches -/

/-- A state is made of its bare part and the rest. -/
theorem State.eq_of_bare {s t : State} (h : t.bare = s.bare) :
    t = { s with
      tiles := t.tiles, regions := t.regions, tasks := t.tasks, seq := t.seq, hbm := t.hbm, dbg := t.dbg, cur := t.cur, watched := t.watched } := by
  cases s; cases t
  simp only [State.bare, State.mk.injEq] at h
  simp only [State.mk.injEq]
  simp_all

@[simp] theorem State.bare_modTile (s : State) (t : Nat) (f : Tile → Tile) : (s.modTile t f).bare = s.bare := by
  unfold State.modTile; split <;> rfl
@[simp] theorem State.bare_modElem (s : State) (t : Nat) (f : Elem → Elem) : (s.modElem t f).bare = s.bare := State.bare_modTile s t _
@[simp] theorem State.bare_modMem (s : State) (t : Nat) (f : MTile → MTile) : (s.modMem t f).bare = s.bare := State.bare_modTile s t _
@[simp] theorem State.bare_modCtx (s : State) (t : Nat) (c : Fin 4) (f : Ctx → Ctx) : (s.modCtx t c f).bare = s.bare :=
  State.bare_modElem s t _
@[simp] theorem State.bare_modRegion (s : State) (n : Nat) (f : Region → Region) : (s.modRegion n f).bare = s.bare := by
  unfold State.modRegion; split <;> rfl
@[simp] theorem State.bare_modTask (s : State) (n : Nat) (f : Task → Task) : (s.modTask n f).bare = s.bare := rfl
@[simp] theorem State.bare_dequeue (s : State) (t : Nat) (q : Fin 4) : (s.dequeue t q).bare = s.bare := State.bare_modTile s t _
@[simp] theorem State.bare_putPort (s : State) (t : Nat) (q : Fin 4) (k : Token) : (s.putPort t q k).bare = s.bare :=
  State.bare_modTile s t _

@[simp] theorem State.bare_traceRecord (s : State) (r : Nat) : (s.traceRecord r).bare = s.bare := by
  rw [State.traceRecord_only]; rfl

@[simp] theorem State.bare_sinkLog (s : State) (n : Nat) (k : Token) (d : Bool) : (s.sinkLog n k d).bare = s.bare := by
  rw [State.sinkLog_only]; rfl

/-! ## Logs -/

/-- A token that is not sampled leaves no log. -/
@[simp] theorem State.sinkLog_none (s : State) (n : Nat) (k : Token) (d : Bool) (h : k.log = none) : s.sinkLog n k d = s := by
  unfold State.sinkLog; rw [h]

/-- A log touches the trace registers, the ring and the noted matches only. -/
theorem State.sinkLog_tiles (s : State) (n : Nat) (k : Token) (d : Bool) : (s.sinkLog n k d).tiles = s.tiles := by
  rw [State.sinkLog_only]

/-- A log leaves the regions. -/
theorem State.sinkLog_regions (s : State) (n : Nat) (k : Token) (d : Bool) : (s.sinkLog n k d).regions = s.regions := by
  rw [State.sinkLog_only]

/-- A log leaves the tasks and the commit sequence. -/
theorem State.sinkLog_tasks (s : State) (n : Nat) (k : Token) (d : Bool) :
    (s.sinkLog n k d).tasks = s.tasks ∧ (s.sinkLog n k d).seq = s.seq ∧ (s.sinkLog n k d).cur = s.cur := by
  rw [State.sinkLog_only]; exact ⟨rfl, rfl, rfl⟩

@[simp] theorem State.tile?_sinkLog (s : State) (n : Nat) (k : Token) (d : Bool) (u : Nat) : (s.sinkLog n k d).tile? u = s.tile? u := by
  simp only [State.tile?, State.sinkLog_tiles]
@[simp] theorem State.region?_sinkLog (s : State) (n : Nat) (k : Token) (d : Bool) (u : Nat) : (s.sinkLog n k d).region? u = s.region? u := by
  simp only [State.region?, State.sinkLog_regions]

theorem SameOutsideRing.refl (s : State) : SameOutsideRing s s := ⟨rfl, rfl, rfl, fun _ => rfl, id, fun _ _ _ => rfl⟩

theorem SameOutsideRing.trans {s t u : State} (a : SameOutsideRing s t) (b : SameOutsideRing t u) : SameOutsideRing s u where
  base := b.base.trans a.base
  size := b.size.trans a.size
  watch := b.watch.trans a.watch
  watched h := (b.watched (by simpa only [State.Unwatched, a.watch] using h)).trans (a.watched h)
  wf h := b.wf (a.wf h)
  byte h k hk := by
    rw [b.byte (a.wf h) k (by simpa only [State.inRing, a.base, a.size] using hk), a.byte h k hk]

/-- Two states with the same HBM, trace registers and noted matches. -/
theorem SameOutsideRing.of_eq {s t : State} (h : t.hbm = s.hbm) (d : t.dbg = s.dbg) (w : t.watched = s.watched) : SameOutsideRing s t :=
  ⟨by rw [d], by rw [d], by rw [d], fun _ => w, by rw [h]; exact id, fun _ k _ => by simp only [State.hbmByte, h]⟩

theorem leBytes_length (n x : Nat) : (leBytes n x).length = n := by
  induction n generalizing x with
  | zero => rfl
  | succ n ih => simp [leBytes, ih]

/-- A comparison with the watchpoints leaves memory and the registers. -/
theorem State.watch_outside (s : State) (die k n kind cls : Nat) : SameOutsideRing s (s.watch die k n kind cls) := by
  refine ⟨?_, ?_, ?_, fun h => by rw [State.watch_unarmed s _ _ _ _ _ h], ?_, fun _ k' _ => ?_⟩
  · rw [State.watch_only]
  · rw [State.watch_only]
  · rw [State.watch_only]
  · rw [State.watch_only]; exact id
  · rw [State.watch_only]; rfl

/-- A trace record goes to the ring. -/
theorem State.traceRecord_outside (s : State) (r : Nat) : SameOutsideRing s (s.traceRecord r) := by
  unfold State.traceRecord
  split
  · exact .refl s
  · rename_i hb
    dsimp only
    split
    · exact ⟨rfl, rfl, rfl, fun _ => rfl, id, fun _ _ _ => rfl⟩
    · refine SameOutsideRing.trans ?_ (State.watch_outside _ _ _ _ _ _)
      refine ⟨rfl, rfl, rfl, fun _ => rfl, fun h => wf_writeBytes _ _ _ h, fun h k hk => ?_⟩
      refine read_writeBytes_other _ _ _ k ?_ h
      rw [leBytes_length]
      by_contra hc
      refine hk ⟨hb, s.dbg.trhead.toNat % 2 ^ s.dbg.trsize.toNat, Nat.mod_lt _ (by positivity), ?_, ?_⟩ <;> omega

theorem State.sinkLog_outside (s : State) (n : Nat) (k : Token) (d : Bool) : SameOutsideRing s (s.sinkLog n k d) := by
  unfold State.sinkLog
  split
  · exact s.traceRecord_outside _
  · exact .refl s

/-! ## Dequeues -/

/-- One token taken: what the fold of `State.take` does for each. -/
def State.takeOne (s : State) (region tile : Nat) (q : Fin 4) (k : Token) : State := (s.sinkLog region k false).dequeue tile q

/-- `State.take` as one fold. -/
theorem State.take_eq (s : State) (e : Env) (qs : List (Fin 4 × Nat)) :
    s.take e qs = qs.foldl (fun s x => ((e.tile.iq.get x.1).take x.2).foldl (fun s k => s.takeOne e.ctx.region e.site.tile x.1 k) s) s := rfl

/-- What one dequeue leaves, `State.take` leaves. -/
theorem State.take_keeps {γ : Type} (P : State → γ) (e : Env)
    (h : ∀ (s : State) (q : Fin 4) (k : Token), P (s.takeOne e.ctx.region e.site.tile q k) = P s) (s : State) (qs : List (Fin 4 × Nat)) :
    P (s.take e qs) = P s := by
  rw [State.take_eq]
  exact foldl_keeps P _ (fun a b => foldl_keeps P _ (fun a' k => h a' b.1 k) _ a) qs s

@[simp] theorem State.bare_take (s : State) (e : Env) (qs : List (Fin 4 × Nat)) : (s.take e qs).bare = s.bare :=
  State.take_keeps State.bare e (fun s q k => by simp [State.takeOne]) s qs

theorem State.take_outside (s : State) (e : Env) (qs : List (Fin 4 × Nat)) : SameOutsideRing s (s.take e qs) := by
  rw [State.take_eq]
  refine foldl_rel SameOutsideRing _ .refl (fun _ _ _ => .trans) (fun a b => ?_) qs s
  refine foldl_rel SameOutsideRing _ .refl (fun _ _ _ => .trans) (fun a' k => ?_) _ a
  exact (a'.sinkLog_outside e.ctx.region k false).trans (.of_eq (by simp [State.takeOne]) (by simp [State.takeOne]) (by simp [State.takeOne]))

/-- One dequeue seen from a tile. -/
theorem State.tile?_takeOne (s : State) (n t : Nat) (q : Fin 4) (k : Token) (u : Nat) :
    (s.takeOne n t q k).tile? u = if u = t then (s.tile? u).map (fun x => x.setIq q (x.iq.get q).tail) else s.tile? u := by
  unfold State.takeOne State.dequeue
  split
  · subst_vars; simp
  · rename_i h; rw [State.tile?_modTile_other _ _ _ _ h]; simp

@[simp] theorem Tile.iq_setIq_same (x : Tile) (q : Fin 4) (l : List Token) : (x.setIq q l).iq.get q = l := Vector.get_set_same x.iq q l
theorem Tile.iq_setIq_other (x : Tile) (q r : Fin 4) (l : List Token) (h : r ≠ q) : (x.setIq q l).iq.get r = x.iq.get r :=
  Vector.get_set_other x.iq q r l h
@[simp] theorem Tile.elem_setIq (x : Tile) (q : Fin 4) (l : List Token) : (x.setIq q l).elem = x.elem := rfl
@[simp] theorem Tile.op_setIq (x : Tile) (q : Fin 4) (l : List Token) : (x.setIq q l).op = x.op := rfl
@[simp] theorem Tile.mem_setIq (x : Tile) (q : Fin 4) (l : List Token) : (x.setIq q l).mem = x.mem := rfl
@[simp] theorem Tile.op_setOp_same (x : Tile) (q : Fin 4) (l : List OutSlot) : (x.setOp q l).op.get q = l := Vector.get_set_same x.op q l
theorem Tile.op_setOp_other (x : Tile) (q r : Fin 4) (l : List OutSlot) (h : r ≠ q) : (x.setOp q l).op.get r = x.op.get r :=
  Vector.get_set_other x.op q r l h
@[simp] theorem Tile.elem_setOp (x : Tile) (q : Fin 4) (l : List OutSlot) : (x.setOp q l).elem = x.elem := rfl
@[simp] theorem Tile.iq_setOp (x : Tile) (q : Fin 4) (l : List OutSlot) : (x.setOp q l).iq = x.iq := rfl
@[simp] theorem Tile.mem_setOp (x : Tile) (q : Fin 4) (l : List OutSlot) : (x.setOp q l).mem = x.mem := rfl

/-- What of a tile a dequeue leaves. -/
theorem State.tile?_take (s : State) (e : Env) (qs : List (Fin 4 × Nat)) {γ : Type} (P : Tile → γ)
    (h : ∀ x q l, P (Tile.setIq x q l) = P x) (u : Nat) : ((s.take e qs).tile? u).map P = (s.tile? u).map P :=
  State.take_keeps (fun s => (s.tile? u).map P) e (fun s q k => by
    rw [State.tile?_takeOne]; split
    · simp [Option.map_map, Function.comp_def, h]
    · rfl) s qs

theorem State.elem?_take (s : State) (e : Env) (qs : List (Fin 4 × Nat)) (u : Nat) : (s.take e qs).elem? u = s.elem? u := by
  have h := State.tile?_take s e qs Tile.elem (fun _ _ _ => rfl) u
  simp only [State.elem?]
  cases h1 : (s.take e qs).tile? u <;> cases h2 : s.tile? u <;> simp_all

theorem State.port?_take (s : State) (e : Env) (qs : List (Fin 4 × Nat)) (u : Nat) (q : Fin 4) :
    (s.take e qs).port? u q = s.port? u q :=
  State.tile?_take s e qs (fun x => x.op.get q) (fun _ _ _ => rfl) u

theorem State.region?_take (s : State) (e : Env) (qs : List (Fin 4 × Nat)) (n : Nat) : (s.take e qs).region? n = s.region? n :=
  State.take_keeps (fun s => s.region? n) e (fun s q k => by simp [State.takeOne, State.dequeue]) s qs

theorem State.tasks_take (s : State) (e : Env) (qs : List (Fin 4 × Nat)) : (s.take e qs).tasks = s.tasks :=
  State.take_keeps State.tasks e (fun s q k => by simp [State.takeOne, (s.sinkLog_tasks _ k false).1]) s qs

/-- The tokens that dequeues leave in a queue. -/
theorem State.queue?_takeOnes (s : State) (n t : Nat) (q : Fin 4) (ks : List Token) (u : Nat) (r : Fin 4) :
    (ks.foldl (fun s k => s.takeOne n t q k) s).queue? u r
      = (s.queue? u r).map (fun l => if u = t ∧ r = q then l.drop ks.length else l) := by
  induction ks generalizing s with
  | nil => simp
  | cons k ks ih =>
    rw [List.foldl_cons, ih]
    simp only [State.queue?, State.tile?_takeOne, Option.map_map]
    by_cases hu : u = t
    · subst hu
      simp only [if_true, Option.map_map]
      congr 1
      funext x
      by_cases hr : r = q
      · subst hr; simp [Function.comp]
      · simp [Function.comp, hr, Tile.iq_setIq_other _ _ _ _ hr]
    · simp [hu, Function.comp_def]

/-- What a firing's dequeues leave in the queues. -/
theorem State.queue?_take (s : State) (e : Env) (qs : List (Fin 4 × Nat)) (u : Nat) (r : Fin 4) :
    (s.take e qs).queue? u r = (s.queue? u r).map (fun l => if u = e.site.tile then
      l.drop ((qs.filter (fun x => x.1 == r)).map (fun x => min x.2 (e.tile.iq.get r).length)).sum else l) := by
  rw [State.take_eq]
  induction qs generalizing s with
  | nil => simp
  | cons x qs ih =>
    rw [List.foldl_cons, ih, State.queue?_takeOnes, Option.map_map]
    congr 1
    funext l
    by_cases hu : u = e.site.tile
    · by_cases hr : x.1 = r
      · subst hr
        simp [hu, List.drop_drop, List.length_take]
      · have hr' : ¬ r = x.1 := fun h => hr h.symm
        simp [hu, hr, hr']
    · simp [hu]

/-! ## The followers' due slots -/

/-- What of an element the obligation of followers leaves. -/
theorem State.elem?_oblige (s : State) (e : Env) {γ : Type} (P : Elem → γ) (h : ∀ (x : Elem) d, P { x with due := d } = P x) (u : Nat) :
    ((s.oblige e).elem? u).map P = (s.elem? u).map P := by
  unfold State.oblige
  split
  · refine foldl_keeps (fun s : State => (s.elem? u).map P) _ (fun a b => ?_) _ s
    by_cases hu : u = b.1
    · subst hu; simp [Option.map_map, Function.comp_def, h]
    · simp only [State.modElem]; rw [State.elem?_modTile_other _ _ _ _ hu]
  · rfl

/-- What of a tile the obligation of followers leaves. -/
theorem State.tile?_oblige (s : State) (e : Env) {γ : Type} (P : Tile → γ) (h : ∀ (x : Tile) y, P { x with elem := y } = P x) (u : Nat) :
    ((s.oblige e).tile? u).map P = (s.tile? u).map P := by
  unfold State.oblige
  split
  · refine foldl_keeps (fun s : State => (s.tile? u).map P) _ (fun a b => ?_) _ s
    by_cases hu : u = b.1
    · subst hu; simp [State.modElem, Option.map_map, Function.comp_def, h]
    · simp only [State.modElem]; rw [State.tile?_modTile_other _ _ _ _ hu]
  · rfl

@[simp] theorem State.bare_oblige (s : State) (e : Env) : (s.oblige e).bare = s.bare := by
  unfold State.oblige
  split
  · exact foldl_keeps State.bare _ (fun a b => State.bare_modElem a _ _) _ s
  · rfl

/-- Any field that a change of tiles leaves, the obligation of followers leaves. -/
theorem State.oblige_keeps {γ : Type} (P : State → γ) (h : ∀ (s : State) t f, P (s.modElem t f) = P s) (s : State) (e : Env) :
    P (s.oblige e) = P s := by
  unfold State.oblige
  split
  · exact foldl_keeps P _ (fun a b => h a _ _) _ s
  · rfl

@[simp] theorem State.region?_oblige (s : State) (e : Env) (n : Nat) : (s.oblige e).region? n = s.region? n :=
  State.oblige_keeps (fun s => s.region? n) (fun s t f => by simp) s e

/-! ## Commit keys -/

@[simp] theorem State.bare_takeKey (s : State) (t : Task) : (s.takeKey t).bare = s.bare := by
  unfold State.takeKey; split <;> rfl
@[simp] theorem State.tile?_takeKey (s : State) (t : Task) (u : Nat) : (s.takeKey t).tile? u = s.tile? u := by
  unfold State.takeKey; split <;> rfl
@[simp] theorem State.region?_takeKey (s : State) (t : Task) (u : Nat) : (s.takeKey t).region? u = s.region? u := by
  unfold State.takeKey; split <;> rfl
@[simp] theorem State.watched_takeKey (s : State) (t : Task) : (s.takeKey t).watched = s.watched := by
  unfold State.takeKey; split <;> rfl
@[simp] theorem State.hbm_takeKey (s : State) (t : Task) : (s.takeKey t).hbm = s.hbm := by
  unfold State.takeKey; split <;> rfl
@[simp] theorem State.dbg_takeKey (s : State) (t : Task) : (s.takeKey t).dbg = s.dbg := by
  unfold State.takeKey; split <;> rfl

/-! ## Completion -/

/-- The last part of a completion touches tasks only. -/
def State.claim (s : State) (i : Instr) (e : Env) : State :=
  match s.task? e.region.task with
  | none => s
  | some t =>
    let s := s.takeKey t
    if t.ordered && irrevocable i e then s.modTask t.id (fun x => { x with irrev := true }) else s

/-- What of the tasks' owner a claim leaves. -/
theorem State.claim_keeps {γ : Type} (P : State → γ) (h1 : ∀ (s : State) t, P (s.takeKey t) = P s)
    (h2 : ∀ (s : State) n f, P (s.modTask n f) = P s) (s : State) (i : Instr) (e : Env) : P (s.claim i e) = P s := by
  unfold State.claim
  split
  · rfl
  · dsimp only
    split
    · rw [h2, h1]
    · rw [h1]

/-- The element of a completed firing: its count, its arcs, the predicate effect, the rotation. -/
def Env.settleElem (e : Env) (x : Elem) : Elem :=
  (Elem.modCtx { x with counts := x.counts.set e.site.slot.val (x.counts.get e.site.slot + 1) e.site.slot.isLt } e.site.ctx
    (fun c => { c with arcs := e.arcs, p := predEffect e.side c.p })).rotate e.site

/-- A completion in its parts. -/
theorem State.complete_eq (s : State) (i : Instr) (e : Env) (f : Flags) :
    s.complete i e f = State.claim (State.oblige (((s.take e i.shape.takes).modRegion e.ctx.region
      (fun r => { r with setNow := r.setNow ||| f })).modElem e.site.tile e.settleElem) e) i e := rfl

@[simp] theorem State.bare_complete (s : State) (i : Instr) (e : Env) (f : Flags) : (s.complete i e f).bare = s.bare := by
  rw [State.complete_eq, State.claim_keeps State.bare (by simp) (by simp)]
  simp

@[simp] theorem Elem.ctx_rotate (x : Elem) (site : Site) : (x.rotate site).ctx = x.ctx := by
  unfold Elem.rotate; split <;> rfl

/-- The context of a completed firing. -/
theorem Env.ctx_settleElem (e : Env) (x : Elem) : (e.settleElem x).ctx.get e.site.ctx = e.ctxAfter (x.ctx.get e.site.ctx) := by
  unfold Env.settleElem
  rw [Elem.ctx_rotate, Elem.ctx_modCtx_same]
  rfl

/-- Every other context of its element. -/
theorem Env.ctx_settleElem_other (e : Env) (x : Elem) (c : Fin 4) (h : c ≠ e.site.ctx) : (e.settleElem x).ctx.get c = x.ctx.get c := by
  unfold Env.settleElem
  rw [Elem.ctx_rotate, Elem.ctx_modCtx_other _ _ _ _ h]

/-- What a completion leaves of an element, if neither its settlement nor due slots touch it. -/
theorem State.elem?_complete (s : State) (i : Instr) (e : Env) (f : Flags) {γ : Type} (P : Elem → γ)
    (h : ∀ (x : Elem) d, P { x with due := d } = P x) (u : Nat) :
    ((s.complete i e f).elem? u).map P
      = (s.elem? u).map (fun x => if u = e.site.tile then P (e.settleElem x) else P x) := by
  have hc : ∀ (s : State), ((s.claim i e).elem? u).map P = (s.elem? u).map P := fun s =>
    State.claim_keeps (fun s => (s.elem? u).map P) (fun s t => by simp [State.elem?]) (fun s n f => by simp) s i e
  rw [State.complete_eq, hc, State.elem?_oblige _ _ P h]
  by_cases hu : u = e.site.tile
  · subst hu
    simp [State.elem?_take, Option.map_map, Function.comp_def]
  · simp only [State.modElem]
    rw [State.elem?_modTile_other _ _ _ _ hu]
    simp [State.elem?_take, hu]

/-- The context of a firing after its completion, and every other context. -/
theorem State.ctx?_complete (s : State) (i : Instr) (e : Env) (f : Flags) (u : Nat) (c : Fin 4) :
    (s.complete i e f).ctx? u c
      = (s.ctx? u c).map (fun x => if u = e.site.tile ∧ c = e.site.ctx then e.ctxAfter x else x) := by
  unfold State.ctx?
  rw [State.elem?_complete s i e f (fun x => x.ctx.get c) (fun _ _ => rfl) u, Option.map_map]
  congr 1
  funext x
  by_cases hu : u = e.site.tile
  · by_cases hc : c = e.site.ctx
    · subst hc; simp [hu, Env.ctx_settleElem]
    · simp [hu, hc, Env.ctx_settleElem_other]
  · simp [hu]

/-- What a completion leaves of a tile beside its queues and its element. -/
theorem State.tile?_complete (s : State) (i : Instr) (e : Env) (f : Flags) {γ : Type} (P : Tile → γ)
    (h : ∀ (x : Tile) y, P { x with elem := y } = P x) (u : Nat) :
    ((s.complete i e f).tile? u).map P = ((s.take e i.shape.takes).tile? u).map P := by
  have hc : ∀ (s : State), ((s.claim i e).tile? u).map P = (s.tile? u).map P := fun s =>
    State.claim_keeps (fun s => (s.tile? u).map P) (fun s t => by simp) (fun s n f => by simp) s i e
  rw [State.complete_eq, hc, State.tile?_oblige _ _ P h]
  by_cases hu : u = e.site.tile
  · subst hu; simp [State.modElem, Option.map_map, Function.comp_def, h]
  · simp only [State.modElem]
    rw [State.tile?_modTile_other _ _ _ _ hu]
    simp

theorem State.port?_complete (s : State) (i : Instr) (e : Env) (f : Flags) (u : Nat) (q : Fin 4) :
    (s.complete i e f).port? u q = s.port? u q :=
  (State.tile?_complete s i e f (fun x => x.op.get q) (fun _ _ => rfl) u).trans (State.port?_take s e _ u q)

theorem State.queue?_complete (s : State) (i : Instr) (e : Env) (f : Flags) (u : Nat) (q : Fin 4) :
    (s.complete i e f).queue? u q = (s.queue? u q).map (fun l => if u = e.site.tile then l.drop (e.taken i q) else l) := 
  (State.tile?_complete s i e f (fun x => x.iq.get q) (fun _ _ => rfl) u).trans (State.queue?_take s e i.shape.takes u q)

theorem State.region?_complete (s : State) (i : Instr) (e : Env) (f : Flags) (n : Nat) :
    (s.complete i e f).region? n
      = (s.region? n).map (fun r => if n = e.ctx.region then { r with setNow := r.setNow ||| f } else r) := by
  rw [State.complete_eq, State.claim_keeps (fun s => s.region? n) (by simp) (by simp)]
  simp only [State.region?_oblige, State.region?_modElem]
  by_cases hn : n = e.ctx.region
  · subst hn; simp [State.region?_take]
  · rw [State.region?_modRegion_other _ _ _ _ hn]; simp [hn, State.region?_take]

theorem State.complete_outside (s : State) (i : Instr) (e : Env) (f : Flags) : SameOutsideRing s (s.complete i e f) := by
  refine (s.take_outside e i.shape.takes).trans (.of_eq ?_ ?_ ?_)
  · rw [State.complete_eq, State.claim_keeps State.hbm (by simp) (by simp), State.oblige_keeps State.hbm (by simp)]
    simp
  · rw [State.complete_eq, State.claim_keeps State.dbg (by simp) (by simp), State.oblige_keeps State.dbg (by simp)]
    simp
  · rw [State.complete_eq, State.claim_keeps State.watched (by simp) (by simp), State.oblige_keeps State.watched (by simp)]
    simp

/-- Without a sampled token among those dequeued, a completion writes no byte of HBM. -/
theorem State.complete_hbm (s : State) (i : Instr) (e : Env) (f : Flags) (h : ∀ k ∈ e.dequeued i, k.log = none) :
    (s.complete i e f).hbm = s.hbm ∧ (s.complete i e f).dbg = s.dbg ∧ (s.complete i e f).watched = s.watched := by
  have key : ∀ (qs : List (Fin 4 × Nat)) (s : State), (∀ k ∈ qs.flatMap (fun x => (e.tile.iq.get x.1).take x.2), k.log = none) →
      (s.take e qs).hbm = s.hbm ∧ (s.take e qs).dbg = s.dbg ∧ (s.take e qs).watched = s.watched := by
    intro qs
    induction qs with
    | nil => intro s _; exact ⟨rfl, rfl, rfl⟩
    | cons x qs ih =>
      intro s h
      have inner : ∀ (ks : List Token) (s : State), (∀ k ∈ ks, k.log = none) →
          (ks.foldl (fun s k => s.takeOne e.ctx.region e.site.tile x.1 k) s).hbm = s.hbm ∧
          (ks.foldl (fun s k => s.takeOne e.ctx.region e.site.tile x.1 k) s).dbg = s.dbg ∧
          (ks.foldl (fun s k => s.takeOne e.ctx.region e.site.tile x.1 k) s).watched = s.watched := by
        intro ks
        induction ks with
        | nil => intro s _; exact ⟨rfl, rfl, rfl⟩
        | cons k ks ihk =>
          intro s hk
          rw [List.foldl_cons]
          have := ihk (s.takeOne e.ctx.region e.site.tile x.1 k) (fun k' hk' => hk k' (List.mem_cons_of_mem _ hk'))
          rw [this.1, this.2.1, this.2.2]
          simp [State.takeOne, State.sinkLog_none s _ k _ (hk k (List.mem_cons_self ..))]
      have h1 : ∀ k ∈ (e.tile.iq.get x.1).take x.2, k.log = none := fun k hk => h k (List.mem_flatMap.2 ⟨x, List.mem_cons_self .., hk⟩)
      have h2 : ∀ k ∈ qs.flatMap (fun x => (e.tile.iq.get x.1).take x.2), k.log = none := fun k hk => by
        obtain ⟨y, hy, hk⟩ := List.mem_flatMap.1 hk
        exact h k (List.mem_flatMap.2 ⟨y, List.mem_cons_of_mem _ hy, hk⟩)
      have a := inner _ s h1
      have b := ih (((e.tile.iq.get x.1).take x.2).foldl (fun s k => s.takeOne e.ctx.region e.site.tile x.1 k) s) h2
      exact ⟨b.1.trans a.1, b.2.1.trans a.2.1, b.2.2.trans a.2.2⟩
  have := key i.shape.takes s h
  rw [State.complete_eq, State.claim_keeps State.hbm (by simp) (by simp), State.oblige_keeps State.hbm (by simp),
    State.claim_keeps State.dbg (by simp) (by simp), State.oblige_keeps State.dbg (by simp),
    State.claim_keeps State.watched (by simp) (by simp), State.oblige_keeps State.watched (by simp)]
  simpa using this

/-! ## Getting under way -/

/-- The contexts of an element in which a firing goes on: the firing's own context has some vector registers set to zero (R18, R19), the
others are as before. -/
theorem Elem.regPlan_go {x y : Elem} {c : Fin 4} {sl : Fin 32} {vs : List (Fin 32)} {due : Nat}
    (h : x.regPlan c sl vs due = .go y) :
    (∃ v, y.ctx.get c = { x.ctx.get c with v := v }) ∧ ∀ d, d ≠ c → y.ctx.get d = x.ctx.get d := by
  have key : ∀ (l : List (Fin 32)) (z : Elem), (∃ v, z.ctx.get c = { x.ctx.get c with v := v }) → (∀ d, d ≠ c → z.ctx.get d = x.ctx.get d) →
      (∃ v, (l.foldl (fun (x : Elem) v => x.modCtx c (fun k => { k with v := k.v.set v.val Vec.zero v.isLt })) z).ctx.get c
        = { x.ctx.get c with v := v }) ∧
      ∀ d, d ≠ c → (l.foldl (fun (x : Elem) v => x.modCtx c (fun k => { k with v := k.v.set v.val Vec.zero v.isLt })) z).ctx.get d
        = x.ctx.get d := by
    intro l
    induction l with
    | nil => intro z h1 h2; exact ⟨h1, h2⟩
    | cons v l ih =>
      intro z h1 h2
      rw [List.foldl_cons]
      refine ih _ ?_ ?_
      · obtain ⟨w, hw⟩ := h1
        exact ⟨_, by rw [Elem.ctx_modCtx_same, hw]⟩
      · intro d hd
        rw [Elem.ctx_modCtx_other _ _ _ _ hd, h2 d hd]
  unfold Elem.regPlan at h
  dsimp only at h
  split at h
  · split at h
    · cases h
    · split at h <;> cases h
  · split at h
    · cases h
      exact key _ x ⟨_, rfl⟩ (fun _ _ => rfl)
    · split at h <;> cases h

/-- The environment of a firing at a site. -/
theorem State.env?_spec {s : State} {i : Instr} {site : Site} {e : Env} (h : s.env? i site = some e) :
    e.site = site ∧ s.tile? site.tile = some e.tile ∧ e.tile.elem = some e.elem ∧ e.ctx = e.elem.ctx.get site.ctx
      ∧ e.side = e.elem.sides.get site.slot ∧ s.region? e.ctx.region = some e.region := by
  unfold State.env? at h
  split at h
  · cases h
  · rename_i t ht
    split at h
    · cases h
    · rename_i x hx
      dsimp only at h
      split at h
      · cases h
      · rename_i r hr
        cases h
        exact ⟨rfl, ht, hx, rfl, rfl, hr⟩

/-- What it takes for a firing to get under way, and the state in which its meaning acts. -/
theorem State.enter_spec {s : State} {i : Instr} {e : Env} {s1 : State} (h : s.enter i = some (e, s1)) :
    s.cur = some e.site ∧ s.tile? e.site.tile = some e.tile ∧ s1 = s.modElem e.site.tile (fun _ => e.elem)
      ∧ e.ctx = e.elem.ctx.get e.site.ctx ∧ s.region? e.ctx.region = some e.region
      ∧ (∃ e0, s.env? i e.site = some e0 ∧ e0.ready i s = true ∧ e.site = e0.site ∧ e.tile = e0.tile ∧ e.side = e0.side ∧ e.region = e0.region
          ∧ e.arcs = e0.arcs ∧ e0.tile.elem = some e0.elem ∧ (∃ v, e.ctx = { e0.ctx with v := v })
          ∧ ∀ d, d ≠ e.site.ctx → e.elem.ctx.get d = e0.elem.ctx.get d) := by
  unfold State.enter at h
  split at h
  · cases h
  · rename_i site hs
    split at h
    · cases h
    · rename_i e0 he
      split at h
      · rename_i hr
        split at h
        · rename_i y hy
          cases h
          obtain ⟨h1, h2, h3, h4, h5, h6⟩ := State.env?_spec he
          obtain ⟨⟨v, hv⟩, ho⟩ := Elem.regPlan_go hy
          subst h1
          refine ⟨hs, h2, rfl, rfl, ?_, e0, he, hr, rfl, rfl, rfl, rfl, rfl, h3, ⟨v, ?_⟩, ho⟩
          · dsimp only
            rw [hv, ← h4]
            exact h6
          · dsimp only
            rw [hv, ← h4]
        · cases h
        · cases h
      · cases h

section
variable {s s1 : State} {i : Instr} {e : Env} (h : s.enter i = some (e, s1))
include h

/-- The context in which the meaning acts. -/
theorem State.enter_ctx : s1.ctx? e.site.tile e.site.ctx = some e.ctx := by
  obtain ⟨_, ht, rfl, hc, _, e0, he, _, _, htile, _, _, _, hel, _⟩ := State.enter_spec h
  have : (s.elem? e.site.tile).isSome = true := by simp [State.elem?, ht, htile, hel]
  obtain ⟨x, hx⟩ := Option.isSome_iff_exists.1 this
  simp [State.ctx?, hx, hc]

/-- Every other context is as it was. -/
theorem State.enter_ctx_other (u : Nat) (c : Fin 4) (hne : ¬(u = e.site.tile ∧ c = e.site.ctx)) : s1.ctx? u c = s.ctx? u c := by
  obtain ⟨_, ht, rfl, hc, _, e0, he, _, hsite, htile, _, _, _, hel, _, ho⟩ := State.enter_spec h
  by_cases hu : u = e.site.tile
  · have hx : s.elem? u = some e0.elem := by simp [State.elem?, hu, ht, htile, hel]
    subst hu
    simp only [State.ctx?, State.elem?_modElem_same, hx, Option.map_some]
    rw [ho c (fun hc => hne ⟨rfl, hc⟩)]
  · simp only [State.ctx?, State.modElem]
    rw [State.elem?_modTile_other _ _ _ _ hu]

/-- The ports and the queues are as they were. -/
theorem State.enter_tile {γ : Type} (P : Tile → γ) (hP : ∀ (x : Tile) y, P { x with elem := y } = P x) (u : Nat) :
    (s1.tile? u).map P = (s.tile? u).map P := by
  obtain ⟨_, ht, rfl, _⟩ := State.enter_spec h
  by_cases hu : u = e.site.tile
  · subst hu; simp [State.modElem, Option.map_map, Function.comp_def, hP]
  · simp only [State.modElem]; rw [State.tile?_modTile_other _ _ _ _ hu]

theorem State.enter_port (u : Nat) (q : Fin 4) : s1.port? u q = s.port? u q :=
  State.enter_tile h (fun x => x.op.get q) (fun _ _ => rfl) u

theorem State.enter_queue (u : Nat) (q : Fin 4) : s1.queue? u q = s.queue? u q :=
  State.enter_tile h (fun x => x.iq.get q) (fun _ _ => rfl) u

/-- The firing's own ports hold what the environment says. -/
theorem State.enter_port_site (q : Fin 4) : s1.port? e.site.tile q = some (e.tile.op.get q) := by
  rw [State.enter_port h]
  obtain ⟨_, ht, _⟩ := State.enter_spec h
  simp [State.port?, ht]

/-- Nothing but one element has changed. -/
theorem State.enter_bare : s1.bare = s.bare := by
  obtain ⟨_, _, rfl, _⟩ := State.enter_spec h
  simp

theorem State.enter_region (n : Nat) : s1.region? n = s.region? n := by
  obtain ⟨_, _, rfl, _⟩ := State.enter_spec h
  simp

theorem State.enter_hbm : s1.hbm = s.hbm ∧ s1.dbg = s.dbg ∧ s1.watched = s.watched := by
  obtain ⟨_, _, rfl, _⟩ := State.enter_spec h
  simp

end

/-! ## A firing as a whole -/

/-- A firing that gets under way and whose meaning is done without a trap. -/
theorem fire_done {s s1 s2 : State} {i : Instr} {e : Env} {k : Env → State → Res} {f : Flags} (h : s.enter i = some (e, s1))
    (hk : k e s1 = .done s2 f) (hf : (sideTrapf e.side && f.traps) = false) :
    fire i s k = .next (State.complete { s2 with cur := none } i e (e.raised f)) := by
  simp [fire, h, State.settle, hk, hf]

/-- A firing whose meaning faults. -/
theorem fire_fault {s s1 : State} {i : Instr} {e : Env} {k : Env → State → Res} {f : FaultInfo} (h : s.enter i = some (e, s1))
    (hk : k e s1 = .fault f) : fire i s k = .next (s1.miss e f) := by
  simp [fire, h, State.settle, hk]

/-- A firing whose flags trap (R86). -/
theorem fire_trap {s s1 s2 : State} {i : Instr} {e : Env} {k : Env → State → Res} {f : Flags} (h : s.enter i = some (e, s1))
    (hk : k e s1 = .done s2 f) (hf : (sideTrapf e.side && f.traps) = true) :
    fire i s k = .next (s1.miss e ⟨kTrap, 1, 0⟩) := by
  simp [fire, h, State.settle, hk, hf]

/-- A firing answers a next state, whatever its meaning. -/
theorem fire_next (i : Instr) (s : State) (k : Env → State → Res) : ∃ t, fire i s k = .next t := by
  unfold fire
  split <;> exact ⟨_, rfl⟩

/-! ## What the updates of a meaning do to the parts of a state -/

@[simp] theorem State.ctx?_modCtx (s : State) (t : Nat) (c : Fin 4) (f : Ctx → Ctx) (u : Nat) (d : Fin 4) :
    (s.modCtx t c f).ctx? u d = (s.ctx? u d).map (fun x => if u = t ∧ d = c then f x else x) := by
  unfold State.ctx? State.modCtx
  by_cases hu : u = t
  · subst hu
    simp only [State.elem?_modElem_same, Option.map_map]
    congr 1
    funext x
    by_cases hd : d = c
    · subst hd; simp
    · simp [hd, Elem.ctx_modCtx_other]
  · simp only [State.modElem]
    rw [State.elem?_modTile_other _ _ _ _ hu]
    simp [hu, Function.comp_def]

/-- What a change of an element leaves of a tile. -/
theorem State.tile?_modElem (s : State) (t : Nat) (f : Elem → Elem) {γ : Type} (P : Tile → γ)
    (h : ∀ (x : Tile) y, P { x with elem := y } = P x) (u : Nat) : ((s.modElem t f).tile? u).map P = (s.tile? u).map P := by
  by_cases hu : u = t
  · subst hu; simp [State.modElem, Option.map_map, Function.comp_def, h]
  · simp only [State.modElem]; rw [State.tile?_modTile_other _ _ _ _ hu]

@[simp] theorem State.port?_modElem (s : State) (t : Nat) (f : Elem → Elem) (u : Nat) (q : Fin 4) :
    (s.modElem t f).port? u q = s.port? u q := State.tile?_modElem s t f (fun x => x.op.get q) (fun _ _ => rfl) u
@[simp] theorem State.queue?_modElem (s : State) (t : Nat) (f : Elem → Elem) (u : Nat) (q : Fin 4) :
    (s.modElem t f).queue? u q = s.queue? u q := State.tile?_modElem s t f (fun x => x.iq.get q) (fun _ _ => rfl) u
@[simp] theorem State.mem?_modElem (s : State) (t : Nat) (f : Elem → Elem) (u : Nat) : (s.modElem t f).mem? u = s.mem? u := by
  have h := State.tile?_modElem s t f Tile.mem (fun _ _ => rfl) u
  simp only [State.mem?]
  cases h1 : (s.modElem t f).tile? u <;> cases h2 : s.tile? u <;> simp_all
@[simp] theorem State.port?_modCtx (s : State) (t : Nat) (c : Fin 4) (f : Ctx → Ctx) (u : Nat) (q : Fin 4) :
    (s.modCtx t c f).port? u q = s.port? u q := State.port?_modElem s t _ u q
@[simp] theorem State.queue?_modCtx (s : State) (t : Nat) (c : Fin 4) (f : Ctx → Ctx) (u : Nat) (q : Fin 4) :
    (s.modCtx t c f).queue? u q = s.queue? u q := State.queue?_modElem s t _ u q
@[simp] theorem State.mem?_modCtx (s : State) (t : Nat) (c : Fin 4) (f : Ctx → Ctx) (u : Nat) : (s.modCtx t c f).mem? u = s.mem? u :=
  State.mem?_modElem s t _ u

/-- A context is none of the other parts. -/
@[simp] theorem State.parts_modCtx (s : State) (t : Nat) (c : Fin 4) (f : Ctx → Ctx) (u : Nat) :
    ((s.modCtx t c f).elem? u).map Elem.parts = (s.elem? u).map Elem.parts := by
  unfold State.modCtx
  by_cases hu : u = t
  · subst hu; simp [Option.map_map, Function.comp_def, Elem.modCtx]; rfl
  · simp only [State.modElem]; rw [State.elem?_modTile_other _ _ _ _ hu]

@[simp] theorem State.counts_modCtx (s : State) (t : Nat) (c : Fin 4) (f : Ctx → Ctx) (u : Nat) :
    ((s.modCtx t c f).elem? u).map Elem.counts = (s.elem? u).map Elem.counts := by
  unfold State.modCtx
  by_cases hu : u = t
  · subst hu; simp [Option.map_map, Function.comp_def, Elem.modCtx]
  · simp only [State.modElem]; rw [State.elem?_modTile_other _ _ _ _ hu]

/-- What a change of ports leaves of an element. -/
@[simp] theorem State.elem?_putPort (s : State) (t : Nat) (q : Fin 4) (k : Token) (u : Nat) : (s.putPort t q k).elem? u = s.elem? u := by
  unfold State.putPort
  by_cases hu : u = t
  · subst hu
    simp only [State.elem?, State.tile?_modTile_same]
    cases s.tile? u <;> simp
  · exact State.elem?_modTile_other _ _ _ _ hu
@[simp] theorem State.ctx?_putPort (s : State) (t : Nat) (q : Fin 4) (k : Token) (u : Nat) (c : Fin 4) :
    (s.putPort t q k).ctx? u c = s.ctx? u c := by simp [State.ctx?]
@[simp] theorem State.mem?_putPort (s : State) (t : Nat) (q : Fin 4) (k : Token) (u : Nat) : (s.putPort t q k).mem? u = s.mem? u := by
  unfold State.putPort State.mem?
  by_cases hu : u = t
  · subst hu
    simp only [State.tile?_modTile_same]
    cases s.tile? u <;> simp
  · rw [State.tile?_modTile_other _ _ _ _ hu]
@[simp] theorem State.queue?_putPort (s : State) (t : Nat) (q : Fin 4) (k : Token) (u : Nat) (r : Fin 4) :
    (s.putPort t q k).queue? u r = s.queue? u r := by
  unfold State.putPort State.queue?
  by_cases hu : u = t
  · subst hu
    simp only [State.tile?_modTile_same]
    cases s.tile? u <;> simp
  · rw [State.tile?_modTile_other _ _ _ _ hu]
@[simp] theorem State.port?_putPort (s : State) (t : Nat) (q : Fin 4) (k : Token) (u : Nat) (r : Fin 4) :
    (s.putPort t q k).port? u r = (s.port? u r).map (fun l => if u = t ∧ r = q then l ++ [.full k none s.cycle] else l) := by
  unfold State.putPort State.port?
  by_cases hu : u = t
  · subst hu
    simp only [State.tile?_modTile_same, Option.map_map]
    congr 1
    funext x
    by_cases hr : r = q
    · subst hr; simp
    · simp [hr, Tile.op_setOp_other]
  · rw [State.tile?_modTile_other _ _ _ _ hu]
    simp [hu, Function.comp_def]

/-- Every part of the state that the updates of a meaning may leave alone, seen from the state before it. -/
structure Moves (s s' : State) (e : Env) (x : Effect) : Prop where
  ctx : ∀ u c, s'.ctx? u c = (s.ctx? u c).map (fun y => if u = e.site.tile ∧ c = e.site.ctx then x.ctx y else y)
  port : ∀ u q, s'.port? u q = (s.port? u q).map (fun l => if u = e.site.tile then l ++ x.sent q else l)
  queue : ∀ u q, s'.queue? u q = s.queue? u q
  parts : ∀ u, (s'.elem? u).map Elem.parts = (s.elem? u).map (fun y => if u = e.site.tile then x.parts y.parts else y.parts)
  counts : ∀ u, (s'.elem? u).map Elem.counts = (s.elem? u).map Elem.counts
  mem : ∀ u, s'.mem? u = s.mem? u
  region : ∀ n, s'.region? n = (s.region? n).map (fun r => if n = e.ctx.region then x.region r else r)
  bare : s'.bare = x.bare.bare

/-- The same, where HBM, the trace registers and the noted matches stay too. -/
structure Acts (s s' : State) (e : Env) (x : Effect) : Prop extends Moves s s' e x where
  hbm : s'.hbm = s.hbm
  dbg : s'.dbg = s.dbg
  watched : s'.watched = s.watched

/-- The element of a firing that has got under way. -/
theorem State.enter_elem {s s1 : State} {i : Instr} {e : Env} (h : s.enter i = some (e, s1)) : s1.elem? e.site.tile = some e.elem := by
  obtain ⟨_, ht, rfl, _, _, e0, _, _, _, htile, _, _, _, hel, _⟩ := State.enter_spec h
  have hx : s.elem? e.site.tile = some e0.elem := by simp [State.elem?, ht, htile, hel]
  simp [hx]

/-- Every other element. -/
theorem State.enter_elem_other {s s1 : State} {i : Instr} {e : Env} (h : s.enter i = some (e, s1)) (u : Nat) (hu : u ≠ e.site.tile) :
    s1.elem? u = s.elem? u := by
  obtain ⟨_, _, rfl, _⟩ := State.enter_spec h
  exact State.elem?_modTile_other _ _ _ _ hu

/-- A meaning whose updates move by an effect gives a firing by that effect. -/
theorem Fired.of_moves {s s1 s2 : State} {i : Instr} {e : Env} {x : Effect} (h : s.enter i = some (e, s1)) (a : Moves s1 s2 e x) :
    Fired s (State.complete { s2 with cur := none } i e (e.raised x.flags)) i e x := by
  have el := State.enter_elem h
  have hel : ∃ y, s2.elem? e.site.tile = some y ∧ y.parts = x.parts e.elem.parts ∧ y.counts = e.elem.counts := by
    have hm := a.parts e.site.tile
    have hc := a.counts e.site.tile
    rw [el] at hm hc
    cases h2 : s2.elem? e.site.tile with
    | none => rw [h2] at hm; simp at hm
    | some y => rw [h2] at hm hc; simp at hm hc; exact ⟨y, rfl, hm, hc⟩
  have hs : s.region? e.ctx.region = some e.region := (State.enter_spec h).2.2.2.2.1
  refine ⟨?_, ?_, ?_, ?_, ?_, ?_, ?_, ?_, ?_, ?_, ?_, ?_⟩
  · rw [State.ctx?_complete]
    show ((s2.ctx? _ _).map _) = _
    rw [a.ctx, State.enter_ctx h]
    simp
  · intro u c hne
    rw [State.ctx?_complete]
    show ((s2.ctx? _ _).map _) = _
    rw [a.ctx, State.enter_ctx_other h u c hne]
    simp [hne]
  · intro q
    rw [State.port?_complete]
    show s2.port? _ _ = _
    rw [a.port, State.enter_port_site h]
    simp
  · intro u q hu
    rw [State.port?_complete]
    show s2.port? _ _ = _
    rw [a.port, State.enter_port h]
    simp [hu]
  · intro q
    rw [State.queue?_complete]
    show ((s2.queue? _ _).map _) = _
    rw [a.queue, State.enter_queue h]
    obtain ⟨_, ht, _⟩ := State.enter_spec h
    simp [State.queue?, ht]
  · intro u q hu
    rw [State.queue?_complete]
    show ((s2.queue? _ _).map _) = _
    rw [a.queue, State.enter_queue h]
    simp [hu]
  · obtain ⟨y, hy, hm, hc⟩ := hel
    have hmat := State.elem?_complete { s2 with cur := none } i e (e.raised x.flags) Elem.parts (fun _ _ => rfl) e.site.tile
    have hcnt := State.elem?_complete { s2 with cur := none } i e (e.raised x.flags) Elem.counts (fun _ _ => rfl) e.site.tile
    have hy' : State.elem? { s2 with cur := none } e.site.tile = some y := hy
    rw [hy'] at hmat hcnt
    cases hz : (State.complete { s2 with cur := none } i e (e.raised x.flags)).elem? e.site.tile with
    | none => rw [hz] at hmat; simp at hmat
    | some z =>
      rw [hz] at hmat hcnt
      simp only [Option.map_some, Option.some.injEq, if_true] at hmat hcnt
      refine ⟨z, rfl, ?_, ?_⟩
      · rw [hmat, ← hm]
        unfold Env.settleElem Elem.rotate
        split <;> rfl
      · rw [hcnt]
        have : (e.settleElem y).counts = y.counts.set e.site.slot.val (y.counts.get e.site.slot + 1) e.site.slot.isLt := by
          unfold Env.settleElem Elem.rotate
          split <;> rfl
        rw [this, Vector.get_set_same, hc]
  · intro u hu
    rw [State.elem?_complete { s2 with cur := none } i e (e.raised x.flags) Elem.parts (fun _ _ => rfl) u]
    show ((s2.elem? u).map _) = _
    have := a.parts u
    rw [State.enter_elem_other h u hu] at this
    simpa [hu] using this
  · intro u
    have h1 := State.tile?_complete { s2 with cur := none } i e (e.raised x.flags) Tile.mem (fun _ _ => rfl) u
    rw [State.tile?_take _ e _ Tile.mem (fun _ _ _ => rfl) u] at h1
    have h2 : (State.complete { s2 with cur := none } i e (e.raised x.flags)).mem? u = s2.mem? u := by
      have h1' : ((State.complete { s2 with cur := none } i e (e.raised x.flags)).tile? u).map Tile.mem = (s2.tile? u).map Tile.mem := h1
      simp only [State.mem?]
      cases h3 : (State.complete { s2 with cur := none } i e (e.raised x.flags)).tile? u <;> cases h4 : s2.tile? u <;> simp_all
    rw [h2, a.mem]
    obtain ⟨_, _, rfl, _⟩ := State.enter_spec h
    simp
  · rw [State.region?_complete]
    show ((s2.region? _).map _) = _
    rw [a.region, State.enter_region h, hs]
    simp
  · intro n hn
    rw [State.region?_complete]
    show ((s2.region? _).map _) = _
    rw [a.region, State.enter_region h]
    simp [hn]
  · rw [State.bare_complete]
    show s2.bare = _
    rw [a.bare]

/-- A meaning whose updates act by an effect gives a firing that is completed by that effect. -/
theorem Completed.of_acts {s s1 s2 : State} {i : Instr} {e : Env} {x : Effect} (h : s.enter i = some (e, s1)) (a : Acts s1 s2 e x) :
    Completed s (State.complete { s2 with cur := none } i e (e.raised x.flags)) i e x := by
  refine ⟨Fired.of_moves h a.toMoves, ?_, ?_⟩
  · refine SameOutsideRing.trans (t := { s2 with cur := none }) ?_ (State.complete_outside _ i e (e.raised x.flags))
    exact .of_eq (by show s2.hbm = _; rw [a.hbm, (State.enter_hbm h).1]) (by show s2.dbg = _; rw [a.dbg, (State.enter_hbm h).2.1])
      (by show s2.watched = _; rw [a.watched, (State.enter_hbm h).2.2])
  · intro hk
    have := State.complete_hbm { s2 with cur := none } i e (e.raised x.flags) hk
    rw [this.1, this.2.1, this.2.2]
    exact ⟨by show s2.hbm = _; rw [a.hbm, (State.enter_hbm h).1], by show s2.dbg = _; rw [a.dbg, (State.enter_hbm h).2.1],
      by show s2.watched = _; rw [a.watched, (State.enter_hbm h).2.2]⟩

/-- A firing that gets under way and whose meaning acts by an effect, without a trap. -/
theorem fire_completed {s s1 s2 : State} {i : Instr} {e : Env} {k : Env → State → Res} {x : Effect} (h : s.enter i = some (e, s1))
    (hk : k e s1 = .done s2 x.flags) (hf : (sideTrapf e.side && x.flags.traps) = false) (a : Acts s1 s2 e x) :
    ∃ t, fire i s k = .next t ∧ Completed s t i e x :=
  ⟨_, fire_done h hk hf, Completed.of_acts h a⟩

/-! ## Acts of the named updates -/

/-- No update at all. -/
theorem Acts.refl (s : State) (e : Env) : Acts s s e { bare := s } where
  ctx u c := by simp
  port u q := by simp
  queue u q := rfl
  parts u := by simp
  counts u := rfl
  mem u := rfl
  region n := by simp
  bare := rfl
  hbm := rfl
  dbg := rfl
  watched := rfl

/-- A change of the firing's own context. -/
theorem Acts.modCtx (s : State) (e : Env) (f : Ctx → Ctx) : Acts s (s.modCtx e.site.tile e.site.ctx f) e { ctx := f, bare := s } where
  ctx u c := by simp
  port u q := by simp
  queue u q := by simp
  parts u := by simp
  counts u := by simp
  mem u := by simp
  region n := by simp
  bare := by simp
  hbm := by simp
  dbg := by simp
  watched := by simp

/-- A token sent. -/
theorem Acts.send (s : State) (e : Env) (q : Fin 4) (tag : BitVec 2) (pay : Payload) (side : SideBand) :
    Acts s (s.send e q tag pay side) e
      (Effect.mk (fun c => { c with mark := false }) (fun r => if r = q then [.full (e.token s.cycle tag pay side) none s.cycle] else [])
        id id 0 s) where
  ctx u c := by simp [State.send]
  port u r := by
    simp only [State.send, State.port?_modCtx, State.port?_putPort]
    congr 1
    funext l
    by_cases hu : u = e.site.tile <;> by_cases hr : r = q <;> simp [hu, hr]
  queue u q := by simp [State.send]
  parts u := by simp [State.send]
  counts u := by simp [State.send]
  mem u := by simp [State.send]
  region n := by simp [State.send]
  bare := by simp [State.send]
  hbm := by simp [State.send]
  dbg := by simp [State.send]
  watched := by simp [State.send]

/-- A change of the firing's own region. -/
theorem Acts.modRegion (s : State) (e : Env) (f : Region → Region) :
    Acts s (s.modRegion e.ctx.region f) e { region := f, bare := s } where
  ctx u c := by simp [State.ctx?, Function.comp_def]
  port u q := by simp [State.port?, Function.comp_def]
  queue u q := by simp [State.queue?]
  parts u := by simp
  counts u := by simp
  mem u := by simp
  region n := by
    by_cases hn : n = e.ctx.region
    · subst hn; simp
    · rw [State.region?_modRegion_other _ _ _ _ hn]; simp [hn]
  bare := by simp
  hbm := by simp
  dbg := by simp
  watched := by simp

/-- Two acts in turn. -/
theorem Acts.trans {s s1 s2 : State} {e : Env} {x y : Effect} (a : Acts s s1 e x) (b : Acts s1 s2 e y) :
    Acts s s2 e ⟨y.ctx ∘ x.ctx, fun q => x.sent q ++ y.sent q, y.parts ∘ x.parts, y.region ∘ x.region, 0, y.bare⟩ where
  ctx u c := by
    rw [b.ctx, a.ctx, Option.map_map]
    congr 1
    funext z
    by_cases h : u = e.site.tile ∧ c = e.site.ctx <;> simp [h]
  port u q := by
    rw [b.port, a.port, Option.map_map]
    congr 1
    funext z
    by_cases h : u = e.site.tile <;> simp [h]
  queue u q := by rw [b.queue, a.queue]
  parts u := by
    have ha := a.parts u
    rw [b.parts]
    cases h1 : s1.elem? u <;> cases h2 : s.elem? u <;> simp_all
  counts u := by rw [b.counts, a.counts]
  mem u := by rw [b.mem, a.mem]
  region n := by
    rw [b.region, a.region, Option.map_map]
    congr 1
    funext z
    by_cases h : n = e.ctx.region <;> simp [h]
  bare := b.bare
  hbm := by rw [b.hbm, a.hbm]
  dbg := by rw [b.dbg, a.dbg]
  watched := by rw [b.watched, a.watched]

/-- A result written to a scalar destination. -/
theorem Acts.writeS (s : State) (e : Env) (d : SDst) (w : Word) :
    Acts s (s.writeS e d w) e { ctx := d.ctx w, sent := e.sent s.cycle d.any (.s w), bare := s } := by
  cases d with
  | s n => exact .modCtx s e _
  | o q => exact .send s e q _ _ _
  | oe q => exact .send s e q _ _ _
  | nul => exact .refl s e

/-- A result written to a vector destination. -/
theorem Acts.writeV (s : State) (e : Env) (d : VDst) (x : Vec) :
    Acts s (s.writeV e d x) e { ctx := d.ctx x, sent := e.sent s.cycle d.any (.v x), bare := s } := by
  cases d with
  | v n => exact .modCtx s e _
  | o q => exact .send s e q _ _ _
  | oe q => exact .send s e q _ _ _
  | nul => exact .refl s e

/-- The flags that an effect sets are no part of what its updates do. -/
theorem Acts.withFlags {s s' : State} {e : Env} {x : Effect} (a : Acts s s' e x) (f : Flags) : Acts s s' e { x with flags := f } :=
  ⟨⟨a.ctx, a.port, a.queue, a.parts, a.counts, a.mem, a.region, a.bare⟩, a.hbm, a.dbg, a.watched⟩

/-- An effect that is seen from the state before the firing. -/
theorem Acts.seen {s s1 s' : State} {i : Instr} {e : Env} {x : Effect} (h : s.enter i = some (e, s1)) (hx : x.bare = s1)
    (a : Acts s1 s' e x) : Acts s1 s' e { x with bare := s } :=
  ⟨⟨a.ctx, a.port, a.queue, a.parts, a.counts, a.mem, a.region, by rw [a.bare, hx]; exact State.enter_bare h⟩, a.hbm, a.dbg, a.watched⟩

/-- The cycle does not change while a firing gets under way. -/
theorem State.enter_cycle {s s1 : State} {i : Instr} {e : Env} (h : s.enter i = some (e, s1)) : s1.cycle = s.cycle := by
  obtain ⟨_, _, rfl, _⟩ := State.enter_spec h
  simp

end Sys2Proof.Machine
end

