-- ==== Sys2Proof/Laws/Memory.lean ====
section
/-!
SUPPORT. The shared operations on memories keep their canonical form: HBM through the port caches, the SRAM and full-empty bits of the memory
tiles, flash, the trace ring, and the operations that take a rectangle's memory out of the die or put it back.
-/
namespace Sys2Proof.Machine

/-- What the canonical form of all memories says. -/
theorem State.memWf_iff (s : State) :
    s.memWf = true ↔ SMap.wf 0 s.hbm = true ∧ SMap.wf 0 s.sram = true ∧ SMap.wf 0 s.flash = true ∧ SMap.wf false s.full = true := by
  simp [State.memWf, Memory.wf, and_assoc]

/-- States with the same memories are in canonical form together. -/
theorem State.memWf_congr {s t : State} (hh : t.hbm = s.hbm) (hs : t.sram = s.sram) (hf : t.flash = s.flash) (hb : t.full = s.full) :
    t.memWf = s.memWf := by simp only [State.memWf, hh, hs, hf, hb]

/-- A fold keeps the canonical form if every step of it does. -/
theorem State.memWf_foldl {α : Type} (f : State → α → State) (hf : ∀ s x, s.memWf = true → (f s x).memWf = true) (xs : List α) (s : State)
    (h : s.memWf = true) : (xs.foldl f s).memWf = true := by
  induction xs generalizing s with
  | nil => exact h
  | cons x xs ih => exact ih _ (hf s x h)

@[simp] theorem State.tick_memWf (s : State) : s.tick.memWf = s.memWf := rfl
@[simp] theorem State.fresh_memWf (s : State) : s.fresh.memWf = s.memWf := rfl
@[simp] theorem State.at_memWf (s : State) (c : Nat) (i : Instr) : (s.at c i).memWf = s.memWf := rfl
@[simp] theorem State.setTile_memWf (s : State) (t : Nat) (x : Tile) : (s.setTile t x).memWf = s.memWf := rfl
@[simp] theorem State.modRegion_memWf (s : State) (n : Nat) (f : Region → Region) : (s.modRegion n f).memWf = s.memWf :=
  State.memWf_congr (by simp) (by simp) (by simp) (by simp)

/-! ## SRAM and full-empty bits -/

theorem State.putSram_memWf {s : State} (t off : Nat) (bs : List Byte) (h : s.memWf = true) : (s.putSram t off bs).memWf = true := by
  rw [State.memWf_iff] at h ⊢
  exact ⟨h.1, wf_writeBytes _ _ _ h.2.1, h.2.2⟩

theorem State.setFull_memWf {s : State} (t g : Nat) (b : Bool) (h : s.memWf = true) : (s.setFull t g b).memWf = true := by
  rw [State.memWf_iff] at h ⊢
  exact ⟨h.1, h.2.1, h.2.2.1, SMap.wf_write _ _ _ _ h.2.2.2⟩

theorem State.setFulls_memWf {s : State} (t off n : Nat) (b : Bool) (h : s.memWf = true) : (s.setFulls t off n b).memWf = true :=
  State.memWf_foldl _ (fun _ g hs => State.setFull_memWf t g b hs) _ _ h

theorem State.storeSram_memWf {s : State} (t off : Nat) (bs : List Byte) (h : s.memWf = true) : (s.storeSram t off bs).memWf = true :=
  State.setFulls_memWf _ _ _ _ (State.putSram_memWf _ _ _ h)

theorem State.putC_memWf {s : State} (t row n v : Nat) (h : s.memWf = true) : (s.putC t row n v).memWf = true := State.putSram_memWf _ _ _ h

theorem State.putSpot_memWf {s : State} (r : Region) (t off : Nat) (bs : Option (List Byte)) (h : s.memWf = true) :
    (s.putSpot r t off bs).memWf = true := by
  unfold State.putSpot
  split
  · simpa using h
  · split
    · cases bs with
      | none => exact State.setFull_memWf _ _ _ h
      | some b => exact State.storeSram_memWf _ _ _ h
    · exact h

theorem State.putSum_memWf {s : State} (t off : Nat) (bs : List Byte) (h : s.memWf = true) : (s.putSum t off bs).memWf = true := by
  refine State.memWf_foldl _ (fun s x hs => ?_) _ _ h
  dsimp only
  split
  · exact hs
  · exact State.storeSram_memWf _ _ _ hs

/-! ## The trace ring and the watchpoints -/

@[simp] theorem State.watch_memWf (s : State) (die k n kind cls : Nat) : (s.watch die k n kind cls).memWf = s.memWf := by
  rw [State.watch_only]; rfl

@[simp] theorem State.watchSys_memWf (s : State) (k n kind : Nat) : (s.watchSys k n kind).memWf = s.memWf := State.watch_memWf _ _ _ _ _ _

theorem State.traceRecord_memWf {s : State} (rec : Nat) (h : s.memWf = true) : (s.traceRecord rec).memWf = true := by
  unfold State.traceRecord
  split
  · exact h
  · dsimp only
    split
    · exact h
    · rw [State.watchSys_memWf]
      rw [State.memWf_iff] at h ⊢
      exact ⟨wf_writeBytes _ _ _ h.1, h.2⟩

theorem State.sinkLog_memWf {s : State} (region : Nat) (k : Token) (disc : Bool) (h : s.memWf = true) : (s.sinkLog region k disc).memWf = true := by
  unfold State.sinkLog
  split
  · exact State.traceRecord_memWf _ h
  · exact h

/-! ## HBM and the port caches -/

theorem State.flushSector_memWf {s : State} (sec : Nat) (x : Sector) (h : s.memWf = true) : (s.flushSector sec x).memWf = true := by
  rw [State.memWf_iff] at h ⊢
  refine ⟨SMap.wf_foldl 0 _ (fun m i hm => ?_) _ _ h.1, h.2⟩
  split
  · exact SMap.wf_write _ _ _ _ hm
  · exact hm

@[simp] theorem State.retest_memWf (s : State) (ls : List Nat) : (s.retest ls).memWf = s.memWf := by
  unfold State.retest
  dsimp only
  split <;> rfl

theorem State.writeBackLine_memWf {s : State} (key : Nat) (l : Line) (h : s.memWf = true) : (s.writeBackLine key l).memWf = true := by
  unfold State.writeBackLine
  rw [State.retest_memWf]
  exact State.memWf_foldl _ (fun _ _ hs => State.flushSector_memWf _ _ hs) _ _ h

theorem State.lines_memWf (s : State) (x : SMap Line) : State.memWf { s with lines := x } = s.memWf := rfl

theorem State.hold_memWf {s : State} (die line : Nat) (h : s.memWf = true) : (s.hold die line).memWf = true := by
  unfold State.hold
  split
  · exact h
  · dsimp only
    split
    · exact h
    · split
      · exact h
      · exact (State.lines_memWf _ _).trans ((State.tick_memWf _).trans (State.writeBackLine_memWf _ _ h))

theorem State.settleLine_memWf {s : State} (die line : Nat) (h : s.memWf = true) : (s.settleLine die line).memWf = true := by
  refine State.memWf_foldl _ (fun s d hs => ?_) _ _ h
  split
  · split
    · exact State.writeBackLine_memWf _ _ hs
    · exact hs
  · exact hs

@[simp] theorem State.modSector_memWf (s : State) (die sec : Nat) (f : Sector → Sector) : (s.modSector die sec f).memWf = s.memWf := by
  unfold State.modSector
  split <;> rfl

@[simp] theorem State.fillSector_memWf (s : State) (die sec : Nat) : (s.fillSector die sec).memWf = s.memWf := State.modSector_memWf _ _ _ _

theorem State.touch_memWf {s : State} (die k n : Nat) (h : s.memWf = true) : (s.touch die k n).memWf = true := by
  unfold State.touch
  split
  · exact h
  · exact State.memWf_foldl _ (fun s _ hs => by rw [State.fillSector_memWf]; exact State.hold_memWf _ _ hs) _ _ h

theorem State.storeHome_memWf {s : State} (k : Nat) (bs : List Byte) (h : s.memWf = true) : (s.storeHome k bs).memWf = true := by
  unfold State.storeHome
  rw [State.retest_memWf]
  rw [State.memWf_iff] at h ⊢
  exact ⟨wf_writeBytes _ _ _ h.1, h.2⟩

theorem State.storeDie_memWf {s : State} (die k : Nat) (bs : List Byte) (h : s.memWf = true) : (s.storeDie die k bs).memWf = true := by
  unfold State.storeDie
  split
  · exact State.storeHome_memWf _ _ h
  · rw [State.retest_memWf]
    exact State.memWf_foldl _ (fun s _ hs => by rw [State.modSector_memWf]; exact hs) _ _
      (State.memWf_foldl _ (fun s _ hs => State.hold_memWf _ _ (State.settleLine_memWf _ _ hs)) _ _ h)

@[simp] theorem State.pendByte_memWf (s : State) (die task k : Nat) (b : Byte) : (s.pendByte die task k b).memWf = s.memWf := by
  unfold State.pendByte
  split <;> rfl

theorem State.storePending_memWf {s : State} (die task k : Nat) (bs : List Byte) (h : s.memWf = true) : (s.storePending die task k bs).memWf = true :=
  State.memWf_foldl _ (fun s _ hs => by rw [State.pendByte_memWf]; exact hs) _ _ (State.memWf_foldl _ (fun s _ hs => State.hold_memWf _ _ hs) _ _ h)

theorem State.commitSector_memWf {s : State} (p : Pending) (h : s.memWf = true) : (s.commitSector p).memWf = true := by
  have h1 := State.hold_memWf p.die (p.sec / 4) (State.settleLine_memWf p.die (p.sec / 4) h)
  unfold State.commitSector
  dsimp only
  split
  · rw [State.retest_memWf, State.modSector_memWf]
    exact State.memWf_foldl _ (fun s _ hs => by rw [State.modSector_memWf]; exact hs) _ _ h1
  · exact State.memWf_foldl _ (fun s _ hs => State.storeHome_memWf _ _ hs) _ _ h1

theorem State.putHome_memWf {s : State} (k n x : Nat) (h : s.memWf = true) : (s.putHome k n x).memWf = true := State.storeHome_memWf _ _ h

theorem State.writeBack_memWf {s : State} (die : Nat) (r : Rng) (h : s.memWf = true) : (s.writeBack die r).memWf = true :=
  State.memWf_foldl _ (fun _ _ hs => State.writeBackLine_memWf _ _ hs) _ _ h

@[simp] theorem State.invalidate_memWf (s : State) (die : Nat) (r : Rng) : (s.invalidate die r).memWf = s.memWf := rfl

theorem State.reuse_memWf {s : State} (region die k n : Nat) (h : s.memWf = true) : (s.reuse region die k n).memWf = true :=
  State.memWf_foldl _ (fun s line hs => by dsimp only; rw [State.modRegion_memWf]; exact hs) _ _ h

theorem State.readAccess_memWf {s : State} (region die : Nat) (task : Option Nat) (k n cls : Nat) (h : s.memWf = true) :
    (s.readAccess region die task k n cls).1.memWf = true := by
  unfold State.readAccess
  rw [State.watch_memWf]
  exact State.reuse_memWf _ _ _ _ (State.touch_memWf _ _ _ h)

theorem State.writeAccess_memWf {s : State} (region die : Nat) (task : Option Nat) (k : Nat) (bs : List Byte) (cls : Nat) (h : s.memWf = true) :
    (s.writeAccess region die task k bs cls).memWf = true := by
  unfold State.writeAccess
  dsimp only
  rw [State.watch_memWf]
  refine State.reuse_memWf _ _ _ _ ?_
  cases task with
  | none => exact State.storeDie_memWf die k bs h
  | some t => exact State.storePending_memWf die t k bs h

theorem State.putWatched_memWf {s : State} (k : Nat) (bs : List Byte) (h : s.memWf = true) : (s.putWatched k bs).memWf = true := by
  unfold State.putWatched
  rw [State.watchSys_memWf]
  exact State.storeHome_memWf _ _ h

theorem State.dirtyPage_memWf {s : State} (pte : Option Nat) (h : s.memWf = true) : (s.dirtyPage pte).memWf = true := by
  unfold State.dirtyPage
  split
  · exact h
  · dsimp only
    split
    · exact h
    · rw [State.watchSys_memWf]
      exact State.putHome_memWf _ _ _ h

theorem State.fetchPage_memWf {s : State} (region va pte tableBase page pages : Nat) (h : s.memWf = true) :
    (s.fetchPage region va pte tableBase page pages).memWf = true := by
  unfold State.fetchPage
  split <;> exact h

/-! ## Pages and objects -/

theorem wf_copyRange (src dst : SMap Byte) (a b n : Nat) (h : SMap.wf 0 dst = true) : SMap.wf 0 (copyRange src dst a b n) = true :=
  SMap.wf_foldl 0 _ (fun _ _ hm => SMap.wf_write _ _ _ _ hm) _ _ (SMap.wf_filter _ _ _ h)

theorem State.flushPage_memWf {s : State} (k : Nat) (h : s.memWf = true) : (s.flushPage k).memWf = true :=
  State.memWf_foldl _ (fun _ _ hs => State.writeBack_memWf _ _ hs) _ _ h

theorem State.movePage_memWf {s : State} (old new : Nat) (h : s.memWf = true) : (s.movePage old new).memWf = true := by
  rw [State.memWf_iff] at h ⊢
  exact ⟨wf_copyRange _ _ _ _ _ h.1, h.2⟩

theorem State.zeroHome_memWf {s : State} (k n : Nat) (h : s.memWf = true) : (s.zeroHome k n).memWf = true := by
  unfold State.zeroHome
  rw [State.watchSys_memWf]
  rw [State.memWf_iff] at h ⊢
  exact ⟨SMap.wf_filter _ _ _ h.1, h.2⟩

/-! ## A rectangle's memory -/

theorem State.dropRect_memWf {s : State} (r : Region) (h : s.memWf = true) : (s.dropRect r).memWf = true := by
  rw [State.memWf_iff] at h ⊢
  exact ⟨h.1, SMap.wf_filter _ _ _ h.2.1, h.2.2.1, SMap.wf_filter _ _ _ h.2.2.2⟩

theorem State.spillRegs_memWf {s : State} (r : Region) (t : Nat) (e : Elem) (regs : List (Nat × Nat)) (h : s.memWf = true) :
    (s.spillRegs r t e regs).memWf = true := by
  refine State.memWf_foldl _ (fun s x hs => by rw [State.watch_memWf]; exact hs) _ _ ?_
  rw [State.memWf_iff] at h ⊢
  exact ⟨SMap.wf_foldl 0 _ (fun _ _ hm => wf_writeBytes _ _ _ hm) _ _ h.1, h.2⟩

theorem State.standSnapshot_memWf {s : State} (r : Region) (p : Snapshot) (h : s.memWf = true) : (s.standSnapshot r p).memWf = true := by
  have g : ∀ t : State, t.memWf = true → (State.memWf { t with
      sram := p.sram.foldl (fun m (k, b) => SMap.write 0 m (moveTile p.die p.x0 p.y0 r.w r.h r.base (k / 2 ^ 19) * 2 ^ 19 + k % 2 ^ 19) b) t.sram
      full := p.full.foldl (fun m (k, b) => SMap.write false m (moveTile p.die p.x0 p.y0 r.w r.h r.base (k / 2 ^ 15) * 2 ^ 15 + k % 2 ^ 15) b) t.full
      flights := t.flights ++ p.flights.map (Flight.shift (moveTile p.die p.x0 p.y0 r.w r.h r.base)) }) = true := fun t ht => by
    rw [State.memWf_iff] at ht ⊢
    exact ⟨ht.1, SMap.wf_foldl 0 _ (fun _ _ hm => SMap.wf_write _ _ _ _ hm) _ _ ht.2.1, ht.2.2.1,
      SMap.wf_foldl false _ (fun _ _ hm => SMap.wf_write _ _ _ _ hm) _ _ ht.2.2.2⟩
  refine g _ (State.memWf_foldl _ (fun s x hs => ?_) _ _ h)
  dsimp only
  split <;> exact hs

/-! ## Global loads -/

/-- What a global load's token on its way does in a cycle: nothing, or, the port having room, it enters the bound port, the others staying on their way in
their order (R122, R129). -/
theorem State.landRead_cases (s : State) (e : SEnv) :
    s.landRead e = s ∨ ∃ k due rest, e.gen.flying = (k, due) :: rest ∧ due ≤ s.cycle ∧ e.room = true ∧
      s.landRead e = (s.emit e k).modGen e.tile e.g (fun x => { x with flying := rest }) := by
  unfold State.landRead
  split
  · rename_i k due rest h
    split
    · rename_i c
      simp only [Bool.and_eq_true, decide_eq_true_eq] at c
      exact .inr ⟨k, due, rest, h, c.1, c.2, rfl⟩
    · exact .inl rfl
  · exact .inl rfl

/-- A stream whose region does not run, and a stream that is closed with nothing on its way, do nothing in a cycle. -/
theorem State.loadStream_idle (s : State) (e : SEnv) (h : e.active s = false ∨ (e.gen.open = false ∧ e.gen.flying = [])) : s.loadStream e = s := by
  unfold State.loadStream
  rcases h with h | ⟨ho, hf⟩
  · simp [h]
  · simp [ho, State.landRead, hf]

end Sys2Proof.Machine
end

