-- ==== Sys2Proof/Laws/PerInstr.lean ====
section
/-!
SUPPORT. The family Encoding: for each constructor, the word that `encode` gives a well-formed instruction decodes to that instruction (R77, R79, R92 to R95).
-/
namespace Sys2Proof

set_option linter.unusedSimpArgs false

/-! ## The operand bits of a word, by format -/

/-- Bits [18:0] of a word of format T. -/
def opsT (d a b x : Nat) : Nat := d * 8192 + a * 128 + b * 2 + x
/-- Bits [18:0] of a word of format U. -/
def opsU (d a fn : Nat) : Nat := d * 8192 + a * 128 + fn
/-- Bits [18:0] of a word of format I. -/
def opsI (d imm : Nat) : Nat := d * 8192 + imm
/-- Bits [18:0] of a word of format P. -/
def opsP (pd : Nat) (pol : Bool) (a b fn : Nat) : Nat := pd * 65536 + pol.toNat * 32768 + a * 512 + b * 8 + fn

section fields
variable {d a b x fn imm pd : Nat} {p : Bool}

@[simp] theorem fD_opsT (_ : d < 64) (_ : a < 64) (_ : b < 64) (_ : x < 2) : fD (opsT d a b x) = d := by simp only [fD, opsT]; omega
@[simp] theorem fA_opsT (_ : a < 64) (_ : b < 64) (_ : x < 2) : fA (opsT d a b x) = a := by simp only [fA, opsT]; omega
@[simp] theorem fB_opsT (_ : b < 64) (_ : x < 2) : fB (opsT d a b x) = b := by simp only [fB, opsT]; omega
@[simp] theorem fX_opsT (_ : x < 2) : fX (opsT d a b x) = x := by simp only [fX, opsT]; omega
@[simp] theorem opsT_mod (_ : x < 2) : opsT d a b x % 2 = x := by simp only [opsT]; omega
@[simp] theorem fD_opsU (_ : d < 64) (_ : a < 64) (_ : fn < 128) : fD (opsU d a fn) = d := by simp only [fD, opsU]; omega
@[simp] theorem fA_opsU (_ : a < 64) (_ : fn < 128) : fA (opsU d a fn) = a := by simp only [fA, opsU]; omega
@[simp] theorem fFN_opsU (_ : fn < 128) : fFN (opsU d a fn) = fn := by simp only [fFN, opsU]; omega
@[simp] theorem opsU_mod2 : opsU d a fn % 2 = fn % 2 := by simp only [opsU]; omega
@[simp] theorem opsU_mod4 : opsU d a fn % 4 = fn % 4 := by simp only [opsU]; omega
@[simp] theorem opsU_mod8 : opsU d a fn % 8 = fn % 8 := by simp only [opsU]; omega
@[simp] theorem opsU_bit1 : opsU d a fn / 2 % 2 = fn / 2 % 2 := by simp only [opsU]; omega
@[simp] theorem opsU_bit3 : opsU d a fn / 8 % 2 = fn / 8 % 2 := by simp only [opsU]; omega
@[simp] theorem opsU_bit4 : opsU d a fn / 16 % 2 = fn / 16 % 2 := by simp only [opsU]; omega
@[simp] theorem fin4_opsU : fin 4 (opsU d a fn) = fin 4 fn := Fin.ext (by simp only [fin, opsU]; omega)
@[simp] theorem fin8_opsU : fin 8 (opsU d a fn) = fin 8 fn := Fin.ext (by simp only [fin, opsU]; omega)
@[simp] theorem fin16_opsU : fin 16 (opsU d a fn) = fin 16 fn := Fin.ext (by simp only [fin, opsU]; omega)
@[simp] theorem fin8_opsU_div : fin 8 (opsU d a fn / 8) = fin 8 (fn / 8 % 16) := Fin.ext (by simp only [fin, opsU]; omega)
@[simp] theorem fD_opsI (_ : d < 64) (_ : imm < 8192) : fD (opsI d imm) = d := by simp only [fD, opsI]; omega
@[simp] theorem fImm_opsI (_ : imm < 8192) : fImm (opsI d imm) = imm := by simp only [fImm, opsI]; omega
@[simp] theorem pPD_opsP (_ : pd < 8) (_ : a < 64) (_ : b < 64) (_ : fn < 8) : pPD (opsP pd p a b fn) = pd := by
  cases p <;> simp only [pPD, opsP, Bool.toNat_true, Bool.toNat_false] <;> omega
@[simp] theorem pPOL_opsP (_ : a < 64) (_ : b < 64) (_ : fn < 8) : pPOL (opsP pd p a b fn) = p := by
  cases p <;> simp only [pPOL, opsP, Bool.toNat_true, Bool.toNat_false, beq_iff_eq, beq_eq_false_iff_ne, ne_eq] <;> omega
@[simp] theorem pA_opsP (_ : a < 64) (_ : b < 64) (_ : fn < 8) : pA (opsP pd p a b fn) = a := by
  cases p <;> simp only [pA, opsP, Bool.toNat_true, Bool.toNat_false] <;> omega
@[simp] theorem pB_opsP (_ : b < 64) (_ : fn < 8) : pB (opsP pd p a b fn) = b := by
  cases p <;> simp only [pB, opsP, Bool.toNat_true, Bool.toNat_false] <;> omega
@[simp] theorem pFN_opsP (_ : fn < 8) : pFN (opsP pd p a b fn) = fn := by
  cases p <;> simp only [pFN, opsP, Bool.toNat_true, Bool.toNat_false] <;> omega

end fields

/-! ## Codes: their range, and that decoding a code gives back what it stands for -/

@[simp] theorem Trig.dec_enc (t : Trig) : Trig.dec t.enc = .ok t := by
  cases t <;> first | rfl | (rename_i n; revert n; decide) | (rename_i n m; revert n m; decide)
theorem Trig.enc_lt (t : Trig) : t.enc < 64 := by cases t <;> simp only [Trig.enc] <;> omega
@[simp] theorem SSrc.dec_enc (a : SSrc) : SSrc.dec a.enc = .ok a := by cases a <;> (rename_i n; revert n; decide)
@[simp] theorem SSrc.enc_lt (a : SSrc) : a.enc < 64 := by cases a <;> simp only [SSrc.enc] <;> omega
@[simp] theorem VSrc.dec_enc (a : VSrc) : VSrc.dec a.enc = .ok a := by cases a <;> (rename_i n; revert n; decide)
@[simp] theorem VSrc.enc_lt (a : VSrc) : a.enc < 64 := by cases a <;> simp only [VSrc.enc] <;> omega
@[simp] theorem ASrc.dec_enc (a : ASrc) : ASrc.dec a.enc = .ok a := by cases a <;> (rename_i n; revert n; decide)
@[simp] theorem ASrc.enc_lt (a : ASrc) : a.enc < 64 := by cases a <;> simp only [ASrc.enc] <;> omega
@[simp] theorem SDst.dec_enc (d : SDst) : SDst.dec d.enc = .ok d := by cases d <;> first | rfl | (rename_i n; revert n; decide)
@[simp] theorem SDst.enc_lt (d : SDst) : d.enc < 64 := by cases d <;> simp only [SDst.enc] <;> omega
@[simp] theorem VDst.dec_enc (d : VDst) : VDst.dec d.enc = .ok d := by cases d <;> first | rfl | (rename_i n; revert n; decide)
@[simp] theorem VDst.enc_lt (d : VDst) : d.enc < 64 := by cases d <;> simp only [VDst.enc] <;> omega
@[simp] theorem ADst.dec_enc (d : ADst) : ADst.dec d.enc = .ok d := by cases d <;> first | rfl | (rename_i n; revert n; decide)
@[simp] theorem ADst.enc_lt (d : ADst) : d.enc < 64 := by cases d <;> simp only [ADst.enc] <;> omega
@[simp] theorem RDst.dec_enc (d : RDst) : RDst.dec d.enc = .ok d := by cases d <;> first | rfl | (rename_i n; revert n; decide)
@[simp] theorem RDst.enc_lt (d : RDst) : d.enc < 64 := by cases d <;> simp only [RDst.enc] <;> omega
@[simp] theorem sregDec_enc : ∀ d : Fin 16, sregDec (32 + d.val) = .ok d := by decide
@[simp] theorem vregDec_enc : ∀ d : Fin 32, vregDec d.val = .ok d := by decide
@[simp] theorem portDec_enc : ∀ q : Fin 4, portDec (48 + q.val) = .ok q := by decide
@[simp] theorem queueDec_enc : ∀ q : Fin 4, queueDec (48 + q.val) = .ok q := by decide
@[simp] theorem maskDec_enc : ∀ k : Fin 4, maskDec k.val = .ok k := by decide
@[simp] theorem pdMaskDec_enc : ∀ k : Fin 4, pdMaskDec k.val = .ok k := by decide
@[simp] theorem predDec_enc : ∀ p : Fin 8, predDec p.val = .ok p := by decide
@[simp] theorem evenDec_enc : ∀ n : Fin 8, evenDec 14 (evenEnc n) = .ok n := by decide
@[simp] theorem evenDec_enc_12 : ∀ n : Fin 8, n.val < 7 → evenDec 12 (evenEnc n) = .ok n := by decide
@[simp] theorem evenEnc_lt (n : Fin 8) : evenEnc n < 64 := by simp only [evenEnc]; omega
@[simp] theorem sreg_lt (d : Fin 16) : 32 + d.val < 64 := by omega
@[simp] theorem port_lt (q : Fin 4) : 48 + q.val < 64 := by omega
@[simp] theorem vreg_lt (d : Fin 32) : d.val < 64 := by omega
@[simp] theorem mask_lt (d : Fin 4) : d.val < 64 := by omega
@[simp] theorem pred_lt (d : Fin 8) : d.val < 64 := by omega
@[simp] theorem mask_lt8 (d : Fin 4) : d.val < 8 := by omega
@[simp] theorem Cond.dec_enc (c : Cond) : Cond.dec c.enc = .ok c := by cases c <;> rfl
@[simp] theorem Cond.enc_lt (c : Cond) : c.enc < 8 := by cases c <;> decide
@[simp] theorem LogOp.dec_enc (c : LogOp) : LogOp.dec c.enc = .ok c := by cases c <;> rfl
@[simp] theorem LogOp.enc_lt (c : LogOp) : c.enc < 8 := by cases c <;> decide
@[simp] theorem RMode.dec_enc (c : RMode) : RMode.dec c.enc = .ok c := by cases c <;> rfl
theorem RMode.enc_lt (c : RMode) : c.enc < 8 := by cases c <;> decide
@[simp] theorem Prec.dec_enc (c : Prec) : Prec.dec c.enc = .ok c := by cases c <;> rfl
@[simp] theorem Prec.enc_lt (c : Prec) : c.enc < 128 := by cases c <;> decide
@[simp] theorem SysReg.dec_enc (g : SysReg) : SysReg.dec g.enc = .ok g := by cases g <;> first | rfl | (rename_i n; revert n; decide)
@[simp] theorem SysReg.enc_lt (g : SysReg) : g.enc < 128 := by cases g <;> simp only [SysReg.enc] <;> omega
@[simp] theorem WField.dec_enc (f : WField) : WField.dec f.enc = .ok f := by cases f <;> first | rfl | (rename_i n; revert n; decide)
@[simp] theorem WField.enc_lt (f : WField) : f.enc < 128 := by cases f <;> simp only [WField.enc] <;> omega
@[simp] theorem AtOrd.dec_enc (o : AtOrd) : AtOrd.dec o.enc = .ok o := by
  cases o <;> first | (rename_i u; cases u <;> rfl) | (rename_i o c; cases o <;> cases c <;> rfl)
@[simp] theorem AtOrd.enc_lt (o : AtOrd) : o.enc < 128 := by
  cases o <;> first | (rename_i u; cases u <;> decide) | (rename_i o c; cases o <;> cases c <;> decide)
@[simp] theorem fin_val_eq {k : Nat} (h : 0 < k) (n : Fin k) : fin k n.val h = n := Fin.ext (Nat.mod_eq_of_lt n.isLt)

@[simp] theorem Dec.need_false {α : Type} (c : Nat) (x : Dec α) : Dec.need false c x = x := rfl
@[simp] theorem Dec.app_ok {α β : Type} (f : α → β) (a : α) : Dec.app (.ok f) (.ok a) = .ok (f a) := rfl

/-! ## A word of each format -/

theorem word_toNat {n opc r : Nat} (hn : n < 64) (ho : opc < 128) (hr : r < 524288) :
    (BitVec.ofNat 32 (n * 67108864 + opc * 524288 + r)).toNat = n * 67108864 + opc * 524288 + r := by
  rw [BitVec.toNat_ofNat, Nat.mod_eq_of_lt]; omega
theorem word_opc {n opc r : Nat} (ho : opc < 128) (hr : r < 524288) : (n * 67108864 + opc * 524288 + r) / 524288 % 128 = opc := by omega
theorem word_ops {n opc r : Nat} (hr : r < 524288) : (n * 67108864 + opc * 524288 + r) % 524288 = r := by omega
theorem word_trig {n opc r : Nat} (ho : opc < 128) (hr : r < 524288) : (n * 67108864 + opc * 524288 + r) / 67108864 = n := by omega
theorem decodeSlot_eq (w : BitVec 32) :
    decodeSlot w = Dec.app (decodeOp (w.toNat / 524288 % 128) (w.toNat % 524288)) (Trig.dec (w.toNat / 67108864)) := rfl

/-- A word whose operand bits decode to a family of instructions decodes to its member at the trigger of the word. -/
theorem decodeWord_ops {t : Trig} {opc r : Nat} {k : Trig → Instr} (ho : opc < 128) (hr : r < 524288) (h : decodeOp opc r = .ok k) :
    decodeWord (BitVec.ofNat 32 (t.enc * 67108864 + opc * 524288 + r)) = some (k t) := by
  rw [decodeWord, decodeSlot_eq, word_toNat t.enc_lt ho hr, word_opc ho hr, word_ops hr, word_trig ho hr, h, Trig.dec_enc]; rfl

/-! ## A shape applied to the codes of its operands -/

theorem tS_ops (d : SDst) (a b : SSrc) (k : SDst → SSrc → SSrc → Trig → Instr) : tS (opsT d.enc a.enc b.enc 0) k = .ok (k d a b) := by
  simp [tS, Dec.ap1, Dec.ap2, Dec.ap3]
theorem tV_ops (d : VDst) (a b : VSrc) (k : VDst → VSrc → VSrc → Trig → Instr) : tV (opsT d.enc a.enc b.enc 0) k = .ok (k d a b) := by
  simp [tV, Dec.ap1, Dec.ap2, Dec.ap3]
theorem tF_ops (d : Fin 32) (a b : VSrc) (k : Fin 32 → VSrc → VSrc → Trig → Instr) : tF (opsT d.val a.enc b.enc 0) k = .ok (k d a b) := by
  simp [tF, Dec.ap1, Dec.ap2, Dec.ap3]
theorem tQ_ops (q : Fin 4) (a b : SSrc) (k : Fin 4 → SSrc → SSrc → Trig → Instr) : tQ (opsT (48 + q.val) a.enc b.enc 0) k = .ok (k q a b) := by
  simp [tQ, Dec.ap1, Dec.ap2, Dec.ap3]
theorem tE_ops (q : Fin 4) (n : Fin 8) (b : SSrc) (k : Fin 4 → Fin 8 → SSrc → Trig → Instr) : tE (opsT (48 + q.val) (evenEnc n) b.enc 0) k = .ok (k q n b) := by
  simp [tE, Dec.ap1, Dec.ap2, Dec.ap3]
theorem tR_ops (d : RDst) (a : SSrc) (b : ASrc) (k : RDst → SSrc → ASrc → Trig → Instr) : tR (opsT d.enc a.enc b.enc 0) k = .ok (k d a b) := by
  simp [tR, Dec.ap1, Dec.ap2, Dec.ap3]
theorem iS_ops (d : Fin 16) (i : BitVec 13) (k : Fin 16 → BitVec 13 → Trig → Instr) : iS (opsI (32 + d.val) i.toNat) k = .ok (k d i) := by
  have := i.isLt
  have e : i.toNat < 8192 := by omega
  simp [iS, Dec.ap1, e]
theorem iC_ops (d : Fin 16) (i : Fin 64) (k : Fin 16 → Fin 64 → Trig → Instr) : iC (opsI (32 + d.val) i.val) k = .ok (k d i) := by
  have h : i.val < 8192 := by omega
  have g : ¬ 64 ≤ i.val := by omega
  simp [iC, Dec.ap1, h, g]

theorem RDst.enc_eq_nul (r : RDst) : r.enc = 56 ↔ r = .nul := by
  cases r with
  | nul => simp [RDst.enc]
  | i q => have := q.isLt; simp only [RDst.enc, reduceCtorEq, iff_false]; omega

theorem uAt_ops (r : RDst) (n : Fin 8) (o : AtOrd) (limit : Nat) (bad : Nat → Bool) (k : RDst → Fin 8 → AtOrd → Trig → Instr) (c q : Bool)
    (hn : evenDec limit (evenEnc n) = .ok n) (hb : ∀ u < 8, bad u = true → u = 1 ∧ c = false ∨ u = 3 ∧ q = false) (hw : o.wf r c q = true) :
    uAt (opsU r.enc (evenEnc n) o.enc) limit bad k = .ok (k r n o) := by
  have e := RDst.enc_eq_nul r
  have hfn : fFN (opsU r.enc (evenEnc n) o.enc) = o.enc := by simp
  have h1 : (decide (o.enc < 64) && bad (o.enc % 8)) = false := by
    by_contra h
    rw [Bool.not_eq_false, Bool.and_eq_true, decide_eq_true_eq] at h
    obtain ⟨hl, hbad⟩ := h
    rcases hb _ (by omega) hbad with ⟨hu, rfl⟩ | ⟨hu, rfl⟩ <;>
      cases o <;> rename_i u <;> cases u <;> simp_all [AtOrd.enc, AtUse.enc, AtOrd.wf] <;> omega
  have h2 : decide (o.enc < 64 ∧ o.enc % 8 = 1 ∧ r.enc ≠ 56) = false := by
    rw [decide_eq_false_iff_not, Ne, e]
    cases o <;> rename_i u <;> cases u <;> simp_all [AtOrd.enc, AtUse.enc, AtOrd.wf] <;> omega
  have h3 : decide (64 ≤ o.enc ∧ o.enc / 16 % 2 = 1 ∧ r.enc = 56) = false := by
    rw [decide_eq_false_iff_not, e]
    cases o with
    | relaxed u => cases u <;> simp [AtOrd.enc, AtUse.enc]
    | sync u sc => cases u <;> cases sc <;> simp_all [AtOrd.enc, SyncOrd.enc, Scope.enc, AtOrd.wf]
  simp [uAt, hfn, h1, h2, h3, hn, Dec.ap1, Dec.ap2, Dec.ap3]

/-! ## The family -/

namespace Laws.Encoding

/-- The word of a well-formed instruction decodes to that instruction. -/
def Statement (i : Instr) : Prop := ∀ w, i.wf = true → encode i = some w → decodeWord w = some i

/-- An event has no word, so nothing is to be shown of it. -/
theorem of_none {i : Instr} (h : encode i = none) : Statement i := fun w _ hw => by simp [h] at hw

/-- The decoded word is the encoded one. -/
theorem of_ops {i : Instr} {t : Trig} {opc r : Nat} (k : Trig → Instr) (hw : encode i = some (BitVec.ofNat 32 (t.enc * 67108864 + opc * 524288 + r)))
    (hk : k t = i) (ho : opc < 128) (hr : r < 524288) (h : i.wf = true → decodeOp opc r = .ok k) : Statement i := fun v hf hv => by
  rw [hw] at hv; cases hv; exact hk ▸ decodeWord_ops ho hr (h hf)

theorem of_wordT (t : Trig) (k : Trig → Instr) (opc d a b x : Nat) (hw : encode (k t) = some (wordT t opc d a b x)) (ho : opc < 128) (hd : d < 64)
    (ha : a < 64) (hb : b < 64) (hx : x < 2) (h : (k t).wf = true → decodeOp opc (opsT d a b x) = .ok k) : Statement (k t) :=
  of_ops k (by rw [hw]; simp only [wordT, opsT, Nat.add_assoc]) rfl ho (by simp only [opsT]; omega) h

theorem of_wordU (t : Trig) (k : Trig → Instr) (opc d a fn : Nat) (hw : encode (k t) = some (wordU t opc d a fn)) (ho : opc < 128) (hd : d < 64)
    (ha : a < 64) (hf : fn < 128) (h : (k t).wf = true → decodeOp opc (opsU d a fn) = .ok k) : Statement (k t) :=
  of_ops k (by rw [hw]; simp only [wordU, opsU, Nat.add_assoc]) rfl ho (by simp only [opsU]; omega) h

theorem of_wordI (t : Trig) (k : Trig → Instr) (opc d imm : Nat) (hw : encode (k t) = some (wordI t opc d imm)) (ho : opc < 128) (hd : d < 64)
    (hi : imm < 8192) (h : (k t).wf = true → decodeOp opc (opsI d imm) = .ok k) : Statement (k t) :=
  of_ops k (by rw [hw]; simp only [wordI, opsI, Nat.add_assoc]) rfl ho (by simp only [opsI]; omega) h

theorem of_wordP (t : Trig) (k : Trig → Instr) (opc pd : Nat) (p : Bool) (a b fn : Nat) (hw : encode (k t) = some (wordP t opc pd p a b fn))
    (ho : opc < 128) (hd : pd < 8) (ha : a < 64) (hb : b < 64) (hf : fn < 8) (h : (k t).wf = true → decodeOp opc (opsP pd p a b fn) = .ok k) :
    Statement (k t) :=
  of_ops k (by rw [hw]; simp only [wordP, opsP, Nat.add_assoc]) rfl ho
    (by have : p.toNat ≤ 1 := by cases p <;> decide
        simp only [opsP]; omega) h

theorem nop (t : Trig) : Statement (.nop t) :=
  of_wordU t (fun t => .nop t) 0x01 0 0 0 rfl (by decide) (by decide) (by decide) (by decide) (fun _ => by simp [decodeOp, Dec.ap1, Dec.ap2, Dec.ap3, Dec.ap4, row0, u0])
theorem halt (t : Trig) : Statement (.halt t) :=
  of_wordU t (fun t => .halt t) 0x01 0 0 1 rfl (by decide) (by decide) (by decide) (by decide) (fun _ => by simp [decodeOp, Dec.ap1, Dec.ap2, Dec.ap3, Dec.ap4, row0, u0])
theorem trap (t : Trig) : Statement (.trap t) :=
  of_wordU t (fun t => .trap t) 0x01 0 0 2 rfl (by decide) (by decide) (by decide) (by decide) (fun _ => by simp [decodeOp, Dec.ap1, Dec.ap2, Dec.ap3, Dec.ap4, row0, u0])
theorem tmark (t : Trig) : Statement (.tmark t) :=
  of_wordU t (fun t => .tmark t) 0x01 0 0 3 rfl (by decide) (by decide) (by decide) (by decide) (fun _ => by simp [decodeOp, Dec.ap1, Dec.ap2, Dec.ap3, Dec.ap4, row0, u0])
theorem rdsr (t : Trig) (d : SDst) (r : SysReg) : Statement (.rdsr t d r) :=
  of_wordU t (fun t => .rdsr t d r) 0x02 d.enc 0 r.enc rfl (by decide) (by simp) (by decide) (by simp) (fun _ => by simp [decodeOp, Dec.ap1, Dec.ap2, Dec.ap3, Dec.ap4, row0])
theorem wrsr (t : Trig) (a : SSrc) : Statement (.wrsr t a) :=
  of_wordU t (fun t => .wrsr t a) 0x03 0 a.enc 4 rfl (by decide) (by decide) (by simp) (by decide) (fun _ => by simp [decodeOp, Dec.ap1, Dec.ap2, Dec.ap3, Dec.ap4, row0, uA])
theorem movi (t : Trig) (d : Fin 16) (imm : BitVec 13) : Statement (.movi t d imm) :=
  of_wordI t (fun t => .movi t d imm) 0x04 (32 + d.val) imm.toNat rfl (by decide) (by omega) (by have := imm.isLt; omega) (fun _ => iS_ops d imm (fun d i t => .movi t d i))
theorem movhi (t : Trig) (d : Fin 16) (imm : BitVec 13) : Statement (.movhi t d imm) :=
  of_wordI t (fun t => .movhi t d imm) 0x05 (32 + d.val) imm.toNat rfl (by decide) (by omega) (by have := imm.isLt; omega) (fun _ => iS_ops d imm (fun d i t => .movhi t d i))
theorem sel (t : Trig) (o : SelOp) (pol : Bool) (n : Fin 8) : Statement (.sel t o pol n) := by
  have hf : 8 * pol.toNat + n.val < 128 := by cases pol <;> simp only [Bool.toNat_true, Bool.toNat_false] <;> omega
  have hs : ¬ 16 ≤ 8 * pol.toNat + n.val := by cases pol <;> simp only [Bool.toNat_true, Bool.toNat_false] <;> omega
  have hp : ((8 * pol.toNat + n.val) / 8 % 2 == 1) = pol := by revert pol n; decide
  have hn : fin 8 (8 * pol.toNat + n.val) = n := by revert pol n; decide
  cases o with
  | s d a =>
    have e : uSel (opsU (32 + d.val) a.enc (8 * pol.toNat + n.val)) = .ok (fun t => .sel t (.s d a) pol n) := by
      have hd : ¬ 32 + d.val < 32 := by omega
      simp [uSel, Sys2Proof.sub, Dec.ap1, Dec.ap2, hf, hs, hp, hn]
    exact of_wordU t (fun t => .sel t (.s d a) pol n) 0x06 (32 + d.val) a.enc (8 * pol.toNat + n.val) rfl (by decide) (by omega) (by simp) hf (fun _ => e)
  | v d a =>
    have e : uSel (opsU d.val a.enc (8 * pol.toNat + n.val)) = .ok (fun t => .sel t (.v d a) pol n) := by
      simp [uSel, Sys2Proof.sub, Dec.ap1, Dec.ap2, hf, hs, hp, hn]
    exact of_wordU t (fun t => .sel t (.v d a) pol n) 0x06 d.val a.enc (8 * pol.toNat + n.val) rfl (by decide) (by omega) (by simp) hf (fun _ => e)
theorem wfld (t : Trig) (d : SDst) (f : WField) : Statement (.wfld t d f) :=
  of_wordU t (fun t => .wfld t d f) 0x07 d.enc 0 f.enc rfl (by decide) (by simp) (by decide) (by simp) (fun _ => by simp [decodeOp, Dec.ap1, Dec.ap2, Dec.ap3, Dec.ap4, row0])
theorem add (t : Trig) (d : SDst) (a b : SSrc) : Statement (.add t d a b) :=
  of_wordT t (fun t => .add t d a b) 0x08 d.enc a.enc b.enc 0 rfl (by decide) (by simp) (by simp) (by simp) (by decide) (fun _ => tS_ops d a b _)
theorem addi (t : Trig) (d : Fin 16) (imm : BitVec 13) : Statement (.addi t d imm) :=
  of_wordI t (fun t => .addi t d imm) 0x09 (32 + d.val) imm.toNat rfl (by decide) (by omega) (by have := imm.isLt; omega) (fun _ => iS_ops d imm (fun d i t => .addi t d i))
theorem sub (t : Trig) (d : SDst) (a b : SSrc) : Statement (.sub t d a b) :=
  of_wordT t (fun t => .sub t d a b) 0x0A d.enc a.enc b.enc 0 rfl (by decide) (by simp) (by simp) (by simp) (by decide) (fun _ => tS_ops d a b _)
theorem mul (t : Trig) (d : SDst) (a b : SSrc) : Statement (.mul t d a b) :=
  of_wordT t (fun t => .mul t d a b) 0x0B d.enc a.enc b.enc 0 rfl (by decide) (by simp) (by simp) (by simp) (by decide) (fun _ => tS_ops d a b _)
theorem mulh (t : Trig) (d : SDst) (a b : SSrc) : Statement (.mulh t d a b) :=
  of_wordT t (fun t => .mulh t d a b) 0x0C d.enc a.enc b.enc 0 rfl (by decide) (by simp) (by simp) (by simp) (by decide) (fun _ => tS_ops d a b _)
theorem mulhu (t : Trig) (d : SDst) (a b : SSrc) : Statement (.mulhu t d a b) :=
  of_wordT t (fun t => .mulhu t d a b) 0x0D d.enc a.enc b.enc 0 rfl (by decide) (by simp) (by simp) (by simp) (by decide) (fun _ => tS_ops d a b _)
theorem div (t : Trig) (d : SDst) (a b : SSrc) : Statement (.div t d a b) :=
  of_wordT t (fun t => .div t d a b) 0x0E d.enc a.enc b.enc 0 rfl (by decide) (by simp) (by simp) (by simp) (by decide) (fun _ => tS_ops d a b _)
theorem divu (t : Trig) (d : SDst) (a b : SSrc) : Statement (.divu t d a b) :=
  of_wordT t (fun t => .divu t d a b) 0x0F d.enc a.enc b.enc 0 rfl (by decide) (by simp) (by simp) (by simp) (by decide) (fun _ => tS_ops d a b _)
theorem rem (t : Trig) (d : SDst) (a b : SSrc) : Statement (.rem t d a b) :=
  of_wordT t (fun t => .rem t d a b) 0x10 d.enc a.enc b.enc 0 rfl (by decide) (by simp) (by simp) (by simp) (by decide) (fun _ => tS_ops d a b _)
theorem remu (t : Trig) (d : SDst) (a b : SSrc) : Statement (.remu t d a b) :=
  of_wordT t (fun t => .remu t d a b) 0x11 d.enc a.enc b.enc 0 rfl (by decide) (by simp) (by simp) (by simp) (by decide) (fun _ => tS_ops d a b _)
theorem and (t : Trig) (d : SDst) (a b : SSrc) : Statement (.and t d a b) :=
  of_wordT t (fun t => .and t d a b) 0x12 d.enc a.enc b.enc 0 rfl (by decide) (by simp) (by simp) (by simp) (by decide) (fun _ => tS_ops d a b _)
theorem andi (t : Trig) (d : Fin 16) (imm : BitVec 13) : Statement (.andi t d imm) :=
  of_wordI t (fun t => .andi t d imm) 0x13 (32 + d.val) imm.toNat rfl (by decide) (by omega) (by have := imm.isLt; omega) (fun _ => iS_ops d imm (fun d i t => .andi t d i))
theorem or (t : Trig) (d : SDst) (a b : SSrc) : Statement (.or t d a b) :=
  of_wordT t (fun t => .or t d a b) 0x14 d.enc a.enc b.enc 0 rfl (by decide) (by simp) (by simp) (by simp) (by decide) (fun _ => tS_ops d a b _)
theorem ori (t : Trig) (d : Fin 16) (imm : BitVec 13) : Statement (.ori t d imm) :=
  of_wordI t (fun t => .ori t d imm) 0x15 (32 + d.val) imm.toNat rfl (by decide) (by omega) (by have := imm.isLt; omega) (fun _ => iS_ops d imm (fun d i t => .ori t d i))
theorem xor (t : Trig) (d : SDst) (a b : SSrc) : Statement (.xor t d a b) :=
  of_wordT t (fun t => .xor t d a b) 0x16 d.enc a.enc b.enc 0 rfl (by decide) (by simp) (by simp) (by simp) (by decide) (fun _ => tS_ops d a b _)
theorem xori (t : Trig) (d : Fin 16) (imm : BitVec 13) : Statement (.xori t d imm) :=
  of_wordI t (fun t => .xori t d imm) 0x17 (32 + d.val) imm.toNat rfl (by decide) (by omega) (by have := imm.isLt; omega) (fun _ => iS_ops d imm (fun d i t => .xori t d i))
theorem shl (t : Trig) (d : SDst) (a b : SSrc) : Statement (.shl t d a b) :=
  of_wordT t (fun t => .shl t d a b) 0x18 d.enc a.enc b.enc 0 rfl (by decide) (by simp) (by simp) (by simp) (by decide) (fun _ => tS_ops d a b _)
theorem shli (t : Trig) (d : Fin 16) (imm : Fin 64) : Statement (.shli t d imm) :=
  of_wordI t (fun t => .shli t d imm) 0x19 (32 + d.val) imm.val rfl (by decide) (by omega) (by omega) (fun _ => iC_ops d imm (fun d i t => .shli t d i))
theorem shr (t : Trig) (d : SDst) (a b : SSrc) : Statement (.shr t d a b) :=
  of_wordT t (fun t => .shr t d a b) 0x1A d.enc a.enc b.enc 0 rfl (by decide) (by simp) (by simp) (by simp) (by decide) (fun _ => tS_ops d a b _)
theorem shri (t : Trig) (d : Fin 16) (imm : Fin 64) : Statement (.shri t d imm) :=
  of_wordI t (fun t => .shri t d imm) 0x1B (32 + d.val) imm.val rfl (by decide) (by omega) (by omega) (fun _ => iC_ops d imm (fun d i t => .shri t d i))
theorem sar (t : Trig) (d : SDst) (a b : SSrc) : Statement (.sar t d a b) :=
  of_wordT t (fun t => .sar t d a b) 0x1C d.enc a.enc b.enc 0 rfl (by decide) (by simp) (by simp) (by simp) (by decide) (fun _ => tS_ops d a b _)
theorem sari (t : Trig) (d : Fin 16) (imm : Fin 64) : Statement (.sari t d imm) :=
  of_wordI t (fun t => .sari t d imm) 0x1D (32 + d.val) imm.val rfl (by decide) (by omega) (by omega) (fun _ => iC_ops d imm (fun d i t => .sari t d i))
theorem min (t : Trig) (d : SDst) (a b : SSrc) : Statement (.min t d a b) :=
  of_wordT t (fun t => .min t d a b) 0x1E d.enc a.enc b.enc 0 rfl (by decide) (by simp) (by simp) (by simp) (by decide) (fun _ => tS_ops d a b _)
theorem minu (t : Trig) (d : SDst) (a b : SSrc) : Statement (.minu t d a b) :=
  of_wordT t (fun t => .minu t d a b) 0x1F d.enc a.enc b.enc 0 rfl (by decide) (by simp) (by simp) (by simp) (by decide) (fun _ => tS_ops d a b _)
theorem max (t : Trig) (d : SDst) (a b : SSrc) : Statement (.max t d a b) :=
  of_wordT t (fun t => .max t d a b) 0x20 d.enc a.enc b.enc 0 rfl (by decide) (by simp) (by simp) (by simp) (by decide) (fun _ => tS_ops d a b _)
theorem maxu (t : Trig) (d : SDst) (a b : SSrc) : Statement (.maxu t d a b) :=
  of_wordT t (fun t => .maxu t d a b) 0x21 d.enc a.enc b.enc 0 rfl (by decide) (by simp) (by simp) (by simp) (by decide) (fun _ => tS_ops d a b _)
theorem clz (t : Trig) (d : SDst) (a : SSrc) : Statement (.clz t d a) :=
  of_wordU t (fun t => .clz t d a) 0x22 d.enc a.enc 0 rfl (by decide) (by simp) (by simp) (by decide) (fun _ => by simp [decodeOp, Dec.ap1, Dec.ap2, Dec.ap3, Dec.ap4, row4, uS])
theorem popc (t : Trig) (d : SDst) (a : SSrc) : Statement (.popc t d a) :=
  of_wordU t (fun t => .popc t d a) 0x22 d.enc a.enc 1 rfl (by decide) (by simp) (by simp) (by decide) (fun _ => by simp [decodeOp, Dec.ap1, Dec.ap2, Dec.ap3, Dec.ap4, row4, uS])
theorem bfx (t : Trig) (d : SDst) (a b : SSrc) : Statement (.bfx t d a b) :=
  of_wordT t (fun t => .bfx t d a b) 0x23 d.enc a.enc b.enc 0 rfl (by decide) (by simp) (by simp) (by simp) (by decide) (fun _ => tS_ops d a b _)
theorem bfi (t : Trig) (d : Fin 16) (a b : SSrc) : Statement (.bfi t d a b) :=
  of_wordT t (fun t => .bfi t d a b) 0x24 (32 + d.val) a.enc b.enc 0 rfl (by decide) (by omega) (by simp) (by simp) (by decide) (fun _ => by simp [decodeOp, Dec.ap1, Dec.ap2, Dec.ap3, Dec.ap4, row4])
theorem cmp (t : Trig) (pd : Fin 8) (pol : Bool) (a b : SSrc) (c : Cond) : Statement (.cmp t pd pol a b c) :=
  of_wordP t (fun t => .cmp t pd pol a b c) 0x25 pd.val pol a.enc b.enc c.enc rfl (by decide) (by omega) (by simp) (by simp) (by simp) (fun _ => by simp [decodeOp, Dec.ap1, Dec.ap2, Dec.ap3, Dec.ap4, row4])
theorem cmpi (t : Trig) (pd : Fin 8) (pol : Bool) (a : SSrc) (imm : BitVec 6) (c : Cond) : Statement (.cmpi t pd pol a imm c) := by
  have h1 : imm.toNat < 64 := by have := imm.isLt; omega
  exact of_wordP t (fun t => .cmpi t pd pol a imm c) 0x26 pd.val pol a.enc imm.toNat c.enc rfl (by decide) (by omega) (by simp) h1 (by simp) (fun _ => by simp [decodeOp, Dec.ap1, Dec.ap2, Dec.ap3, Dec.ap4, row4, h1])
theorem plog (t : Trig) (pd : Fin 8) (pol : Bool) (a b : Fin 8) (f : LogOp) : Statement (.plog t pd pol a b f) :=
  of_wordP t (fun t => .plog t pd pol a b f) 0x27 pd.val pol a.val b.val f.enc rfl (by decide) (by omega) (by omega) (by omega) (by simp) (fun hw => by
    have h1 : (decide (f.enc = 5) && !decide (b = 0)) = false := by
      simp only [Instr.wf, LogOp.wf] at hw
      cases f <;> simp_all [LogOp.enc]
    simp [decodeOp, Dec.ap1, Dec.ap2, Dec.ap3, Dec.ap4, row4, pLog, h1])
theorem vadd (t : Trig) (d : VDst) (a b : VSrc) : Statement (.vadd t d a b) :=
  of_wordT t (fun t => .vadd t d a b) 0x28 d.enc a.enc b.enc 0 rfl (by decide) (by simp) (by simp) (by simp) (by decide) (fun _ => tV_ops d a b _)
theorem vsub (t : Trig) (d : VDst) (a b : VSrc) : Statement (.vsub t d a b) :=
  of_wordT t (fun t => .vsub t d a b) 0x29 d.enc a.enc b.enc 0 rfl (by decide) (by simp) (by simp) (by simp) (by decide) (fun _ => tV_ops d a b _)
theorem vmul (t : Trig) (d : VDst) (a b : VSrc) : Statement (.vmul t d a b) :=
  of_wordT t (fun t => .vmul t d a b) 0x2A d.enc a.enc b.enc 0 rfl (by decide) (by simp) (by simp) (by simp) (by decide) (fun _ => tV_ops d a b _)
theorem vfma (t : Trig) (d : Fin 32) (a b : VSrc) : Statement (.vfma t d a b) :=
  of_wordT t (fun t => .vfma t d a b) 0x2B d.val a.enc b.enc 0 rfl (by decide) (by omega) (by simp) (by simp) (by decide) (fun _ => tF_ops d a b _)
theorem vfms (t : Trig) (d : Fin 32) (a b : VSrc) : Statement (.vfms t d a b) :=
  of_wordT t (fun t => .vfms t d a b) 0x2C d.val a.enc b.enc 0 rfl (by decide) (by omega) (by simp) (by simp) (by decide) (fun _ => tF_ops d a b _)
theorem vfnma (t : Trig) (d : Fin 32) (a b : VSrc) : Statement (.vfnma t d a b) :=
  of_wordT t (fun t => .vfnma t d a b) 0x2D d.val a.enc b.enc 0 rfl (by decide) (by omega) (by simp) (by simp) (by decide) (fun _ => tF_ops d a b _)
theorem vmin (t : Trig) (d : VDst) (a b : VSrc) : Statement (.vmin t d a b) :=
  of_wordT t (fun t => .vmin t d a b) 0x2E d.enc a.enc b.enc 0 rfl (by decide) (by simp) (by simp) (by simp) (by decide) (fun _ => tV_ops d a b _)
theorem vmax (t : Trig) (d : VDst) (a b : VSrc) : Statement (.vmax t d a b) :=
  of_wordT t (fun t => .vmax t d a b) 0x2F d.enc a.enc b.enc 0 rfl (by decide) (by simp) (by simp) (by simp) (by decide) (fun _ => tV_ops d a b _)
theorem vabs (t : Trig) (d : VDst) (a : VSrc) : Statement (.vabs t d a) :=
  of_wordU t (fun t => .vabs t d a) 0x30 d.enc a.enc 0 rfl (by decide) (by simp) (by simp) (by decide) (fun _ => by simp [decodeOp, Dec.ap1, Dec.ap2, Dec.ap3, Dec.ap4, row6, uV])
theorem vneg (t : Trig) (d : VDst) (a : VSrc) : Statement (.vneg t d a) :=
  of_wordU t (fun t => .vneg t d a) 0x30 d.enc a.enc 1 rfl (by decide) (by simp) (by simp) (by decide) (fun _ => by simp [decodeOp, Dec.ap1, Dec.ap2, Dec.ap3, Dec.ap4, row6, uV])
theorem vmov (t : Trig) (d : VDst) (a : VSrc) : Statement (.vmov t d a) :=
  of_wordU t (fun t => .vmov t d a) 0x30 d.enc a.enc 2 rfl (by decide) (by simp) (by simp) (by decide) (fun _ => by simp [decodeOp, Dec.ap1, Dec.ap2, Dec.ap3, Dec.ap4, row6, uV])
theorem vbcast (t : Trig) (d : VDst) (a : SSrc) : Statement (.vbcast t d a) :=
  of_wordU t (fun t => .vbcast t d a) 0x30 d.enc a.enc 3 rfl (by decide) (by simp) (by simp) (by decide) (fun _ => by simp [decodeOp, Dec.ap1, Dec.ap2, Dec.ap3, Dec.ap4, row6, uV])
theorem vcmp (t : Trig) (kd : Fin 4) (pol : Bool) (a b : VSrc) (c : Cond) : Statement (.vcmp t kd pol a b c) :=
  of_wordP t (fun t => .vcmp t kd pol a b c) 0x31 kd.val pol a.enc b.enc c.enc rfl (by decide) (by omega) (by simp) (by simp) (by simp) (fun hw => by
    have h1 : Cond.decF c.enc = .ok c := by
      simp only [Instr.wf] at hw
      cases c <;> first | rfl | (simp [Cond.wfFloat] at hw)
    simp [decodeOp, Dec.ap1, Dec.ap2, Dec.ap3, Dec.ap4, row6, h1])
theorem vsel (t : Trig) (d : Fin 32) (a : VSrc) (m : Fin 4) : Statement (.vsel t d a m) := by
  have h1 : m.val < 128 := by omega
  have h2 : ¬ 4 ≤ m.val := by omega
  exact of_wordU t (fun t => .vsel t d a m) 0x32 d.val a.enc m.val rfl (by decide) (by omega) (by simp) (by assumption) (fun _ => by simp [decodeOp, Dec.ap1, Dec.ap2, Dec.ap3, Dec.ap4, row6, Sys2Proof.sub, h1, h2])
theorem vextr (t : Trig) (d : SDst) (a : VSrc) (n : Fin 16) : Statement (.vextr t d a n) := by
  have h1 : n.val < 128 := by omega
  have h2 : ¬ 16 ≤ n.val := by omega
  exact of_wordU t (fun t => .vextr t d a n) 0x33 d.enc a.enc n.val rfl (by decide) (by simp) (by simp) (by assumption) (fun _ => by simp [decodeOp, Dec.ap1, Dec.ap2, Dec.ap3, Dec.ap4, row6, Sys2Proof.sub, h1, h2])
theorem vrcps (t : Trig) (d : VDst) (a : VSrc) : Statement (.vrcps t d a) :=
  of_wordU t (fun t => .vrcps t d a) 0x34 d.enc a.enc 0 rfl (by decide) (by simp) (by simp) (by decide) (fun _ => by simp [decodeOp, Dec.ap1, Dec.ap2, Dec.ap3, Dec.ap4, row6, uV])
theorem vrsqs (t : Trig) (d : VDst) (a : VSrc) : Statement (.vrsqs t d a) :=
  of_wordU t (fun t => .vrsqs t d a) 0x34 d.enc a.enc 1 rfl (by decide) (by simp) (by simp) (by decide) (fun _ => by simp [decodeOp, Dec.ap1, Dec.ap2, Dec.ap3, Dec.ap4, row6, uV])
theorem vexp2s (t : Trig) (d : VDst) (a : VSrc) : Statement (.vexp2s t d a) :=
  of_wordU t (fun t => .vexp2s t d a) 0x34 d.enc a.enc 2 rfl (by decide) (by simp) (by simp) (by decide) (fun _ => by simp [decodeOp, Dec.ap1, Dec.ap2, Dec.ap3, Dec.ap4, row6, uV])
theorem vlog2s (t : Trig) (d : VDst) (a : VSrc) : Statement (.vlog2s t d a) :=
  of_wordU t (fun t => .vlog2s t d a) 0x34 d.enc a.enc 3 rfl (by decide) (by simp) (by simp) (by decide) (fun _ => by simp [decodeOp, Dec.ap1, Dec.ap2, Dec.ap3, Dec.ap4, row6, uV])
theorem vrnd (t : Trig) (d : VDst) (a : VSrc) (m : RMode) : Statement (.vrnd t d a m) := by
  have h1 : m.enc < 128 := by cases m <;> decide
  have h2 : ¬ 8 ≤ m.enc := by cases m <;> decide
  have h3 : RMode.dec (m.enc % 8) = .ok m := by cases m <;> rfl
  exact of_wordU t (fun t => .vrnd t d a m) 0x35 d.enc a.enc m.enc rfl (by decide) (by simp) (by simp) (by assumption) (fun _ => by simp [decodeOp, Dec.ap1, Dec.ap2, Dec.ap3, Dec.ap4, row6, Sys2Proof.sub, h1, h2, h3])
theorem vscale (t : Trig) (d : VDst) (a b : VSrc) : Statement (.vscale t d a b) :=
  of_wordT t (fun t => .vscale t d a b) 0x36 d.enc a.enc b.enc 0 rfl (by decide) (by simp) (by simp) (by simp) (by decide) (fun _ => tV_ops d a b _)
theorem vcvti (t : Trig) (d : VDst) (a : VSrc) (m : RMode) : Statement (.vcvti t d a m) := by
  have h1 : m.enc < 128 := by cases m <;> decide
  have h2 : ¬ 16 ≤ m.enc := by cases m <;> decide
  have h3 : RMode.dec (m.enc % 8) = .ok m := by cases m <;> rfl
  have h4 : ¬ m.enc / 8 % 2 = 1 := by cases m <;> decide
  exact of_wordU t (fun t => .vcvti t d a m) 0x37 d.enc a.enc m.enc rfl (by decide) (by simp) (by simp) (by assumption) (fun _ => by simp [decodeOp, Dec.ap1, Dec.ap2, Dec.ap3, Dec.ap4, row6, Sys2Proof.sub, h1, h2, h3, h4])
theorem vcvtf (t : Trig) (d : VDst) (a : VSrc) (m : RMode) : Statement (.vcvtf t d a m) := by
  have h1 : 8 + m.enc < 128 := by cases m <;> decide
  have h2 : ¬ 16 ≤ 8 + m.enc := by cases m <;> decide
  have h3 : RMode.dec ((8 + m.enc) % 8) = .ok m := by cases m <;> rfl
  have h4 : (8 + m.enc) / 8 % 2 = 1 := by cases m <;> decide
  exact of_wordU t (fun t => .vcvtf t d a m) 0x37 d.enc a.enc (8 + m.enc) rfl (by decide) (by simp) (by simp) (by assumption) (fun _ => by simp [decodeOp, Dec.ap1, Dec.ap2, Dec.ap3, Dec.ap4, row6, Sys2Proof.sub, h1, h2, h3, h4, -Nat.add_mod_left, -Nat.add_div_left])
theorem vsrnd (t : Trig) (d : VDst) (a : VSrc) (p : Prec) : Statement (.vsrnd t d a p) :=
  of_wordU t (fun t => .vsrnd t d a p) 0x38 d.enc a.enc p.enc rfl (by decide) (by simp) (by simp) (by simp) (fun _ => by simp [decodeOp, Dec.ap1, Dec.ap2, Dec.ap3, Dec.ap4, row7])
theorem viadd (t : Trig) (d : VDst) (a b : VSrc) : Statement (.viadd t d a b) :=
  of_wordT t (fun t => .viadd t d a b) 0x39 d.enc a.enc b.enc 0 rfl (by decide) (by simp) (by simp) (by simp) (by decide) (fun _ => tV_ops d a b _)
theorem visub (t : Trig) (d : VDst) (a b : VSrc) : Statement (.visub t d a b) :=
  of_wordT t (fun t => .visub t d a b) 0x3A d.enc a.enc b.enc 0 rfl (by decide) (by simp) (by simp) (by simp) (by decide) (fun _ => tV_ops d a b _)
theorem vimul (t : Trig) (d : VDst) (a b : VSrc) : Statement (.vimul t d a b) :=
  of_wordT t (fun t => .vimul t d a b) 0x3B d.enc a.enc b.enc 0 rfl (by decide) (by simp) (by simp) (by simp) (by decide) (fun _ => tV_ops d a b _)
theorem vimin (t : Trig) (d : VDst) (a b : VSrc) : Statement (.vimin t d a b) :=
  of_wordT t (fun t => .vimin t d a b) 0x3C d.enc a.enc b.enc 0 rfl (by decide) (by simp) (by simp) (by simp) (by decide) (fun _ => tV_ops d a b _)
theorem vimax (t : Trig) (d : VDst) (a b : VSrc) : Statement (.vimax t d a b) :=
  of_wordT t (fun t => .vimax t d a b) 0x3D d.enc a.enc b.enc 0 rfl (by decide) (by simp) (by simp) (by simp) (by decide) (fun _ => tV_ops d a b _)
theorem vand (t : Trig) (d : VDst) (a b : VSrc) : Statement (.vand t d a b) :=
  of_wordT t (fun t => .vand t d a b) 0x3E d.enc a.enc b.enc 0 rfl (by decide) (by simp) (by simp) (by simp) (by decide) (fun _ => tV_ops d a b _)
theorem vor (t : Trig) (d : VDst) (a b : VSrc) : Statement (.vor t d a b) :=
  of_wordT t (fun t => .vor t d a b) 0x3F d.enc a.enc b.enc 0 rfl (by decide) (by simp) (by simp) (by simp) (by decide) (fun _ => tV_ops d a b _)
theorem vxor (t : Trig) (d : VDst) (a b : VSrc) : Statement (.vxor t d a b) :=
  of_wordT t (fun t => .vxor t d a b) 0x40 d.enc a.enc b.enc 0 rfl (by decide) (by simp) (by simp) (by simp) (by decide) (fun _ => tV_ops d a b _)
theorem vshl (t : Trig) (d : VDst) (a b : VSrc) : Statement (.vshl t d a b) :=
  of_wordT t (fun t => .vshl t d a b) 0x41 d.enc a.enc b.enc 0 rfl (by decide) (by simp) (by simp) (by simp) (by decide) (fun _ => tV_ops d a b _)
theorem vshr (t : Trig) (d : VDst) (a b : VSrc) : Statement (.vshr t d a b) :=
  of_wordT t (fun t => .vshr t d a b) 0x42 d.enc a.enc b.enc 0 rfl (by decide) (by simp) (by simp) (by simp) (by decide) (fun _ => tV_ops d a b _)
theorem vsar (t : Trig) (d : VDst) (a b : VSrc) : Statement (.vsar t d a b) :=
  of_wordT t (fun t => .vsar t d a b) 0x43 d.enc a.enc b.enc 0 rfl (by decide) (by simp) (by simp) (by simp) (by decide) (fun _ => tV_ops d a b _)
theorem vicmp (t : Trig) (kd : Fin 4) (pol : Bool) (a b : VSrc) (c : Cond) : Statement (.vicmp t kd pol a b c) :=
  of_wordP t (fun t => .vicmp t kd pol a b c) 0x44 kd.val pol a.enc b.enc c.enc rfl (by decide) (by omega) (by simp) (by simp) (by simp) (fun _ => by simp [decodeOp, Dec.ap1, Dec.ap2, Dec.ap3, Dec.ap4, row8])
theorem vperm (t : Trig) (d : VDst) (a b : VSrc) : Statement (.vperm t d a b) :=
  of_wordT t (fun t => .vperm t d a b) 0x45 d.enc a.enc b.enc 0 rfl (by decide) (by simp) (by simp) (by simp) (by decide) (fun _ => tV_ops d a b _)
theorem vrot (t : Trig) (d : VDst) (a : VSrc) (dn : Bool) (n : Fin 16) : Statement (.vrot t d a dn n) := by
  have h1 : 16 * dn.toNat + n.val < 128 := by revert dn n; decide
  have h2 : ¬ 32 ≤ 16 * dn.toNat + n.val := by revert dn n; decide
  have h3 : ((16 * dn.toNat + n.val) / 16 % 2 == 1) = dn := by revert dn n; decide
  have h4 : fin 16 (16 * dn.toNat + n.val) = n := by revert dn n; decide
  exact of_wordU t (fun t => .vrot t d a dn n) 0x46 d.enc a.enc (16 * dn.toNat + n.val) rfl (by decide) (by simp) (by simp) (by assumption) (fun _ => by simp [decodeOp, Dec.ap1, Dec.ap2, Dec.ap3, Dec.ap4, row8, Sys2Proof.sub, h1, h2, h3, h4])
theorem vreda (t : Trig) (d : ADst) (a : VSrc) : Statement (.vreda t d a) :=
  of_wordU t (fun t => .vreda t d a) 0x47 d.enc a.enc 0 rfl (by decide) (by simp) (by simp) (by decide) (fun _ => by simp [decodeOp, Dec.ap1, Dec.ap2, Dec.ap3, Dec.ap4, row8])
theorem vredmMax (t : Trig) (d : ADst) (a : VSrc) : Statement (.vredmMax t d a) :=
  of_wordU t (fun t => .vredmMax t d a) 0x47 d.enc a.enc 1 rfl (by decide) (by simp) (by simp) (by decide) (fun _ => by simp [decodeOp, Dec.ap1, Dec.ap2, Dec.ap3, Dec.ap4, row8])
theorem vredmMin (t : Trig) (d : ADst) (a : VSrc) : Statement (.vredmMin t d a) :=
  of_wordU t (fun t => .vredmMin t d a) 0x47 d.enc a.enc 2 rfl (by decide) (by simp) (by simp) (by decide) (fun _ => by simp [decodeOp, Dec.ap1, Dec.ap2, Dec.ap3, Dec.ap4, row8])
theorem vscan (t : Trig) (d : VDst) (a : VSrc) (o : ScanOp) : Statement (.vscan t d a o) := by
  have h1 : o.enc < 128 := by cases o <;> decide
  have h2 : ¬ 4 ≤ o.enc := by cases o <;> decide
  have h3 : ScanOp.dec (o.enc % 4) = .ok o := by cases o <;> rfl
  exact of_wordU t (fun t => .vscan t d a o) 0x48 d.enc a.enc o.enc rfl (by decide) (by simp) (by simp) (by assumption) (fun _ => by simp [decodeOp, Dec.ap1, Dec.ap2, Dec.ap3, Dec.ap4, row9, Sys2Proof.sub, h1, h2, h3])
theorem vcprs (t : Trig) (d : VDst) (a : VSrc) (m : Fin 4) : Statement (.vcprs t d a m) := by
  have h1 : m.val < 128 := by omega
  have h2 : ¬ 4 ≤ m.val := by omega
  exact of_wordU t (fun t => .vcprs t d a m) 0x49 d.enc a.enc m.val rfl (by decide) (by simp) (by simp) (by assumption) (fun _ => by simp [decodeOp, Dec.ap1, Dec.ap2, Dec.ap3, Dec.ap4, row9, uV, Sys2Proof.sub, h1, h2])
theorem vxpnd (t : Trig) (d : VDst) (a : VSrc) (m : Fin 4) : Statement (.vxpnd t d a m) := by
  have h1 : m.val < 128 := by omega
  have h2 : ¬ 4 ≤ m.val := by omega
  exact of_wordU t (fun t => .vxpnd t d a m) 0x4A d.enc a.enc m.val rfl (by decide) (by simp) (by simp) (by assumption) (fun _ => by simp [decodeOp, Dec.ap1, Dec.ap2, Dec.ap3, Dec.ap4, row9, uV, Sys2Proof.sub, h1, h2])
theorem klog (t : Trig) (kd : Fin 4) (pol : Bool) (a b : Fin 4) (f : LogOp) : Statement (.klog t kd pol a b f) :=
  of_wordP t (fun t => .klog t kd pol a b f) 0x4B kd.val pol a.val b.val f.enc rfl (by decide) (by omega) (by omega) (by omega) (by simp) (fun hw => by
    have h1 : (decide (f.enc = 5) && !decide (b = 0)) = false := by
      simp only [Instr.wf, LogOp.wf] at hw
      cases f <;> simp_all [LogOp.enc]
    simp [decodeOp, Dec.ap1, Dec.ap2, Dec.ap3, Dec.ap4, row9, kLog, h1])
theorem kmovToMask (t : Trig) (k : Fin 4) (a : SSrc) : Statement (.kmovToMask t k a) :=
  of_wordU t (fun t => .kmovToMask t k a) 0x4C k.val a.enc 0 rfl (by decide) (by omega) (by simp) (by decide) (fun _ => by simp [decodeOp, Dec.ap1, Dec.ap2, Dec.ap3, Dec.ap4, row9])
theorem kmovFromMask (t : Trig) (d : SDst) (k : Fin 4) : Statement (.kmovFromMask t d k) :=
  of_wordU t (fun t => .kmovFromMask t d k) 0x4C d.enc k.val 1 rfl (by decide) (by simp) (by omega) (by decide) (fun _ => by simp [decodeOp, Dec.ap1, Dec.ap2, Dec.ap3, Dec.ap4, row9])
theorem mcfg (t : Trig) (n : Fin 8) : Statement (.mcfg t n) :=
  of_wordU t (fun t => .mcfg t n) 0x4D 0 (evenEnc n) 0 rfl (by decide) (by decide) (by simp) (by decide) (fun _ => by simp [decodeOp, Dec.ap1, Dec.ap2, Dec.ap3, Dec.ap4, row9, fn0])
theorem mldb (t : Trig) (q : Fin 4) : Statement (.mldb t q) :=
  of_wordU t (fun t => .mldb t q) 0x4E 0 (48 + q.val) 0 rfl (by decide) (by decide) (by omega) (by decide) (fun _ => by simp [decodeOp, Dec.ap1, Dec.ap2, Dec.ap3, Dec.ap4, row9, fn0])
theorem mrow (t : Trig) (o q : Fin 4) : Statement (.mrow t o q) :=
  of_wordU t (fun t => .mrow t o q) 0x4F (48 + o.val) (48 + q.val) 0 rfl (by decide) (by omega) (by omega) (by decide) (fun _ => by simp [decodeOp, Dec.ap1, Dec.ap2, Dec.ap3, Dec.ap4, row9, Sys2Proof.sub])
theorem mrowG (t : Trig) (o : Fin 4) : Statement (.mrowG t o) :=
  of_wordU t (fun t => .mrowG t o) 0x4F (48 + o.val) 0 1 rfl (by decide) (by omega) (by decide) (by decide) (fun _ => by simp [decodeOp, Dec.ap1, Dec.ap2, Dec.ap3, Dec.ap4, row9, Sys2Proof.sub])
theorem mgath (t : Trig) (a : VSrc) : Statement (.mgath t a) :=
  of_wordU t (fun t => .mgath t a) 0x50 0 a.enc 0 rfl (by decide) (by decide) (by simp) (by decide) (fun _ => by simp [decodeOp, Dec.ap1, Dec.ap2, Dec.ap3, Dec.ap4, row10, fn0])
theorem mdrain (t : Trig) (o : Fin 4) (drop : Bool) : Statement (.mdrain t o drop) := by
  have h1 : 2 * drop.toNat < 128 := by revert drop; decide
  have h2 : ¬ 4 ≤ 2 * drop.toNat := by revert drop; decide
  have h4 : (drop.toNat % 2 == 1) = drop := by revert drop; decide
  exact of_wordU t (fun t => .mdrain t o drop) 0x51 (48 + o.val) 0 (2 * drop.toNat) rfl (by decide) (by omega) (by decide) (by assumption) (fun _ => by simp [decodeOp, Dec.ap1, Dec.ap2, Dec.ap3, Dec.ap4, row10, Sys2Proof.sub, h1, h2, h4])
theorem mdrainR (t : Trig) (o : Fin 4) (peek : Bool) (q : Fin 4) (drop : Bool) : Statement (.mdrainR t o peek q drop) := by
  have h1 : 1 + 2 * drop.toNat < 128 := by revert drop; decide
  have h2 : ¬ 4 ≤ 1 + 2 * drop.toNat := by revert drop; decide
  have h3 : ((1 + 2 * drop.toNat) / 2 % 2 == 1) = drop := by revert drop; decide
  have h4 : (1 + 2 * drop.toNat) % 2 = 1 := by omega
  have h5 : 48 + 4 * peek.toNat + q.val < 64 := by revert peek q; decide
  have h6 : (if 48 ≤ 48 + 4 * peek.toNat + q.val ∧ 48 + 4 * peek.toNat + q.val < 56 then (.ok (decide (52 ≤ 48 + 4 * peek.toNat + q.val), fin 4 (48 + 4 * peek.toNat + q.val)) : Dec (Bool × Fin 4)) else .error 5) = .ok (peek, q) := by revert peek q; decide
  exact of_wordU t (fun t => .mdrainR t o peek q drop) 0x51 (48 + o.val) (48 + 4 * peek.toNat + q.val) (1 + 2 * drop.toNat) rfl (by decide) (by omega) (by assumption) (by assumption) (fun _ => by simp [decodeOp, Dec.ap1, Dec.ap2, Dec.ap3, Dec.ap4, row10, Sys2Proof.sub, h1, h2, h3, h4, h5, h6, -Nat.add_mul_mod_self_left])
theorem mzero (t : Trig) : Statement (.mzero t) :=
  of_wordU t (fun t => .mzero t) 0x52 0 0 0 rfl (by decide) (by decide) (by decide) (by decide) (fun _ => by simp [decodeOp, Dec.ap1, Dec.ap2, Dec.ap3, Dec.ap4, row10, u0, fn0])
theorem ldsN (t : Trig) (q : Fin 4) (a : SSrc) : Statement (.ldsN t q a) :=
  of_wordU t (fun t => .ldsN t q a) 0x53 (48 + q.val) a.enc 0 rfl (by decide) (by omega) (by simp) (by decide) (fun _ => by simp [decodeOp, Dec.ap1, Dec.ap2, Dec.ap3, Dec.ap4, row10, uQ])
theorem ldsW (t : Trig) (q : Fin 4) (a : SSrc) : Statement (.ldsW t q a) :=
  of_wordU t (fun t => .ldsW t q a) 0x53 (48 + q.val) a.enc 1 rfl (by decide) (by omega) (by simp) (by decide) (fun _ => by simp [decodeOp, Dec.ap1, Dec.ap2, Dec.ap3, Dec.ap4, row10, uQ])
theorem ldsWc (t : Trig) (q : Fin 4) (a : SSrc) : Statement (.ldsWc t q a) :=
  of_wordU t (fun t => .ldsWc t q a) 0x53 (48 + q.val) a.enc 2 rfl (by decide) (by omega) (by simp) (by decide) (fun _ => by simp [decodeOp, Dec.ap1, Dec.ap2, Dec.ap3, Dec.ap4, row10, uQ])
theorem sts (t : Trig) (r : RDst) (a : SSrc) (b : ASrc) : Statement (.sts t r a b) :=
  of_wordT t (fun t => .sts t r a b) 0x54 r.enc a.enc b.enc 0 rfl (by decide) (by simp) (by simp) (by simp) (by decide) (fun _ => tR_ops r a b _)
theorem feopClr (t : Trig) (r : RDst) (n : Fin 8) : Statement (.feopClr t r n) :=
  of_wordU t (fun t => .feopClr t r n) 0x55 r.enc (evenEnc n) 0 rfl (by decide) (by simp) (by simp) (by decide) (fun _ => by simp [decodeOp, Dec.ap1, Dec.ap2, Dec.ap3, Dec.ap4, row10, uR])
theorem feopSet (t : Trig) (r : RDst) (n : Fin 8) : Statement (.feopSet t r n) :=
  of_wordU t (fun t => .feopSet t r n) 0x55 r.enc (evenEnc n) 1 rfl (by decide) (by simp) (by simp) (by decide) (fun _ => by simp [decodeOp, Dec.ap1, Dec.ap2, Dec.ap3, Dec.ap4, row10, uR])
theorem ldg (t : Trig) (q : Fin 4) (a : SSrc) : Statement (.ldg t q a) :=
  of_wordU t (fun t => .ldg t q a) 0x56 (48 + q.val) a.enc 0 rfl (by decide) (by omega) (by simp) (by decide) (fun _ => by simp [decodeOp, Dec.ap1, Dec.ap2, Dec.ap3, Dec.ap4, row10, uQ, fn0])
theorem stg (t : Trig) (r : RDst) (a : SSrc) (b : ASrc) : Statement (.stg t r a b) :=
  of_wordT t (fun t => .stg t r a b) 0x57 r.enc a.enc b.enc 0 rfl (by decide) (by simp) (by simp) (by simp) (by decide) (fun _ => tR_ops r a b _)
theorem ldw (t : Trig) (q : Fin 4) (n : Fin 8) (m : Fin 8) : Statement (.ldw t q n m) := by
  have h1 : m.val < 128 := by omega
  have h2 : ¬ 8 ≤ m.val := by omega
  exact of_wordU t (fun t => .ldw t q n m) 0x58 (48 + q.val) (evenEnc n) m.val rfl (by decide) (by omega) (by simp) (by assumption) (fun _ => by simp [decodeOp, Dec.ap1, Dec.ap2, Dec.ap3, Dec.ap4, row11, Sys2Proof.sub, h1, h2])
theorem aadd (t : Trig) (r : RDst) (n : Fin 8) (o : AtOrd) : Statement (.aadd t r n o) := of_wordU t (fun t => .aadd t r n o) 0x59 r.enc (evenEnc n) o.enc rfl (by decide) (by simp) (by simp) (by simp) (fun hw => uAt_ops r n o 14 (fun _ => false) _ true true (by simp) (by decide) hw)
theorem afadd (t : Trig) (r : RDst) (n : Fin 8) (o : AtOrd) : Statement (.afadd t r n o) := of_wordU t (fun t => .afadd t r n o) 0x5A r.enc (evenEnc n) o.enc rfl (by decide) (by simp) (by simp) (by simp) (fun hw => uAt_ops r n o 14 (fun _ => false) _ true true (by simp) (by decide) hw)
theorem amin (t : Trig) (r : RDst) (n : Fin 8) (o : AtOrd) : Statement (.amin t r n o) := of_wordU t (fun t => .amin t r n o) 0x5B r.enc (evenEnc n) o.enc rfl (by decide) (by simp) (by simp) (by simp) (fun hw => uAt_ops r n o 14 (fun _ => false) _ true true (by simp) (by decide) hw)
theorem amax (t : Trig) (r : RDst) (n : Fin 8) (o : AtOrd) : Statement (.amax t r n o) := of_wordU t (fun t => .amax t r n o) 0x5C r.enc (evenEnc n) o.enc rfl (by decide) (by simp) (by simp) (by simp) (fun hw => uAt_ops r n o 14 (fun _ => false) _ true true (by simp) (by decide) hw)
theorem aand (t : Trig) (r : RDst) (n : Fin 8) (o : AtOrd) : Statement (.aand t r n o) := of_wordU t (fun t => .aand t r n o) 0x5D r.enc (evenEnc n) o.enc rfl (by decide) (by simp) (by simp) (by simp) (fun hw => uAt_ops r n o 14 (fun _ => false) _ true true (by simp) (by decide) hw)
theorem aor (t : Trig) (r : RDst) (n : Fin 8) (o : AtOrd) : Statement (.aor t r n o) := of_wordU t (fun t => .aor t r n o) 0x5E r.enc (evenEnc n) o.enc rfl (by decide) (by simp) (by simp) (by simp) (fun hw => uAt_ops r n o 14 (fun _ => false) _ true true (by simp) (by decide) hw)
theorem axor (t : Trig) (r : RDst) (n : Fin 8) (o : AtOrd) : Statement (.axor t r n o) := of_wordU t (fun t => .axor t r n o) 0x5F r.enc (evenEnc n) o.enc rfl (by decide) (by simp) (by simp) (by simp) (fun hw => uAt_ops r n o 14 (fun _ => false) _ true true (by simp) (by decide) hw)
theorem aswp (t : Trig) (r : RDst) (n : Fin 8) (o : AtOrd) : Statement (.aswp t r n o) := of_wordU t (fun t => .aswp t r n o) 0x60 r.enc (evenEnc n) o.enc rfl (by decide) (by simp) (by simp) (by simp) (fun hw => uAt_ops r n o 14 (fun u => u == 1) _ false true (by simp) (by decide) hw)
theorem acas (t : Trig) (r : RDst) (n : Fin 8) (o : AtOrd) : Statement (.acas t r n o) := of_wordU t (fun t => .acas t r n o) 0x61 r.enc (evenEnc n) o.enc rfl (by decide) (by simp) (by simp) (by simp) (fun hw => by
  have := hw; simp only [Instr.wf, Bool.and_eq_true, decide_eq_true_eq] at this
  exact uAt_ops r n o 12 (fun u => u == 1 || u == 3) _ false false (evenDec_enc_12 n (by omega)) (by decide) this.1)
theorem fence (t : Trig) (r : RDst) (a : SSrc) (o : SyncOrd) (sc : Scope) : Statement (.fence t r a o sc) := by
  have h1 : 64 + 16 * o.enc + sc.enc < 128 := by cases o <;> cases sc <;> decide
  have h2 : ¬ 64 + 16 * o.enc + sc.enc < 64 := by omega
  have h3 : ¬ (64 + 16 * o.enc + sc.enc) / 8 % 2 = 1 := by cases o <;> cases sc <;> decide
  have h4 : SyncOrd.dec ((64 + 16 * o.enc + sc.enc) / 16 % 4) = .ok o := by cases o <;> cases sc <;> rfl
  have h5 : Scope.dec ((64 + 16 * o.enc + sc.enc) % 8) = .ok sc := by cases o <;> cases sc <;> rfl
  exact of_wordU t (fun t => .fence t r a o sc) 0x62 r.enc a.enc (64 + 16 * o.enc + sc.enc) rfl (by decide) (by simp) (by simp) (by assumption) (fun hw => by
    have h6 : ((64 + 16 * o.enc + sc.enc) / 16 % 2 = 1 ∧ r.enc = 56) = False := by
      rw [RDst.enc_eq_nul, eq_iff_iff, iff_false]
      simp only [Instr.wf] at hw
      cases o <;> cases sc <;> simp_all [SyncOrd.enc, Scope.enc]
    simp [decodeOp, Dec.ap1, Dec.ap2, Dec.ap3, Dec.ap4, row12, uFence, h1, h2, h3, h4, h5, h6, -not_lt, -not_and, -Bool.decide_and])
theorem bar (t : Trig) (q : Fin 4) (a : SSrc) (sc : BarScope) : Statement (.bar t q a sc) := by
  have h1 : sc.enc < 128 := by cases sc <;> decide
  have h2 : ¬ 8 ≤ sc.enc := by cases sc <;> decide
  have h3 : BarScope.dec (sc.enc % 8) = .ok sc := by cases sc <;> rfl
  exact of_wordU t (fun t => .bar t q a sc) 0x63 (48 + q.val) a.enc sc.enc rfl (by decide) (by omega) (by simp) (by assumption) (fun _ => by simp [decodeOp, Dec.ap1, Dec.ap2, Dec.ap3, Dec.ap4, row12, Sys2Proof.sub, h1, h2, h3])
theorem tset (t : Trig) (a : SSrc) : Statement (.tset t a) :=
  of_wordU t (fun t => .tset t a) 0x64 0 a.enc 0 rfl (by decide) (by decide) (by simp) (by decide) (fun _ => by simp [decodeOp, Dec.ap1, Dec.ap2, Dec.ap3, Dec.ap4, row12, uA, fn0])
theorem tcommit (t : Trig) (a : SSrc) : Statement (.tcommit t a) :=
  of_wordU t (fun t => .tcommit t a) 0x65 0 a.enc 0 rfl (by decide) (by decide) (by simp) (by decide) (fun _ => by simp [decodeOp, Dec.ap1, Dec.ap2, Dec.ap3, Dec.ap4, row12, uA, fn0])
theorem hnew (t : Trig) (q : Fin 4) (a b : SSrc) (z : Bool) : Statement (.hnew t q a b z) := by
  have h1 : z.toNat < 2 := by cases z <;> decide
  have h2 : (z.toNat == 1) = z := by cases z <;> decide
  exact of_wordT t (fun t => .hnew t q a b z) 0x66 (48 + q.val) a.enc b.enc z.toNat rfl (by decide) (by omega) (by simp) (by simp) (by assumption) (fun _ => by simp [decodeOp, Dec.ap1, Dec.ap2, Dec.ap3, Dec.ap4, row12, h1, h2])
theorem hdup (t : Trig) (r : RDst) (a : SSrc) : Statement (.hdup t r a) :=
  of_wordU t (fun t => .hdup t r a) 0x67 r.enc a.enc 0 rfl (by decide) (by simp) (by simp) (by decide) (fun _ => by simp [decodeOp, Dec.ap1, Dec.ap2, Dec.ap3, Dec.ap4, row12, uS, uQ, uRS, Sys2Proof.sub])
theorem hrel (t : Trig) (r : RDst) (a : SSrc) : Statement (.hrel t r a) :=
  of_wordU t (fun t => .hrel t r a) 0x67 r.enc a.enc 1 rfl (by decide) (by simp) (by simp) (by decide) (fun _ => by simp [decodeOp, Dec.ap1, Dec.ap2, Dec.ap3, Dec.ap4, row12, uS, uQ, uRS, Sys2Proof.sub])
theorem hweak (t : Trig) (d : SDst) (a : SSrc) : Statement (.hweak t d a) :=
  of_wordU t (fun t => .hweak t d a) 0x67 d.enc a.enc 2 rfl (by decide) (by simp) (by simp) (by decide) (fun _ => by simp [decodeOp, Dec.ap1, Dec.ap2, Dec.ap3, Dec.ap4, row12, uS, uQ, uRS, Sys2Proof.sub])
theorem hupg (t : Trig) (q : Fin 4) (a : SSrc) (n : Fin 8) : Statement (.hupg t q a n) := by
  have h1 : 3 + 8 * n.val < 128 := by omega
  have h2 : ¬ 64 ≤ 3 + 8 * n.val := by omega
  have h3 : (3 + 8 * n.val) % 8 = 3 := by omega
  have h4 : fin 8 ((3 + 8 * n.val) / 8 % 16) = n := by revert n; decide
  exact of_wordU t (fun t => .hupg t q a n) 0x67 (48 + q.val) a.enc (3 + 8 * n.val) rfl (by decide) (by omega) (by simp) (by assumption) (fun _ => by simp [decodeOp, Dec.ap1, Dec.ap2, Dec.ap3, Dec.ap4, row12, uS, uQ, uRS, Sys2Proof.sub, h1, h2, h3, h4, -Nat.add_mul_mod_self_left])
theorem hinfo (t : Trig) (q : Fin 4) (a : SSrc) : Statement (.hinfo t q a) :=
  of_wordU t (fun t => .hinfo t q a) 0x67 (48 + q.val) a.enc 4 rfl (by decide) (by omega) (by simp) (by decide) (fun _ => by simp [decodeOp, Dec.ap1, Dec.ap2, Dec.ap3, Dec.ap4, row12, uS, uQ, uRS, Sys2Proof.sub])
theorem hprio (t : Trig) (r : RDst) (a : SSrc) (p : Fin 16) : Statement (.hprio t r a p) := by
  have h1 : p.val < 128 := by omega
  have h2 : ¬ 16 ≤ p.val := by omega
  exact of_wordU t (fun t => .hprio t r a p) 0x68 r.enc a.enc p.val rfl (by decide) (by simp) (by simp) (by assumption) (fun _ => by simp [decodeOp, Dec.ap1, Dec.ap2, Dec.ap3, Dec.ap4, row13, uRS, Sys2Proof.sub, h1, h2])
theorem sinitQs (t : Trig) (r : RDst) (n : Fin 8) : Statement (.sinitQs t r n) :=
  of_wordU t (fun t => .sinitQs t r n) 0x69 r.enc (evenEnc n) 0 rfl (by decide) (by simp) (by simp) (by decide) (fun _ => by simp [decodeOp, Dec.ap1, Dec.ap2, Dec.ap3, Dec.ap4, row13, uR])
theorem sinitHh (t : Trig) (r : RDst) (n : Fin 8) : Statement (.sinitHh t r n) :=
  of_wordU t (fun t => .sinitHh t r n) 0x69 r.enc (evenEnc n) 1 rfl (by decide) (by simp) (by simp) (by decide) (fun _ => by simp [decodeOp, Dec.ap1, Dec.ap2, Dec.ap3, Dec.ap4, row13, uR])
theorem sinitDc (t : Trig) (r : RDst) (n : Fin 8) : Statement (.sinitDc t r n) :=
  of_wordU t (fun t => .sinitDc t r n) 0x69 r.enc (evenEnc n) 2 rfl (by decide) (by simp) (by simp) (by decide) (fun _ => by simp [decodeOp, Dec.ap1, Dec.ap2, Dec.ap3, Dec.ap4, row13, uR])
theorem qsins (t : Trig) (o : Fin 4) (a : VSrc) : Statement (.qsins t o a) :=
  of_wordU t (fun t => .qsins t o a) 0x6A (48 + o.val) a.enc 0 rfl (by decide) (by omega) (by simp) (by decide) (fun _ => by simp [decodeOp, Dec.ap1, Dec.ap2, Dec.ap3, Dec.ap4, row13, uO])
theorem hhins (t : Trig) (o : Fin 4) (a : VSrc) : Statement (.hhins t o a) :=
  of_wordU t (fun t => .hhins t o a) 0x6A (48 + o.val) a.enc 1 rfl (by decide) (by omega) (by simp) (by decide) (fun _ => by simp [decodeOp, Dec.ap1, Dec.ap2, Dec.ap3, Dec.ap4, row13, uO])
theorem dcins (t : Trig) (o : Fin 4) (a : VSrc) : Statement (.dcins t o a) :=
  of_wordU t (fun t => .dcins t o a) 0x6A (48 + o.val) a.enc 2 rfl (by decide) (by omega) (by simp) (by decide) (fun _ => by simp [decodeOp, Dec.ap1, Dec.ap2, Dec.ap3, Dec.ap4, row13, uO])
theorem smerge (t : Trig) (r : RDst) (a b : SSrc) : Statement (.smerge t r a b) :=
  of_wordT t (fun t => .smerge t r a b) 0x6B r.enc a.enc b.enc 0 rfl (by decide) (by simp) (by simp) (by simp) (by decide) (fun _ => by simp [decodeOp, Dec.ap1, Dec.ap2, Dec.ap3, Dec.ap4, row13])
theorem qread (t : Trig) (q : Fin 4) (n : Fin 8) : Statement (.qread t q n) :=
  of_wordU t (fun t => .qread t q n) 0x6C (48 + q.val) (evenEnc n) 0 rfl (by decide) (by omega) (by simp) (by decide) (fun _ => by simp [decodeOp, Dec.ap1, Dec.ap2, Dec.ap3, Dec.ap4, row13, uE])
theorem qrank (t : Trig) (q : Fin 4) (n : Fin 8) : Statement (.qrank t q n) :=
  of_wordU t (fun t => .qrank t q n) 0x6C (48 + q.val) (evenEnc n) 1 rfl (by decide) (by omega) (by simp) (by decide) (fun _ => by simp [decodeOp, Dec.ap1, Dec.ap2, Dec.ap3, Dec.ap4, row13, uE])
theorem hhget (t : Trig) (q : Fin 4) (n : Fin 8) : Statement (.hhget t q n) :=
  of_wordU t (fun t => .hhget t q n) 0x6C (48 + q.val) (evenEnc n) 2 rfl (by decide) (by omega) (by simp) (by decide) (fun _ => by simp [decodeOp, Dec.ap1, Dec.ap2, Dec.ap3, Dec.ap4, row13, uE])
theorem dcest (t : Trig) (q : Fin 4) (n : Fin 8) : Statement (.dcest t q n) :=
  of_wordU t (fun t => .dcest t q n) 0x6C (48 + q.val) (evenEnc n) 3 rfl (by decide) (by omega) (by simp) (by decide) (fun _ => by simp [decodeOp, Dec.ap1, Dec.ap2, Dec.ap3, Dec.ap4, row13, uE])
theorem tkinit (t : Trig) (r : RDst) (n : Fin 8) : Statement (.tkinit t r n) :=
  of_wordU t (fun t => .tkinit t r n) 0x6D r.enc (evenEnc n) 0 rfl (by decide) (by simp) (by simp) (by decide) (fun _ => by simp [decodeOp, Dec.ap1, Dec.ap2, Dec.ap3, Dec.ap4, row13, uR, fn0])
theorem tkins (t : Trig) (o : Fin 4) (a b : SSrc) : Statement (.tkins t o a b) :=
  of_wordT t (fun t => .tkins t o a b) 0x6E (48 + o.val) a.enc b.enc 0 rfl (by decide) (by omega) (by simp) (by simp) (by decide) (fun _ => tQ_ops o a b _)
theorem tkout (t : Trig) (q : Fin 4) (n : Fin 8) : Statement (.tkout t q n) :=
  of_wordU t (fun t => .tkout t q n) 0x6F (48 + q.val) (evenEnc n) 0 rfl (by decide) (by omega) (by simp) (by decide) (fun _ => by simp [decodeOp, Dec.ap1, Dec.ap2, Dec.ap3, Dec.ap4, row13, uE, fn0])
theorem pfrag (t : Trig) (q : Fin 4) (a : SSrc) : Statement (.pfrag t q a) :=
  of_wordU t (fun t => .pfrag t q a) 0x70 (48 + q.val) a.enc 0 rfl (by decide) (by omega) (by simp) (by decide) (fun _ => by simp [decodeOp, Dec.ap1, Dec.ap2, Dec.ap3, Dec.ap4, row14, uQ, fn0])
theorem pseq (t : Trig) (q : Fin 4) (a b : SSrc) : Statement (.pseq t q a b) :=
  of_wordT t (fun t => .pseq t q a b) 0x71 (48 + q.val) a.enc b.enc 0 rfl (by decide) (by omega) (by simp) (by simp) (by decide) (fun _ => tQ_ops q a b _)
theorem povl (t : Trig) (q : Fin 4) (a b : SSrc) : Statement (.povl t q a b) :=
  of_wordT t (fun t => .povl t q a b) 0x72 (48 + q.val) a.enc b.enc 0 rfl (by decide) (by omega) (by simp) (by simp) (by decide) (fun _ => tQ_ops q a b _)
theorem ppipe (t : Trig) (q : Fin 4) (n : Fin 8) (b : SSrc) : Statement (.ppipe t q n b) :=
  of_wordT t (fun t => .ppipe t q n b) 0x73 (48 + q.val) (evenEnc n) b.enc 0 rfl (by decide) (by omega) (by simp) (by simp) (by decide) (fun _ => tE_ops q n b _)
theorem pnest (t : Trig) (q : Fin 4) (n : Fin 8) (b : SSrc) : Statement (.pnest t q n b) :=
  of_wordT t (fun t => .pnest t q n b) 0x74 (48 + q.val) (evenEnc n) b.enc 0 rfl (by decide) (by omega) (by simp) (by simp) (by decide) (fun _ => tE_ops q n b _)
theorem prep (t : Trig) (q : Fin 4) (a b : SSrc) : Statement (.prep t q a b) :=
  of_wordT t (fun t => .prep t q a b) 0x75 (48 + q.val) a.enc b.enc 0 rfl (by decide) (by omega) (by simp) (by simp) (by decide) (fun _ => tQ_ops q a b _)
theorem piface (t : Trig) (q : Fin 4) (n : Fin 8) : Statement (.piface t q n) :=
  of_wordU t (fun t => .piface t q n) 0x76 (48 + q.val) (evenEnc n) 0 rfl (by decide) (by omega) (by simp) (by decide) (fun _ => by simp [decodeOp, Dec.ap1, Dec.ap2, Dec.ap3, Dec.ap4, row14, uE, fn0])
theorem pcost (t : Trig) (q : Fin 4) (a : SSrc) : Statement (.pcost t q a) :=
  of_wordU t (fun t => .pcost t q a) 0x77 (48 + q.val) a.enc 0 rfl (by decide) (by omega) (by simp) (by decide) (fun _ => by simp [decodeOp, Dec.ap1, Dec.ap2, Dec.ap3, Dec.ap4, row14, uQ, fn0])
theorem plaunch (t : Trig) (q : Fin 4) (a b : SSrc) : Statement (.plaunch t q a b) :=
  of_wordT t (fun t => .plaunch t q a b) 0x78 (48 + q.val) a.enc b.enc 0 rfl (by decide) (by omega) (by simp) (by simp) (by decide) (fun _ => by simp [decodeOp, Dec.ap1, Dec.ap2, Dec.ap3, Dec.ap4, row15])
theorem plaunchC (t : Trig) (q : Fin 4) (a b : SSrc) : Statement (.plaunchC t q a b) :=
  of_wordT t (fun t => .plaunchC t q a b) 0x78 (48 + q.val) a.enc b.enc 1 rfl (by decide) (by omega) (by simp) (by simp) (by decide) (fun _ => by simp [decodeOp, Dec.ap1, Dec.ap2, Dec.ap3, Dec.ap4, row15])
theorem pfree (t : Trig) (r : RDst) (a : SSrc) : Statement (.pfree t r a) :=
  of_wordU t (fun t => .pfree t r a) 0x79 r.enc a.enc 0 rfl (by decide) (by simp) (by simp) (by decide) (fun _ => by simp [decodeOp, Dec.ap1, Dec.ap2, Dec.ap3, Dec.ap4, row15, uRS, fn0])
theorem xreq (t : Trig) (o : Fin 4) (a : VSrc) : Statement (.xreq t o a) :=
  of_wordU t (fun t => .xreq t o a) 0x7A (48 + o.val) a.enc 0 rfl (by decide) (by omega) (by simp) (by decide) (fun _ => by simp [decodeOp, Dec.ap1, Dec.ap2, Dec.ap3, Dec.ap4, row15, uO, fn0])
theorem xexp (t : Trig) (a : SSrc) : Statement (.xexp t a) :=
  of_wordU t (fun t => .xexp t a) 0x7B 0 a.enc 0 rfl (by decide) (by decide) (by simp) (by decide) (fun _ => by simp [decodeOp, Dec.ap1, Dec.ap2, Dec.ap3, Dec.ap4, row15, uA, fn0])
theorem crdy (t : Trig) (q : Fin 4) (a : SSrc) : Statement (.crdy t q a) :=
  of_wordU t (fun t => .crdy t q a) 0x7C (48 + q.val) a.enc 0 rfl (by decide) (by omega) (by simp) (by decide) (fun _ => by simp [decodeOp, Dec.ap1, Dec.ap2, Dec.ap3, Dec.ap4, row15, uQ, fn0])
theorem cslot (t : Trig) (q : Fin 4) (a : SSrc) : Statement (.cslot t q a) :=
  of_wordU t (fun t => .cslot t q a) 0x7D (48 + q.val) a.enc 0 rfl (by decide) (by omega) (by simp) (by decide) (fun _ => by simp [decodeOp, Dec.ap1, Dec.ap2, Dec.ap3, Dec.ap4, row15, uQ, fn0])
theorem qpush (t : Trig) (q : Fin 4) (a : VSrc) (m : Fin 8) : Statement (.qpush t q a m) := by
  have h1 : m.val < 128 := by omega
  have h2 : ¬ 8 ≤ m.val := by omega
  exact of_wordU t (fun t => .qpush t q a m) 0x7E (48 + q.val) a.enc m.val rfl (by decide) (by omega) (by simp) (by assumption) (fun _ => by simp [decodeOp, Dec.ap1, Dec.ap2, Dec.ap3, Dec.ap4, row15, uO, Sys2Proof.sub, h1, h2])
theorem rnext (t : Trig) (q : Fin 4) (m : Fin 8) : Statement (.rnext t q m) := by
  have h1 : m.val < 128 := by omega
  have h2 : ¬ 8 ≤ m.val := by omega
  exact of_wordU t (fun t => .rnext t q m) 0x7F (48 + q.val) 0 m.val rfl (by decide) (by omega) (by decide) (by assumption) (fun _ => by simp [decodeOp, Dec.ap1, Dec.ap2, Dec.ap3, Dec.ap4, row15, Sys2Proof.sub, h1, h2])
theorem rangeUnitServe (rq : Nat) : Statement (.rangeUnitServe rq) := of_none rfl
theorem kickWrite (q : Fin 1024) (v : Word) : Statement (.kickWrite q v) := of_none rfl
theorem qstatWrite (q : Fin 1024) (v : Word) : Statement (.qstatWrite q v) := of_none rfl
theorem registerWrite (off : Nat) (v : Word) : Statement (.registerWrite off v) := of_none rfl
theorem amFlush : Statement .amFlush := of_none rfl
theorem amPin (pin : BitVec 3) : Statement (.amPin pin) := of_none rfl
theorem amReadEntry : Statement .amReadEntry := of_none rfl
theorem amRegister : Statement .amRegister := of_none rfl
theorem libInstall : Statement .libInstall := of_none rfl
theorem libRemove : Statement .libRemove := of_none rfl
theorem debugArm (region : BitVec 12) : Statement (.debugArm region) := of_none rfl
theorem debugResume : Statement .debugResume := of_none rfl
theorem debugStop (region : Nat) : Statement (.debugStop region) := of_none rfl
theorem spdmGetMeasurements (idx : Nat) : Statement (.spdmGetMeasurements idx) := of_none rfl
theorem hostMemWrite (pa : Nat) (bytes : List Byte) : Statement (.hostMemWrite pa bytes) := of_none rfl
theorem hostMemRead (pa n : Nat) : Statement (.hostMemRead pa n) := of_none rfl
theorem dispatchGrant : Statement .dispatchGrant := of_none rfl
theorem launch (p : Nat) : Statement (.launch p) := of_none rfl
theorem graph (p : Nat) : Statement (.graph p) := of_none rfl
theorem wait (p : Nat) : Statement (.wait p) := of_none rfl
theorem waitRetest (p : Nat) : Statement (.waitRetest p) := of_none rfl
theorem queueUnpark (q : Fin 1024) : Statement (.queueUnpark q) := of_none rfl
theorem signal (p : Nat) : Statement (.signal p) := of_none rfl
theorem copy (p : Nat) : Statement (.copy p) := of_none rfl
theorem preempt (p : Nat) : Statement (.preempt p) := of_none rfl
theorem preemptKill (p : Nat) : Statement (.preemptKill p) := of_none rfl
theorem barrier (p : Nat) : Statement (.barrier p) := of_none rfl
theorem launchReserveTurn (l : Nat) : Statement (.launchReserveTurn l) := of_none rfl
theorem regionPlace (l : Nat) : Statement (.regionPlace l) := of_none rfl
theorem slotTableApply (tile : Nat) : Statement (.slotTableApply tile) := of_none rfl
theorem registerFillComplete (tile : Nat) : Statement (.registerFillComplete tile) := of_none rfl
theorem registerEvictComplete (tile : Nat) : Statement (.registerEvictComplete tile) := of_none rfl
theorem followerFire (tile : Nat) (slot : Fin 32) : Statement (.followerFire tile slot) := of_none rfl
theorem tokenDeliver (h : HopRef) : Statement (.tokenDeliver h) := of_none rfl
theorem scatterForward (tile n : Nat) : Statement (.scatterForward tile n) := of_none rfl
theorem gatherForward (tile n : Nat) : Statement (.gatherForward tile n) := of_none rfl
theorem stagingSend (tile : Nat) : Statement (.stagingSend tile) := of_none rfl
theorem replyTokenEnter (rq : Nat) : Statement (.replyTokenEnter rq) := of_none rfl
theorem faultTokenDeliver (f : Nat) : Statement (.faultTokenDeliver f) := of_none rfl
theorem streamReadToken (tile : Nat) (g : Fin 4) : Statement (.streamReadToken tile g) := of_none rfl
theorem streamWriteToken (tile : Nat) (g : Fin 4) : Statement (.streamWriteToken tile g) := of_none rfl
theorem streamComplete (tile : Nat) (g : Fin 4) : Statement (.streamComplete tile g) := of_none rfl
theorem reduceContribution (tile : Nat) (g : Fin 4) : Statement (.reduceContribution tile g) := of_none rfl
theorem summaryInsert (tile : Nat) (g : Fin 4) : Statement (.summaryInsert tile g) := of_none rfl
theorem topkInsert (tile : Nat) (g : Fin 4) : Statement (.topkInsert tile g) := of_none rfl
theorem walkRequest (tile : Nat) (g : Fin 4) : Statement (.walkRequest tile g) := of_none rfl
theorem accTokenAdd (tile : Nat) (q : Fin 4) : Statement (.accTokenAdd tile q) := of_none rfl
theorem accAck (tile : Nat) : Statement (.accAck tile) := of_none rfl
theorem mrowResult (tile id : Nat) : Statement (.mrowResult tile id) := of_none rfl
theorem mrowReplayResult (tile id : Nat) (ok : Bool) : Statement (.mrowReplayResult tile id ok) := of_none rfl
theorem mdrainResult (tile id : Nat) : Statement (.mdrainResult tile id) := of_none rfl
theorem mzeroComplete (tile : Nat) : Statement (.mzeroComplete tile) := of_none rfl
theorem mgathRowArrive (tile : Nat) : Statement (.mgathRowArrive tile) := of_none rfl
theorem tileRequestServe (rq : Nat) : Statement (.tileRequestServe rq) := of_none rfl
theorem ldsRelease (rq : Nat) : Statement (.ldsRelease rq) := of_none rfl
theorem summaryOpServe (rq : Nat) : Statement (.summaryOpServe rq) := of_none rfl
theorem homePortServe (rq : Nat) : Statement (.homePortServe rq) := of_none rfl
theorem atomicPerform (rq : Nat) : Statement (.atomicPerform rq) := of_none rfl
theorem portAccess (rq : Nat) : Statement (.portAccess rq) := of_none rfl
theorem pageFetchComplete (f : Nat) : Statement (.pageFetchComplete f) := of_none rfl
theorem pageEvict (pte : Nat) (bdrive : Fin 4) (lba : Nat) : Statement (.pageEvict pte bdrive lba) := of_none rfl
theorem drainLimitExpiry (region : Nat) : Statement (.drainLimitExpiry region) := of_none rfl
theorem regionCheckpoint (region : Nat) : Statement (.regionCheckpoint region) := of_none rfl
theorem regionReplace (region : Nat) : Statement (.regionReplace region) := of_none rfl
theorem flashFetchError (f : Nat) : Statement (.flashFetchError f) := of_none rfl
theorem flashFetchTimeout (f : Nat) : Statement (.flashFetchTimeout f) := of_none rfl
theorem transferAccept (x : Nat) : Statement (.transferAccept x) := of_none rfl
theorem transferGranule (x : Nat) : Statement (.transferGranule x) := of_none rfl
theorem channelToken (region : Nat) (ch : Nat) : Statement (.channelToken region ch) := of_none rfl
theorem solderServe (die : Fin 4) : Statement (.solderServe die) := of_none rfl
theorem quantumRefresh (die : Fin 4) (pa : Nat) : Statement (.quantumRefresh die pa) := of_none rfl
theorem regionRetire (region : Nat) : Statement (.regionRetire region) := of_none rfl
theorem completionRecord (p : Nat) : Statement (.completionRecord p) := of_none rfl
theorem taskCommit (t : Nat) : Statement (.taskCommit t) := of_none rfl
theorem tcommitRound (region : Nat) : Statement (.tcommitRound region) := of_none rfl
theorem pewterEpochTick : Statement .pewterEpochTick := of_none rfl
theorem objectDestroyBegin : Statement .objectDestroyBegin := of_none rfl
theorem destructionPoint : Statement .destructionPoint := of_none rfl
theorem engineChunkServe (die : Fin 4) : Statement (.engineChunkServe die) := of_none rfl
theorem chunkArrive (c : Chunk) : Statement (.chunkArrive c) := of_none rfl
theorem collectiveComplete (die : Fin 4) (entry : Nat) : Statement (.collectiveComplete die entry) := of_none rfl
theorem switchCombine (c : Chunk) : Statement (.switchCombine c) := of_none rfl
theorem switchLimitExpiry (n : Nat) : Statement (.switchLimitExpiry n) := of_none rfl
theorem chunkReoffer (n : Nat) : Statement (.chunkReoffer n) := of_none rfl
theorem cslotStart (tile : Nat) : Statement (.cslotStart tile) := of_none rfl
theorem cslotEnd (tile : Nat) : Statement (.cslotEnd tile) := of_none rfl
theorem pageMigrate (pte mig : Nat) (dest : Nat) : Statement (.pageMigrate pte mig dest) := of_none rfl
theorem watchpointRecord (wp : Fin 4) (cls : BitVec 4) (die : Fin 4) (kind : BitVec 2) (sec : Nat) : Statement (.watchpointRecord wp cls die kind sec) := of_none rfl
theorem droopTrip : Statement .droopTrip := of_none rfl
theorem powerCapStep : Statement .powerCapStep := of_none rfl
theorem machineCheck (src : Fin 6) (addr : Nat) (region : Nat) : Statement (.machineCheck src addr region) := of_none rfl
theorem deviceReset : Statement .deviceReset := of_none rfl
theorem pwrstatRead : Statement .pwrstatRead := of_none rfl

end Laws.Encoding
end Sys2Proof
end

