-- ==== Sys2Proof/Tests/Slice0.lean ====
section
/-!
SUPPORT. Tests of the model: words written out from the encodings of the spec, ill-formed terms that the check refuses, single steps with results
worked out by hand from the rules, and for each statement with hypotheses a state and operands that meet them.
-/
set_option maxRecDepth 100000
set_option exponentiation.threshold 700

namespace Sys2Proof.Tests
open Sys2Proof.Machine
open Sys2Proof.Claims

/-! ## Decoding: words of the encodings of R77 to R95, written out bit by bit, decode to the instructions that they stand for -/

/-- Every word of a list decodes to the instruction beside it. -/
def decodes (l : List (BitVec 32 × Instr)) : Bool := l.all (fun x => decodeWord x.1 == some x.2)

/-- The system cell (R93): NOP, HALT, TRAP, TMARK, RDSR of FLAGS, WRSR, WFLD of field 1, SEL with and without POL, TSET, TCOMMIT. -/
theorem test_decode_system : decodes [(0xE0080000, .nop .always), (0xE0080001, .halt .always), (0xE0080002, .trap .always),
    (0xE0080003, .tmark .always), (0xE0144004, .rdsr .always (.s 2) .flags), (0xE0181184, .wrsr .always (.s 3)),
    (0xE03C4001, .wfld .always (.s 2) (.field 1)), (0xE0345181, .sel .always (.s 2 (.s 3)) false 1), (0xE0345189, .sel .always (.s 2 (.s 3)) true 1),
    (0xE3201200, .tset .always (.s 4)), (0xE3281800, .tcommit .always (.i 0))] = true := by decide

/-- Scalar arithmetic: the operands of the spec's worked encodings are s2 (34), s3 (3) and s4 (4). -/
theorem test_decode_scalar : decodes [(0xE0246002, .movi .always 3 2), (0xE02C7EED, .movhi .always 3 0x1EED), (0xE04C7FFF, .addi .always 3 (-1)),
    (0xE05451C8, .sub .always (.s 2) (.s 3) (.s 4)), (0xE05C51C8, .mul .always (.s 2) (.s 3) (.s 4)), (0xE06451C8, .mulh .always (.s 2) (.s 3) (.s 4)),
    (0xE06C51C8, .mulhu .always (.s 2) (.s 3) (.s 4)), (0xE07451C8, .div .always (.s 2) (.s 3) (.s 4)), (0xE07C51C8, .divu .always (.s 2) (.s 3) (.s 4)),
    (0xE08451C8, .rem .always (.s 2) (.s 3) (.s 4)), (0xE08C51C8, .remu .always (.s 2) (.s 3) (.s 4)), (0xE0AC8080, .ori .always 4 0x80),
    (0xE0B451C8, .xor .always (.s 2) (.s 3) (.s 4)), (0xE0BC7FFF, .xori .always 3 (-1)), (0xE0CC6004, .shli .always 3 4),
    (0xE0E451C8, .sar .always (.s 2) (.s 3) (.s 4)), (0xE0FC51C8, .minu .always (.s 2) (.s 3) (.s 4)), (0xE10451C8, .max .always (.s 2) (.s 3) (.s 4)),
    (0xE1143480, .clz .always (.s 1) (.s 9)), (0xE1143481, .popc .always (.s 1) (.s 9)), (0xE11C51F2, .bfx .always (.s 2) (.s 3) (.c 1))] = true := by decide

/-- Predicates and masks. -/
theorem test_decode_predicate : decodes [(0xE13249EA, .cmpi .always 2 false (.s 4) (-3) .lt), (0xE13B0210, .plog .always 3 false 1 2 .and),
    (0xE189041A, .vcmp .always 1 false (.v 2) (.v 3) .lt), (0xE221041B, .vicmp .always 1 false (.v 2) (.v 3) .ltu), (0xE25A000B, .klog .always 2 false 0 1 .andn),
    (0xE2603180, .kmovToMask .always 1 (.s 3)), (0xE2644081, .kmovFromMask .always (.s 2) 1)] = true := by decide

/-- Vector arithmetic in W40. -/
theorem test_decode_float : decodes [(0xE1402106, .vadd .always (.v 1) (.v 2) (.v 3)), (0xE1482106, .vsub .always (.v 1) (.v 2) (.v 3)),
    (0xE1502106, .vmul .always (.v 1) (.v 2) (.v 3)), (0xE1582106, .vfma .always 1 (.v 2) (.v 3)), (0xE1602106, .vfms .always 1 (.v 2) (.v 3)),
    (0xE1682106, .vfnma .always 1 (.v 2) (.v 3)), (0xE1702106, .vmin .always (.v 1) (.v 2) (.v 3)), (0xE1782106, .vmax .always (.v 1) (.v 2) (.v 3)),
    (0xE1B02106, .vscale .always (.v 1) (.v 2) (.v 3)), (0xE1A02100, .vrcps .always (.v 1) (.v 2)), (0xE1A02101, .vrsqs .always (.v 1) (.v 2)),
    (0xE1A02102, .vexp2s .always (.v 1) (.v 2)), (0xE1A02103, .vlog2s .always (.v 1) (.v 2)), (0xE1A82102, .vrnd .always (.v 1) (.v 2) .rdn),
    (0xE1C02101, .vsrnd .always (.v 1) (.v 2) .bf16)] = true := by decide

/-- Vector moves, integer lanes, permutations and reductions. -/
theorem test_decode_vector : decodes [(0xE1802100, .vabs .always (.v 1) (.v 2)), (0xE1802101, .vneg .always (.v 1) (.v 2)),
    (0xE1802102, .vmov .always (.v 1) (.v 2)), (0xE1803183, .vbcast .always (.v 1) (.s 3)), (0xE1902103, .vsel .always 1 (.v 2) 3),
    (0xE19C4185, .vextr .always (.s 2) (.v 3) 5), (0xE1C82106, .viadd .always (.v 1) (.v 2) (.v 3)), (0xE1D02106, .visub .always (.v 1) (.v 2) (.v 3)),
    (0xE1D82106, .vimul .always (.v 1) (.v 2) (.v 3)), (0xE1E02106, .vimin .always (.v 1) (.v 2) (.v 3)), (0xE1E82106, .vimax .always (.v 1) (.v 2) (.v 3)),
    (0xE1F02106, .vand .always (.v 1) (.v 2) (.v 3)), (0xE1F82106, .vor .always (.v 1) (.v 2) (.v 3)), (0xE2002106, .vxor .always (.v 1) (.v 2) (.v 3)),
    (0xE2082106, .vshl .always (.v 1) (.v 2) (.v 3)), (0xE2102106, .vshr .always (.v 1) (.v 2) (.v 3)), (0xE2182106, .vsar .always (.v 1) (.v 2) (.v 3)),
    (0xE2282106, .vperm .always (.v 1) (.v 2) (.v 3)), (0xE2302103, .vrot .always (.v 1) (.v 2) false 3), (0xE2302113, .vrot .always (.v 1) (.v 2) true 3),
    (0xE23C4180, .vreda .always (.s 2) (.v 3)), (0xE23C4181, .vredmMax .always (.s 2) (.v 3)), (0xE23C4182, .vredmMin .always (.s 2) (.v 3)),
    (0xE2402100, .vscan .always (.v 1) (.v 2) .add), (0xE2482103, .vcprs .always (.v 1) (.v 2) 3), (0xE2502103, .vxpnd .always (.v 1) (.v 2) 3)] = true := by decide

/-- The matrix unit. -/
theorem test_decode_matrix : decodes [(0xE2681200, .mcfg .always 2), (0xE2701800, .mldb .always 0), (0xE27E1880, .mrow .always 0 1),
    (0xE27E0001, .mrowG .always 0), (0xE2800180, .mgath .always (.v 3)), (0xE28E3903, .mdrainR .always 1 false 2 true), (0xE2900000, .mzero .always)] = true := by decide

/-- Memory, atomics, fences and barriers. -/
theorem test_decode_memory : decodes [(0xE29E3201, .ldsW .always 1 (.s 4)), (0xE2A71206, .sts .always .nul (.s 4) (.v 3)), (0xE2AE5201, .feopSet .always (.i 2) 2),
    (0xE2B61300, .ldg .always 0 (.s 6)), (0xE2BE124A, .stg .always (.i 0) (.s 4) (.s 5)), (0xE2C67201, .ldw .always 3 2 1),
    (0xE2CE3265, .aadd .always (.i 1) 2 (.sync .rel .package)), (0xE2CF1201, .aadd .always .nul 2 (.relaxed .commutative)),
    (0xE3163875, .fence .always (.i 1) (.i 0) .ar .package), (0xE31E7202, .bar .always 3 (.s 4) .region)] = true := by decide

/-- Handles and summaries. -/
theorem test_decode_objects : decodes [(0xE336324B, .hnew .always 1 (.s 4) (.s 5) true), (0xE33E1300, .hdup .always (.i 0) (.s 6)),
    (0xE33F1301, .hrel .always .nul (.s 6)), (0xE33CF302, .hweak .always (.s 7) (.s 6)), (0xE33E531B, .hupg .always 2 (.s 6) 3),
    (0xE33E7304, .hinfo .always 3 (.s 6)), (0xE347130F, .hprio .always .nul (.s 6) 15), (0xE34E3200, .sinitQs .always (.i 1) 2),
    (0xE34F1202, .sinitDc .always .nul 2), (0xE3564280, .qsins .always 2 (.v 5)), (0xE3564281, .hhins .always 2 (.v 5)), (0xE3562182, .dcins .always 1 (.v 3)),
    (0xE35E324C, .smerge .always (.i 1) (.s 4) (.s 6)), (0xE3663200, .qread .always 1 2), (0xE3663201, .qrank .always 1 2), (0xE3665302, .hhget .always 2 3),
    (0xE3663203, .dcest .always 1 2), (0xE36E3200, .tkinit .always (.i 1) 2), (0xE376324A, .tkins .always 1 (.s 4) (.s 5)),
    (0xE37E5300, .tkout .always 2 3)] = true := by decide

/-- Plans, channels, collectives, queues and the range unit. -/
theorem test_decode_plans : decodes [(0xE3863C00, .pfrag .always 1 (.c 0)), (0xE38E124C, .pseq .always 0 (.s 4) (.s 6)), (0xE396124C, .povl .always 0 (.s 4) (.s 6)),
    (0xE39E124C, .ppipe .always 0 2 (.s 6)), (0xE3A6124C, .pnest .always 0 2 (.s 6)), (0xE3AE124C, .prep .always 0 (.s 4) (.s 6)),
    (0xE3BE3200, .pcost .always 1 (.s 4)), (0xE3C6124C, .plaunch .always 0 (.s 4) (.s 6)), (0xE3C6124D, .plaunchC .always 0 (.s 4) (.s 6)),
    (0xE3CF1200, .pfree .always .nul (.s 4)), (0xE3D62180, .xreq .always 1 (.v 3)), (0xE3D81200, .xexp .always (.s 4)), (0xE3E63200, .crdy .always 1 (.s 4)),
    (0xE3EE5300, .cslot .always 2 (.s 6)), (0xE3F62103, .qpush .always 1 (.v 2) 3), (0xE3FE4001, .rnext .always 2 1)] = true := by decide

/-- Words that are no instruction are refused (R96): opcode 0, trigger code 58, SYS with FN 4, VCMP with the condition LTU, ADD with the reserved
destination 57, KMOV from a mask register 4. -/
theorem test_decode_refuses : ([0xE0000000, 0xE8080000, 0xE0080004, 0xE189041B, 0xE04731C8, 0xE2644201] : List (BitVec 32)).all
    (fun w => decodeWord w == none) = true := by decide

/-! ## Well-formedness: an ill-formed term for each check, which the check refuses -/

/-- Every instruction of a list is ill-formed. -/
def illFormed (l : List Instr) : Bool := l.all (fun i => !i.wf)

/-- A chunk with nothing wrong but what `f` makes of it. -/
def chunk (f : Chunk → Chunk := id) : Chunk := f ⟨5, 0x1000, 0, 0, 1, 0, BitVec.setWidth 640 (1 : Byte), List.replicate 1024 0, [], []⟩

/-- PLOG and KLOG with MOV and a second operand; VCMP with an unsigned condition (R80, R94). -/
theorem test_wf_predicates : illFormed [.plog .always 0 false 1 2 .mov, .klog .always 0 false 1 2 .mov, .vcmp .always 0 false (.v 0) (.v 1) .ltu,
    .vcmp .always 0 false (.v 0) (.v 1) .leu] = true := by decide

/-- Atomics: commutative with a reply, acquire or acquire-release without one; ASWP and ACAS commutative, ACAS quantum, ACAS without three registers; FENCE
that acquires without a reply (R289, R307). -/
theorem test_wf_atomics : illFormed [.aadd .always (.i 0) 0 (.relaxed .commutative), .afadd .always (.i 0) 0 (.relaxed .commutative),
    .amin .always (.i 0) 0 (.relaxed .commutative), .amax .always (.i 0) 0 (.relaxed .commutative), .aand .always (.i 0) 0 (.relaxed .commutative),
    .aor .always (.i 0) 0 (.relaxed .commutative), .axor .always (.i 0) 0 (.relaxed .commutative), .aadd .always .nul 0 (.sync .acq .die),
    .aswp .always .nul 0 (.sync .ar .die), .aswp .always .nul 0 (.relaxed .commutative), .acas .always .nul 0 (.relaxed .commutative),
    .acas .always (.i 0) 0 (.relaxed .quantum), .acas .always (.i 0) 7 (.relaxed .unpaired), .fence .always .nul (.i 0) .acq .package,
    .fence .always .nul (.i 0) .ar .package] = true := by decide

/-- Tiles from 6,144, regions from 4,096 and addresses from 2^50 do not exist (R7, R194, R204). -/
theorem test_wf_tiles : illFormed [.slotTableApply 6144, .registerFillComplete 6144, .registerEvictComplete 6144, .followerFire 6144 0,
    .tokenDeliver (.port 6144 0), .scatterForward 6144 0, .gatherForward 6144 0, .stagingSend 6144, .streamReadToken 6144 0, .streamWriteToken 6144 0,
    .streamComplete 6144 0, .reduceContribution 6144 0, .summaryInsert 6144 0, .topkInsert 6144 0, .walkRequest 6144 0, .accTokenAdd 6144 0, .accAck 6144,
    .mrowResult 6144 0, .mrowReplayResult 6144 0 true, .mdrainResult 6144 0, .mzeroComplete 6144, .mgathRowArrive 6144, .cslotStart 6144,
    .cslotEnd 6144] = true := by decide

theorem test_wf_regions : illFormed [.debugStop 4096, .drainLimitExpiry 4096, .regionCheckpoint 4096, .regionReplace 4096, .channelToken 4096 1,
    .channelToken 0 0, .channelToken 0 4096, .regionRetire 4096, .tcommitRound 4096, .machineCheck 0 0 4096] = true := by decide

theorem test_wf_addresses : illFormed [.registerWrite (2 ^ 20) 0, .hostMemWrite (2 ^ 50) [], .hostMemRead (2 ^ 50) 0, .pageEvict (2 ^ 50) 0 0,
    .pageEvict 0 0 (2 ^ 42), .quantumRefresh 0 (2 ^ 50), .pageMigrate (2 ^ 50) 0 0, .pageMigrate 0 (2 ^ 50) 0, .pageMigrate 0 0 (2 ^ 50),
    .machineCheck 0 (2 ^ 50) 0] = true := by decide

/-- A chunk has 1,024 bytes, an operator 0 to 5, an index below 1,024, at most 640 ranks and one of them, exact sums only under OP 1, 3 or 4, and a table has
1,024 entries (R228, R233, R236). -/
theorem test_wf_chunks : ([fun c => { c with data := [] }, fun c => { c with op := 6 }, fun c => { c with index := 1024 }, fun c => { c with expect := 641 },
    fun c => { c with ranks := BitVec.setWidth 640 (0 : Byte) }, fun c => { c with wide := [1] }] : List (Chunk → Chunk)).all (fun f => !(Instr.chunkArrive (chunk f)).wf && !(Instr.switchCombine (chunk f)).wf) = true
    ∧ (Instr.chunkArrive (chunk)).wf = true ∧ (Instr.collectiveComplete 0 1024).wf = false := by decide

/-! ## Single firings, with results worked out by hand from the rules -/

/-- The word of an instruction. -/
def word (i : Instr) : BitVec 32 := (encode i).getD 0

/-- A state in which an instruction stands in slot 0 of the element at die 0, x 1, y 0, its sources filled, at the moment of its firing; `f` changes the element.
The memory tile of its region is tile 2. -/
def fired (i : Instr) (f : Elem → Elem := id) : State := ({ State.reset.placeWord (word i) with scan := [], cur := some ⟨1, 0, 0, true⟩ }).modElem 1 f

/-- Context 0 with a change. -/
def inCtx (f : Ctx → Ctx) (e : Elem) : Elem := { e with ctx := e.ctx.set 0 (f (e.ctx.get 0)) (by decide) }

/-- Scalar register `n` of context 0 with a value. -/
def sreg (n : Fin 16) (w : Word) : Elem → Elem := inCtx (fun c => { c with s := c.s.set n.val w n.isLt })

/-- Vector register `n` of context 0 resident, with values in its first lanes (R19). -/
def vreg (n : Fin 32) (xs : List Lane) (e : Elem) : Elem :=
  let e := inCtx (fun c => { c with v := c.v.set n.val (Vec.build (fun k => xs.getD k 0)) n.isLt }) e
  { e with resident := (0, n.val) :: e.resident }

/-- What holds of context 0 after a firing that completes. -/
def gives (i : Instr) (f : Elem → Elem) (p : Ctx → Bool) : Bool :=
  match exec i (fired i f) with
  | .next t => (t.ctx? 1 0).any p
  | .fault _ => false
  | .refused _ => false

/-- s1 after a firing of an instruction whose sources s2 and s3 hold `a` and `b`. -/
def result (i : Instr) (a b : Word) (x : Word) : Bool := gives i (sreg 2 a ∘ sreg 3 b) (fun c => c.s.get 1 == x)

/-- R294, R375, R340: sums and products wrap; the high half of −1 × 1 is −1, that of 2^63 × 4 without signs is 2. -/
theorem test_add_mul : result (.add .always (.s 1) (.s 2) (.s 3)) (-1) 2 1 = true ∧ result (.sub .always (.s 1) (.s 2) (.s 3)) 1 2 (-1) = true ∧
    result (.mul .always (.s 1) (.s 2) (.s 3)) (2 ^ 63) 2 0 = true ∧ result (.mulh .always (.s 1) (.s 2) (.s 3)) (-1) 1 (-1) = true ∧
    result (.mulhu .always (.s 1) (.s 2) (.s 3)) (2 ^ 63) 4 2 = true := by decide

/-- R306, R363: −7 / 2 is −3 with remainder −1; by zero the quotient is all ones and the remainder the dividend; −2^63 / −1 is −2^63. -/
theorem test_division : result (.div .always (.s 1) (.s 2) (.s 3)) (-7) 2 (-3) = true ∧ result (.rem .always (.s 1) (.s 2) (.s 3)) (-7) 2 (-1) = true ∧
    result (.div .always (.s 1) (.s 2) (.s 3)) 5 0 (-1) = true ∧ result (.remu .always (.s 1) (.s 2) (.s 3)) 5 0 5 = true ∧
    result (.div .always (.s 1) (.s 2) (.s 3)) (2 ^ 63) (-1) (2 ^ 63) = true ∧ result (.rem .always (.s 1) (.s 2) (.s 3)) (2 ^ 63) (-1) 0 = true ∧
    result (.divu .always (.s 1) (.s 2) (.s 3)) 5 0 (-1) = true := by decide

/-- R366: only bits [5:0] of the count are read; SAR of −16 by 2 is −4, SHR of −16 by 60 is 0xF. -/
theorem test_shifts : result (.sar .always (.s 1) (.s 2) (.s 3)) (-16) 2 (-4) = true ∧ result (.shr .always (.s 1) (.s 2) (.s 3)) (-16) 60 0xF = true ∧
    result (.shl .always (.s 1) (.s 2) (.s 3)) 3 65 6 = true := by decide

/-- R298, the manual's example: b = 0x408 is lo 8 and w 16. R299, R355: CLZ of 0 is 64. -/
theorem test_bits : result (.bfx .always (.s 1) (.s 2) (.s 3)) 0x00ABCD00 0x408 0xABCD = true ∧
    gives (.bfi .always 1 (.s 2) (.s 3)) (sreg 1 (-1) ∘ sreg 2 0x1234 ∘ sreg 3 0x408) (fun c => c.s.get 1 == 0xFFFFFFFFFF1234FF) = true ∧
    result (.clz .always (.s 1) (.s 2)) 0 0 64 = true ∧ result (.clz .always (.s 1) (.s 2)) 1 0 63 = true ∧ result (.popc .always (.s 1) (.s 2)) 0xF0F0 0 8 = true := by
  decide

/-- R339, the manual's example: MOVI 2 and MOVHI 0x1EED make 0x5EED. R294: ADDI of −1. -/
theorem test_immediates : gives (.movi .always 1 2) id (fun c => c.s.get 1 == 2) = true ∧
    gives (.movhi .always 1 0x1EED) (sreg 1 2) (fun c => c.s.get 1 == 0x5EED) = true ∧
    gives (.addi .always 1 (-1)) (sreg 1 0) (fun c => c.s.get 1 == -1) = true ∧ gives (.movi .always 1 (-1)) id (fun c => c.s.get 1 == -1) = true := by decide

/-- R300: −5 < −3 as numbers with signs, not without; R352. -/
theorem test_predicates : gives (.cmpi .always 2 false (.s 4) (-3) .lt) (sreg 4 (-5)) (fun c => c.p == 4) = true ∧
    gives (.cmp .always 2 false (.s 2) (.s 3) .ltu) (sreg 2 (-5) ∘ sreg 3 3) (fun c => c.p == 0) = true ∧
    gives (.plog .always 3 true 1 2 .and) id (fun c => c.p == 8) = true := by decide

/-- R388, the manual's example: mask 0x0015 on 10, 11, … compresses to 10, 12, 14 and expands to 10, 0, 11, 0, 12. R394, R397. -/
theorem test_permutations : gives (.vcprs .always (.v 1) (.v 2) 3) (vreg 2 [10, 11, 12, 13, 14, 15] ∘ inCtx (fun c => { c with k := c.k.set 3 0x15 (by decide) }))
      (fun c => (List.range 5).map (c.v.get 1).lane == [10, 12, 14, 0, 0]) = true ∧
    gives (.vxpnd .always (.v 1) (.v 2) 3) (vreg 2 [10, 11, 12, 13, 14, 15] ∘ inCtx (fun c => { c with k := c.k.set 3 0x15 (by decide) }))
      (fun c => (List.range 6).map (c.v.get 1).lane == [10, 0, 11, 0, 12, 0]) = true ∧
    gives (.vrot .always (.v 1) (.v 2) false 1) (vreg 2 [10, 11]) (fun c => (List.range 3).map (c.v.get 1).lane == [0, 10, 11]) = true := by decide

/-- R395, the manual's example: 2^100, 1 and −2^100 add to exactly 1. R99, R384: 1 + 1 = 2, 1.5 × 1.5 = 2.25; −2.5 is 0xC005000000. -/
theorem test_float : gives (.vreda .always (.s 1) (.v 2)) (vreg 2 [0x431C000000, 0x3FFC000000, 0xC31C000000]) (fun c => c.s.get 1 == 0x3FFC000000) = true ∧
    gives (.vadd .always (.v 1) (.v 2) (.v 2)) (vreg 2 [0x3FFC000000]) (fun c => (c.v.get 1).lane 0 == 0x4004000000) = true ∧
    gives (.vmul .always (.v 1) (.v 2) (.v 2)) (vreg 2 [0x3FFE000000]) (fun c => (c.v.get 1).lane 0 == 0x4004800000) = true ∧
    gives (.vsub .always (.v 1) (.v 2) (.v 3)) (vreg 2 [] ∘ vreg 3 [0x4005000000]) (fun c => (c.v.get 1).lane 0 == 0xC005000000) = true := by decide

/-- R312 and R81: HALT halts; a slot whose predicate is clear changes nothing. -/
theorem test_halt : gives (.halt .always) id (fun c => c.st == .halted) = true ∧
    gives (.halt (.pSet 3)) (inCtx (fun c => { c with p := 0 })) (fun c => c.st == .armed) = true := by decide

/-- R382, R211: TRAP freezes its context. -/
theorem test_trap : (match exec (.trap .always) (fired (.trap .always)) with
    | .next t => (t.region? 0).any (fun g => g.phase == .stopped && g.stopKind == 12)
    | _ => false) = true := by decide

/-! ## Witnesses: firings

For each statement about firings, instructions of every constructor that it names get under way in a state with what its hypotheses ask. -/

/-- The firing gets under way, in an environment with a property. -/
def enters (s : State) (i : Instr) (p : Env → Bool) : Bool := (s.enter i).any (fun x => p x.1)

theorem enters_spec {s : State} {i : Instr} {p : Env → Bool} (h : enters s i p = true) : ∃ e s1, s.enter i = some (e, s1) ∧ p e = true := by
  simpa [enters, Option.any_eq_true] using h

/-- Every firing of a list gets under way, with something to be said of it. -/
theorem all_enter {α : Type} {l : List Instr} {f : Elem → Elem} {r : State → Env → Instr → Option α}
    (h : l.all (fun i => enters (fired i f) i (fun e => (r (fired i f) e i).isSome)) = true) :
    ∀ i ∈ l, ∃ (s s1 : State) (e : Env) (x : α), s.enter i = some (e, s1) ∧ r s e i = some x := by
  intro i hi
  obtain ⟨e, s1, he, hx⟩ := enters_spec (List.all_eq_true.1 h i hi)
  obtain ⟨x, hx⟩ := Option.isSome_iff_exists.1 hx
  exact ⟨_, s1, e, x, he, hx⟩

/-- The same with a condition on what is said. -/
theorem all_enter_if {α : Type} {l : List Instr} {f : Elem → Elem} {r : State → Env → Instr → Option α} {p : Env → α → Bool}
    (h : l.all (fun i => enters (fired i f) i (fun e => (r (fired i f) e i).any (p e))) = true) :
    ∀ i ∈ l, ∃ (s s1 : State) (e : Env) (x : α), s.enter i = some (e, s1) ∧ r s e i = some x ∧ p e x = true := by
  intro i hi
  obtain ⟨e, s1, he, hx⟩ := enters_spec (List.all_eq_true.1 h i hi)
  obtain ⟨x, hx, hp⟩ := (Option.any_eq_true _ _).1 hx
  exact ⟨_, s1, e, x, he, hx, hp⟩

/-- One instruction for each constructor with a scalar result; destinations, sources and triggers vary. -/
def scalarForms : List Instr :=
  [.add .always (.s 1) (.s 2) (.s 3), .sub .always (.o 1) (.i 2) (.c 3), .mul .always (.s 1) (.s 2) (.s 3), .mulh .always (.s 1) (.s 2) (.s 3),
    .mulhu .always (.s 1) (.ik 0) (.s 3), .div .always (.s 1) (.s 2) (.s 3), .divu .always (.oe 3) (.s 2) (.s 3), .rem .always .nul (.s 2) (.s 3),
    .remu .always (.s 1) (.s 2) (.s 3), .and .always (.s 1) (.s 2) (.s 3), .or .always (.s 1) (.s 2) (.s 3), .xor .always (.s 1) (.s 2) (.s 3),
    .shl (.pSet 7) (.s 1) (.s 2) (.s 3), .shr (.pClear 7) (.s 1) (.s 2) (.s 3), .sar (.qTag 3 1) (.s 1) (.s 2) (.s 3), .min (.comp 15) (.s 1) (.s 2) (.s 3),
    .minu (.oFree 3) (.s 1) (.s 2) (.s 3), .max (.oEmpty 3) (.s 1) (.s 2) (.s 3), .maxu .always (.s 15) (.s 14) (.s 0), .clz .always (.s 1) (.s 2),
    .popc .always (.s 1) (.s 2), .bfx .always (.s 1) (.s 2) (.s 3), .bfi .always 1 (.s 2) (.s 3), .addi .always 3 (-1), .andi .always 3 5, .ori .always 3 5,
    .xori .always 3 5, .shli .always 3 63, .shri .always 3 1, .sari .always 3 1, .movi .always 3 (-1), .movhi .always 3 (-1),
    .wfld .always (.s 1) .whole, .vextr .always (.s 1) (.v 2) 15, .kmovFromMask .always (.s 1) 3, .hweak .always (.s 1) (.s 2)]

theorem wit_ScalarResultsAreWritten :
    (∀ i ∈ scalarForms, ∃ (s s1 : State) (e : Env) (x : SDst × Word), s.enter i = some (e, s1) ∧ scalarResult e i = some x) ∧
    scalarWord (.add .always (.s 2) (.s 3) (.s 4)) = some 0xE04451C8 :=
  ⟨all_enter (f := id) (r := fun _ => scalarResult) (by decide), by decide⟩

/-- Without trapping flags, or with a side halfword that does not trap. -/
def goesOn (e : Env) (f : Flags) : Bool := !(sideTrapf e.side && f.traps)

theorem wit_PredicatesAndMasksAreWritten :
    (∀ i ∈ [Instr.cmp .always 1 false (.s 1) (.s 2) .leu, .cmpi .always 7 true (.i 1) (-32) .eq, .plog .always 0 true 1 2 .xor, .plog .always 0 true 7 0 .mov],
      ∃ (s s1 : State) (e : Env) (x : Fin 8 × Bool), s.enter i = some (e, s1) ∧ predResult e i = some x) ∧
    (∀ i ∈ [Instr.vcmp .always 1 false (.v 1) (.i 2) .lt, .vicmp .always 3 true (.v 1) (.v 31) .leu, .klog .always 0 true 1 2 .orn, .kmovToMask .always 3 (.s 15)],
      ∃ (s s1 : State) (e : Env) (x : Fin 4 × (Nat → Bool) × Flags), s.enter i = some (e, s1) ∧ maskResult e i = some x ∧ goesOn e x.2.2 = true) :=
  ⟨all_enter (f := id) (r := fun _ => predResult) (by decide), all_enter_if (f := id) (r := fun _ => maskResult) (p := fun e x => goesOn e x.2.2) (by decide)⟩

/-- One instruction for each constructor with a vector result. -/
def vectorForms : List Instr :=
  [.vadd .always (.v 1) (.v 2) (.v 3), .vsub .always (.o 0) (.i 1) (.c 3), .vmul .always (.v 1) (.v 2) (.v 3), .vscale .always (.v 1) (.v 2) (.v 3),
    .vmin .always (.v 1) (.v 2) (.v 3), .vmax .always (.v 1) (.v 2) (.v 3), .vfma .always 1 (.v 2) (.v 3), .vfms .always 1 (.v 2) (.v 3),
    .vfnma .always 31 (.v 2) (.v 3), .vabs .always (.v 1) (.v 2), .vneg .always (.v 1) (.v 2), .vmov .always (.v 1) (.ik 2),
    .vbcast .always (.v 1) (.s 2), .vrcps .always (.v 1) (.v 2), .vrsqs .always (.v 1) (.v 2), .vexp2s .always (.v 1) (.v 2), .vlog2s .always (.v 1) (.v 2),
    .vrnd .always (.v 1) (.v 2) .rna, .vcvti .always (.v 1) (.v 2) .rtz, .vcvtf .always (.v 1) (.v 2) .rne, .vsrnd .always (.v 1) (.v 2) .e2m1,
    .viadd .always (.v 1) (.v 2) (.v 3), .visub .always (.v 1) (.v 2) (.v 3), .vimul .always (.v 1) (.v 2) (.v 3), .vimin .always (.v 1) (.v 2) (.v 3),
    .vimax .always (.v 1) (.v 2) (.v 3), .vand .always (.v 1) (.v 2) (.v 3), .vor .always (.v 1) (.v 2) (.v 3), .vxor .always (.v 1) (.v 2) (.v 3),
    .vshl .always (.v 1) (.v 2) (.v 3), .vshr .always (.v 1) (.v 2) (.v 3), .vsar .always (.v 1) (.v 2) (.v 3), .vperm .always (.v 1) (.v 2) (.v 3),
    .vrot .always (.v 1) (.v 2) true 15, .vscan .always (.v 1) (.v 2) .min, .vsel .always 1 (.v 2) 3, .vcprs .always (.v 1) (.v 2) 3,
    .vxpnd .always (.v 1) (.v 2) 0]

theorem wit_VectorAndReducedResultsAreWritten :
    (∀ i ∈ vectorForms, ∃ (s s1 : State) (e : Env) (x : VDst × (Nat → Lane × Flags)), s.enter i = some (e, s1) ∧ vectorResult e i = some x ∧
      goesOn e (laneFlags (fun n => (x.2 n).2)) = true) ∧
    (∀ i ∈ [Instr.vreda .always (.s 1) (.v 2), .vredmMax .always (.v 31) (.i 2), .vredmMin .always (.oe 1) (.v 2)],
      ∃ (s s1 : State) (e : Env) (x : ADst × Lane × Flags), s.enter i = some (e, s1) ∧ reductionResult e i = some x ∧ goesOn e x.2.2 = true) :=
  ⟨all_enter_if (f := id) (r := fun _ => vectorResult) (p := fun e x => goesOn e (laneFlags (fun n => (x.2 n).2))) (by decide),
    all_enter_if (f := id) (r := fun _ => reductionResult) (p := fun e x => goesOn e x.2.2) (by decide)⟩

theorem wit_SystemCellCompletes : ∀ i ∈ [Instr.nop .always, .halt .always, .tmark .always, .rdsr .always (.s 1) (.frec 15), .rdsr .always (.o 1) .region,
    .rdsr .always (.oe 3) .cycle, .rdsr .always .nul .task, .wrsr .always (.s 1), .sel .always (.s 1 (.i 2)) true 7, .sel .always (.v 1 (.v 2)) false 0,
    .tset .always (.s 15), .tcommit .always (.s 0)],
    ∃ (s s1 : State) (e : Env) (x : Effect), s.enter i = some (e, s1) ∧ systemEffect s e i = some x :=
  all_enter (f := id) (by decide)

/-- The matrix unit with a change. -/
def inMat (f : Matrix → Matrix) (e : Elem) : Elem := { e with mat := f e.mat }

/-- A panel record of one row with GFMT 4 (E4M3), in PANEL. -/
def aPanel : BitVec 128 := BitVec.ofNat 128 (1 + 4 * 2 ^ 25)

/-- An element ready for MCFG of s0 and s1, MGATH of v2, MROW and MDRAIN: a panel, a latch of one column, gathered rows. -/
def readyMat : Elem → Elem := sreg 0 1 ∘ vreg 2 (List.replicate 16 0x80000) ∘ inMat (fun m => { m with panel := some aPanel, bc := 1, bfmt := some 4 })

/-- Memory tile 2 with a change. -/
def onMem (f : MTile → MTile) (s : State) : State := { s with tiles := s.tiles.map (fun x => (x.1, { x.2 with mem := x.2.mem.map f })) }

/-- The region with a change. -/
def onRegion (f : Region → Region) (s : State) : State := { s with regions := s.regions.map (fun x => (x.1, f x.2)) }

/-- MCFG with a record that fits, MLDB of a row pair of the latch's format, MGATH of rows of the memory tile, MZERO. -/
theorem wit_MatrixUnitIsSetUp :
    (∃ (s s1 : State) (e : Env) (ok : Prop) (least ids : Nat) (f : Nat → Matrix → Matrix), s.enter (.mcfg .always 0) = some (e, s1) ∧ matrixSetup s e (.mcfg .always 0) ok least ids f ∧ ok) ∧
    (∃ (s s1 : State) (e : Env) (ok : Prop) (least ids : Nat) (f : Nat → Matrix → Matrix), s.enter (.mldb .always 1) = some (e, s1) ∧ matrixSetup s e (.mldb .always 1) ok least ids f ∧ ok) ∧
    (∃ (s s1 : State) (e : Env) (ok : Prop) (least ids : Nat) (f : Nat → Matrix → Matrix), s.enter (.mgath .always (.v 2)) = some (e, s1) ∧ matrixSetup s e (.mgath .always (.v 2)) ok least ids f ∧ ok) ∧
    (∃ (s s1 : State) (e : Env) (ok : Prop) (least ids : Nat) (f : Nat → Matrix → Matrix), s.enter (.mzero .always) = some (e, s1) ∧ matrixSetup s e (.mzero .always) ok least ids f ∧ ok) := by
  refine ⟨?_, ?_, ?_, ?_⟩
  · obtain ⟨e, s1, he, hp⟩ := enters_spec (s := onMem (fun m => { m with ctrl := 3 }) (fired (.mcfg .always 0) readyMat)) (i := .mcfg .always 0)
      (p := fun e => e.pair 0 == (1, 0) && homeTile e.site.tile == 2
        && ((onMem (fun m => { m with ctrl := 3 }) (fired (.mcfg .always 0) readyMat)).leaderOf 16 e.site.tile).2 == 0) (by decide)
    simp only [Bool.and_eq_true, beq_iff_eq] at hp
    refine ⟨_, s1, e, _, _, _, _, he, ⟨rfl, rfl, rfl, rfl⟩, ?_⟩
    unfold panelFits
    rw [hp.1.1, hp.1.2, hp.2]
    decide
  · obtain ⟨e, s1, he, hp⟩ := enters_spec (s := fired (.mldb .always 1) readyMat) (i := .mldb .always 1)
      (p := fun e => (rowPair (e.tile.iq.get 1)).any (fun x => x.1 == 4) && e.elem.mat.bfmt == some 4) (by decide)
    simp only [Bool.and_eq_true, beq_iff_eq, Option.any_eq_true] at hp
    obtain ⟨⟨x, hx, hf⟩, hb⟩ := hp
    exact ⟨_, s1, e, _, _, _, _, he, ⟨4, x.2, by rw [hx, ← hf], by decide, rfl, rfl, rfl, rfl⟩, Or.inr (Or.inr hb)⟩
  · obtain ⟨e, s1, he, hp⟩ := enters_spec (s := fired (.mgath .always (.v 2)) readyMat) (i := .mgath .always (.v 2))
      (p := fun e => e.elem.mat.panel == some aPanel && gatherFault e.region e.ctx.leaf (gatherSize (pGfmt aPanel)) (e.v (.v 2)) == none) (by decide)
    simp only [Bool.and_eq_true, beq_iff_eq] at hp
    exact ⟨_, s1, e, _, _, _, _, he, ⟨aPanel, hp.1, rfl, rfl, rfl, rfl⟩, by decide, hp.2⟩
  · obtain ⟨e, s1, he, hp⟩ := enters_spec (s := fired (.mzero .always) readyMat) (i := .mzero .always) (p := fun e => e.elem.mat.panel == some aPanel) (by decide)
    exact ⟨_, s1, e, _, _, _, _, he, ⟨aPanel, by simpa using hp, rfl, rfl, rfl, rfl⟩, trivial⟩

/-- A plan of one leaf with a fault port: port 0, at element (0, 0) of the fragment, queue 3. -/
def faultPlan : Plan := { Plan.zero with leaves := [{
  addr := 0, ox := 0, oy := 0, copies := [], turn := [], hdr := { Header.zero with w := 2, h := 1, faultp := true, faultPort := 0 },
  ports := [BitVec.ofNat 256 (3 * 2 ^ 231)] }] }

/-- A record of ROWS 0 does not fit. -/
theorem wit_PanelsThatDoNotFitFault : ∃ (s s1 : State) (e : Env) (k pt : Nat) (pq : Fin 4), s.enter (.mcfg .always 0) = some (e, s1) ∧
    ¬ panelFits s e ((e.pair 0).2 ++ (e.pair 0).1) ∧ e.region.ended = false ∧ e.region.freeRec = some k ∧ e.region.faultPort e.ctx.leaf = some (pt, pq) := by
  obtain ⟨e, s1, he, hp⟩ := enters_spec (s := onRegion (fun r => { r with plan := faultPlan }) (fired (.mcfg .always 0))) (i := .mcfg .always 0)
    (p := fun e => e.pair 0 == (0, 0) && !e.region.ended && e.region.freeRec == some 0 && e.region.faultPort e.ctx.leaf == some (1, 3)) (by decide)
  simp only [Bool.and_eq_true, beq_iff_eq, Bool.not_eq_true'] at hp
  refine ⟨_, s1, e, 0, 1, 3, he, ?_, hp.1.1.2, hp.1.2, hp.2⟩
  rw [hp.1.1.1]
  exact fun h => absurd h.1.1 (by decide)

/-- MROW of a queue and of the gather latch, in E4M3 against a latch in E4M3. -/
theorem wit_MatrixRowsAreMultiplied : ∀ i ∈ [Instr.mrow .always 0 1, .mrowG .always 3], ∃ (s s1 : State) (e : Env) (x : Fin 4 × Nat × BitVec 1280),
    s.enter i = some (e, s1) ∧ rowOf e i = some x ∧ (e.elem.mat.panel = some aPanel ∧ e.elem.mat.bfmt = some 4 ∧ 0 < e.elem.mat.bc ∧
      (x.2.1, 128) ∈ [(4, 128), (5, 128), (2, 64), (3, 64), (6, 256)] ∧ (x.2.1, 4) ∈ [(4, 4), (4, 5), (4, 9), (5, 4), (5, 5), (5, 9), (2, 2), (3, 3), (6, 6)] ∧
      (sideTrapf e.side && (laneFlags (fun n => (rowResult e x.2.1 128 x.2.2 n).2)).traps) = false) := by
  intro i hi
  obtain ⟨s, s1, e, x, he, hx, hp⟩ := all_enter_if (l := [Instr.mrow .always 0 1, .mrowG .always 3])
    (f := readyMat ∘ inMat (fun m => { m with gfmt := 4, garrived := 1, gr := 0 })) (r := fun _ => rowOf)
    (p := fun e x => decide (e.elem.mat.panel = some aPanel ∧ e.elem.mat.bfmt = some 4 ∧ 0 < e.elem.mat.bc ∧
      (x.2.1, 128) ∈ [(4, 128), (5, 128), (2, 64), (3, 64), (6, 256)] ∧ (x.2.1, 4) ∈ [(4, 4), (4, 5), (4, 9), (5, 4), (5, 5), (5, 9), (2, 2), (3, 3), (6, 6)] ∧
      (sideTrapf e.side && (laneFlags (fun n => (rowResult e x.2.1 128 x.2.2 n).2)).traps) = false)) (by decide) i hi
  exact ⟨s, s1, e, x, he, hx, of_decide_eq_true hp⟩

/-- MDRAIN, with dropout and without, and MDRAIN.R with a residual from a queue. -/
theorem wit_MatrixRowsAreDrained : ∀ i ∈ [Instr.mdrain .always 0 false, .mdrain .always 1 true, .mdrainR .always 3 false 2 true],
    ∃ (s s1 : State) (e : Env) (x : Fin 4 × Option Vec × Bool), s.enter i = some (e, s1) ∧ drainForm e i = some x ∧ (e.elem.mat.panel = some aPanel ∧
      (sideTrapf e.side && (laneFlags (fun n => (drainResult s e aPanel x.2.1 x.2.2 n).2)).traps) = false) := by
  intro i hi
  obtain ⟨s, s1, e, x, he, hx, hp⟩ := all_enter_if (l := [Instr.mdrain .always 0 false, .mdrain .always 1 true, .mdrainR .always 3 false 2 true])
    (f := readyMat) (r := fun _ => drainForm) (p := fun e _ => e.elem.mat.panel == some aPanel && !sideTrapf e.side) (by decide) i hi
  simp only [Bool.and_eq_true, beq_iff_eq, Bool.not_eq_true'] at hp
  exact ⟨s, s1, e, x, he, hx, hp.1, by rw [hp.2]; rfl⟩

/-- Pairs s(2n), s(2n + 1): s4 and s6 hold the local address of memory tile 2, s5 and s7 hold 1. -/
def pairs : Elem → Elem := sreg 4 0x80000 ∘ sreg 5 1 ∘ sreg 6 0x80000 ∘ sreg 7 1

theorem wit_TileRequestsAreSent : ∀ i ∈ [Instr.ldsN .always 0 (.s 4), .ldsW .always 1 (.s 4), .ldsWc .always 3 (.s 4), .sts .always .nul (.s 4) (.s 5),
    .sts .always (.i 1) (.s 4) (.v 5), .feopClr .always (.i 0) 2, .feopSet .always .nul 2, .sinitQs .always (.i 0) 2, .sinitHh .always .nul 2,
    .sinitDc .always (.i 3) 3, .qread .always 0 2, .qrank .always 1 2, .hhget .always 2 2, .dcest .always 3 2, .tkinit .always .nul 2,
    .tkout .always 0 2, .smerge .always (.i 0) (.s 4) (.s 6)],
    ∃ (s s1 : State) (e : Env) (x : Nat × Word × Word × Payload), s.enter i = some (e, s1) ∧ tileRequest e i = some x :=
  all_enter (f := pairs) (r := fun _ => tileRequest) (by decide)

theorem wit_FarRequestsAreSent : ∀ i ∈ [Instr.ldg .always 0 (.s 4), .stg .always .nul (.s 4) (.s 5), .aadd .always .nul 2 (.relaxed .commutative),
    .afadd .always (.i 0) 2 (.sync .ar .system), .amin .always (.i 0) 2 (.relaxed .quantum), .amax .always (.i 0) 2 (.relaxed .unpaired),
    .aand .always .nul 2 (.sync .rel .package), .aor .always (.i 0) 2 (.relaxed .speculative), .axor .always (.i 0) 2 (.relaxed .nonOrdering),
    .aswp .always (.i 0) 2 (.sync .acq .die), .acas .always (.i 0) 6 (.relaxed .unpaired), .hnew .always 1 (.s 4) (.s 5) true, .hdup .always (.i 0) (.s 6),
    .hrel .always .nul (.s 6), .hupg .always 2 (.s 6) 3, .hinfo .always 3 (.s 6), .hprio .always .nul (.s 6) 15, .ldw .always 3 2 1, .pfrag .always 1 (.c 0),
    .pseq .always 0 (.s 4) (.s 6), .povl .always 0 (.s 4) (.s 6), .ppipe .always 0 2 (.s 6), .pnest .always 0 2 (.s 6), .prep .always 0 (.s 4) (.s 6),
    .piface .always 0 2, .pcost .always 1 (.s 4), .plaunch .always 0 (.s 4) (.s 6), .plaunchC .always 0 (.s 4) (.s 6), .pfree .always .nul (.s 4),
    .rnext .always 2 1],
    ∃ (s s1 : State) (e : Env) (x : Word × Word × Word × Payload × Option (List Rng) × Nat × Bool), s.enter i = some (e, s1) ∧ farRequest e i = some x :=
  all_enter (f := pairs) (r := fun _ => farRequest) (by decide)

/-- The local address 0 names the element itself, and 0x80001 no aligned granule. -/
theorem wit_MisplacedLoadsReplyWithAFault : ∀ i ∈ [Instr.ldsN .always 0 (.s 0), .ldsW .always 3 (.s 0), .ldsWc .always 1 (.s 0), .ldsN .always 0 (.s 8)],
    ∃ (s s1 : State) (e : Env) (x : Fin 4 × SSrc), s.enter i = some (e, s1) ∧
      (match i with | .ldsN _ q a => some (q, a) | .ldsW _ q a => some (q, a) | .ldsWc _ q a => some (q, a) | _ => none) = some x ∧
      (localTarget e (e.s x.2) (kindSize e x.1) (sizeAlign (kindSize e x.1)) == none && e.region.freeRec == some 0) = true :=
  all_enter_if (f := sreg 8 0x80001) (r := fun _ _ i => match i with | .ldsN _ q a => some (q, a) | .ldsW _ q a => some (q, a) | .ldsWc _ q a => some (q, a) | _ => none)
    (by decide)

theorem wit_InsertTokensAreSent : ∀ i ∈ [Instr.qsins .always 0 (.v 1), .hhins .always 1 (.i 2), .dcins .always 3 (.v 31), .tkins .always 0 (.s 4) (.s 5),
    .xreq .always 2 (.v 0)],
    ∃ (s s1 : State) (e : Env) (x : Fin 4 × BitVec 2 × Vec × SideBand), s.enter i = some (e, s1) ∧ insertToken e i = some x :=
  all_enter (f := id) (r := fun _ => insertToken) (by decide)

/-- XEXP of 3 on channel 5, which expects as many as it can take beside them. -/
theorem wit_ExpectationsArePosted : ∃ (s s1 : State) (e : Env) (c : Chan), s.enter (.xexp .always (.s 1)) = some (e, s1) ∧
    e.region.chan? e.ctx.leaf ((e.s (.s 1)).toNat % 2 ^ 12) = some c ∧ (e.s (.s 1)).toNat / 2 ^ 36 = 0 ∧
    c.p + (e.s (.s 1)).toNat / 2 ^ 12 % 2 ^ 24 ≤ 16777215 := by
  obtain ⟨e, s1, he, hp⟩ := enters_spec
    (s := onRegion (fun r => { r with chans := [(5, ⟨0, 0, 16777212, 0, {}⟩)] }) (fired (.xexp .always (.s 1)) (sreg 1 (5 + 3 * 2 ^ 12)))) (i := .xexp .always (.s 1))
    (p := fun e => e.region.chan? e.ctx.leaf 5 == some ⟨0, 0, 16777212, 0, {}⟩ && e.s (.s 1) == 5 + 3 * 2 ^ 12) (by decide)
  simp only [Bool.and_eq_true, beq_iff_eq] at hp
  exact ⟨_, s1, e, ⟨0, 0, 16777212, 0, {}⟩, he, by rw [hp.2]; exact hp.1, by rw [hp.2]; decide, by rw [hp.2]; decide⟩

/-- What a BAR finds at its counter. -/
def barArrival (s : State) (e : Env) (i : Instr) : Option (Bar × Option (BitVec 32 × List Nat)) :=
  match i with
  | .bar _ _ a sc => if 0 < (e.s a).toNat % 2 ^ 16 then (Vector.at (n := 15) (barsOf s e sc) ((e.s a).toNat / 2 ^ 16 % 2 ^ 4)).arrive ((e.s a).toNat % 2 ^ 16) s.nextId else none
  | _ => none

/-- A BAR of each scope, at barriers 0 and 15. -/
def barForms : List Instr := [.bar .always 3 (.s 1) .element, .bar .always 0 (.s 1) .region, .bar .always 3 (.s 1) .task, .bar .always 3 (.s 2) .task]

/-- With P = 1 the arrival opens its barrier, with P = 2^16 − 1 it waits; P = 0 does not match. -/
theorem wit_BarrierArrivalsAreCounted :
    (∀ i ∈ barForms, ∃ (s s1 : State) (e : Env) (x : Bar × Option (BitVec 32 × List Nat)), s.enter i = some (e, s1) ∧ barArrival s e i = some x ∧ x.2.isSome = true) ∧
    (∀ i ∈ barForms, ∃ (s s1 : State) (e : Env) (x : Bar × Option (BitVec 32 × List Nat)), s.enter i = some (e, s1) ∧ barArrival s e i = some x ∧ x.2.isNone = true) ∧
    (∀ sc ∈ [BarScope.element, .region, .task], ∃ (s s1 : State) (e : Env), s.enter (.bar .always 3 (.s 1) sc) = some (e, s1) ∧ (e.s (.s 1)).toNat % 2 ^ 16 = 0 ∧
      e.region.freeRec = some 0) := by
  refine ⟨all_enter_if (f := sreg 1 1 ∘ sreg 2 0xF0001) (r := barArrival) (p := fun _ x => x.2.isSome) (by decide),
    all_enter_if (f := sreg 1 0xFFFF ∘ sreg 2 0xFFFFF) (r := barArrival) (p := fun _ x => x.2.isNone) (by decide), fun sc _ => ?_⟩
  obtain ⟨e, s1, he, hp⟩ := enters_spec (s := fired (.bar .always 3 (.s 1) sc)) (i := .bar .always 3 (.s 1) sc)
    (p := fun e => (e.s (.s 1)).toNat % 2 ^ 16 == 0 && e.region.freeRec == some 0) (by revert sc; decide)
  simp only [Bool.and_eq_true, beq_iff_eq] at hp
  exact ⟨_, s1, e, he, hp⟩

theorem wit_FencesAreAnswered : ∀ i ∈ [Instr.fence .always .nul (.i 0) .rel .context, .fence .always (.i 1) (.i 0) .ar .package, .fence .always (.i 1) (.s 0) .acq .die],
    ∃ (s s1 : State) (e : Env) (x : Unit), s.enter i = some (e, s1) ∧ some () = some x :=
  all_enter (f := id) (r := fun _ _ _ => some ()) (by decide)

/-- CRDY for the last of three entries of the region; CSLOT. -/
theorem wit_CollectiveRequestsAreSent :
    (∃ (s s1 : State) (e : Env) (c : RColl), s.enter (.crdy .always 1 (.s 1)) = some (e, s1) ∧ e.region.coll = some c ∧ (e.s (.s 1)).toNat % 2 ^ 10 < c.count ∧
      Memory.wf s.hbm = true) ∧
    ∃ (s s1 : State) (e : Env), s.enter (.cslot .always 1 (.s 1)) = some (e, s1) := by
  constructor
  · obtain ⟨e, s1, he, hp⟩ := enters_spec
      (s := onRegion (fun r => { r with coll := some ⟨[0], 0, 7, 3⟩ }) (fired (.crdy .always 1 (.s 1)) (sreg 1 2))) (i := .crdy .always 1 (.s 1))
      (p := fun e => e.region.coll == some ⟨[0], 0, 7, 3⟩ && e.s (.s 1) == 2) (by decide)
    simp only [Bool.and_eq_true, beq_iff_eq] at hp
    exact ⟨_, s1, e, _, he, hp.1, by rw [hp.2]; decide, rfl⟩
  · obtain ⟨e, s1, he, _⟩ := enters_spec (s := fired (.cslot .always 1 (.s 1))) (i := .cslot .always 1 (.s 1)) (p := fun _ => true) (by decide)
    exact ⟨_, s1, e, he⟩

/-- A packet of zeros for queue 40. -/
def push40 : Elem → Elem := vreg 2 [0, 0, 0, 0, 0, 0, 0, 0, 0, 0, 0, 0, 0, 40]

/-- Queue 40 of the manual's example of QPUSH: DEVPUSH set, LOG2SIZE 6, DONE 100, with some KICK. -/
def queue40 (kick : Word) (s : State) : State := { s with queues := [(40, { Queue.reset with cfg := 6 + 2 ^ 24, done := 100, kick := kick })] }

/-- A push to a queue with one place (KICK 163) and to a full one (KICK 164). -/
theorem wit_QueuePushesAreAtomic : ∀ k ∈ [(163 : Word), 164], ∃ (s s1 : State) (e : Env), s.enter (.qpush .always 1 (.v 2) 3) = some (e, s1) ∧
    vecNat (e.v (.v 2)) / 2 ^ 512 % 2 ^ 8 = 0 ∧ vecNat (e.v (.v 2)) / 2 ^ 530 = 0 ∧ (s.queue (vecNat (e.v (.v 2)) / 2 ^ 520 % 2 ^ 10)).cfg.getLsbD 24 = true ∧
    ((s.queue 40).kick.toNat - (s.queue 40).done.toNat < 2 ^ 6 ↔ k = 163) ∧ (∀ x ∈ e.dequeued (.qpush .always 1 (.v 2) 3), x.log = none) := by
  intro k hk
  have h : enters (queue40 k (fired (.qpush .always 1 (.v 2) 3) push40)) (.qpush .always 1 (.v 2) 3) (fun e => e.v (.v 2) == Vec.build (fun n => if n = 13 then 40 else 0)
      && e.dequeued (.qpush .always 1 (.v 2) 3) == []) = true := by
    rcases List.mem_cons.1 hk with rfl | hk
    · decide
    · rw [List.mem_singleton.1 hk]
      decide
  obtain ⟨e, s1, he, hp⟩ := enters_spec h
  simp only [Bool.and_eq_true, beq_iff_eq] at hp
  refine ⟨_, s1, e, he, ?_, ?_, ?_, ?_, ?_⟩
  · rw [hp.1]
    decide
  · rw [hp.1]
    decide
  · rw [hp.1]
    rcases List.mem_cons.1 hk with rfl | hk
    · decide
    · rw [List.mem_singleton.1 hk]
      decide
  · rcases List.mem_cons.1 hk with rfl | hk
    · decide
    · rw [List.mem_singleton.1 hk]
      decide
  · rw [hp.2]
    simp

/-! ## Witnesses: readiness, traps, steps -/

/-- The environment of the slot in which an instruction stands. -/
def envIs (s : State) (i : Instr) (p : Env → Bool) : Bool := (s.env? i ⟨1, 0, 0, true⟩).any p

theorem envIs_spec {s : State} {i : Instr} {p : Env → Bool} (h : envIs s i p = true) : ∃ e, s.env? i ⟨1, 0, 0, true⟩ = some e ∧ p e = true := by
  simpa [envIs, Option.any_eq_true] using h

/-- A slot for each reason to be kept back: a halted context, a held one, a region that is checkpointed, a predicate that is clear, an empty source queue, an empty
queue peeked, a full port, a reply queue without room. -/
theorem wit_SlotsFireWhenReady_kept :
    (∃ (s : State) (e : Env), s.env? (.nop .always) ⟨1, 0, 0, true⟩ = some e ∧ e.ctx.st ≠ .armed ∧ s.cur = some ⟨1, 0, 0, true⟩) ∧
    (∃ (s : State) (e : Env), s.env? (.nop .always) ⟨1, 0, 0, true⟩ = some e ∧ e.ctx.held = true ∧ s.cur = some ⟨1, 0, 0, true⟩) ∧
    (∃ (s : State) (e : Env), s.env? (.nop .always) ⟨1, 0, 0, true⟩ = some e ∧ e.region.phase ∉ [.armed, .retiring, .halting, .stopped] ∧ s.cur = some ⟨1, 0, 0, true⟩) ∧
    (∃ (s : State) (e : Env), s.env? (.nop (.pSet 7)) ⟨1, 0, 0, true⟩ = some e ∧ ¬ simpleHolds e (.pSet 7) ∧ s.cur = some ⟨1, 0, 0, true⟩) ∧
    (∃ (s : State) (e : Env), s.env? (.clz .always (.s 1) (.i 3)) ⟨1, 0, 0, true⟩ = some e ∧ (e.tile.iq.get 3).length < 1 ∧ s.cur = some ⟨1, 0, 0, true⟩) ∧
    (∃ (s : State) (e : Env), s.env? (.clz .always (.o 2) (.s 1)) ⟨1, 0, 0, true⟩ = some e ∧ 2 ≤ (e.tile.op.get 2).length ∧ s.cur = some ⟨1, 0, 0, true⟩) ∧
    (∃ (s : State) (e : Env), s.env? (.ldg .always 0 (.s 1)) ⟨1, 0, 0, true⟩ = some e ∧
      4 ≤ (e.tile.iq.get 0).length + (s.reqs.filter (fun r => r.tile == e.site.tile && r.q == some 0)).length ∧ s.cur = some ⟨1, 0, 0, true⟩) := by
  refine ⟨?_, ?_, ?_, ?_, ?_, ?_, ?_⟩
  · obtain ⟨e, he, hp⟩ := envIs_spec (s := fired (.nop .always) (inCtx (fun c => { c with st := .halted }))) (i := .nop .always) (p := fun e => e.ctx.st == .halted) (by decide)
    exact ⟨_, e, he, by rw [beq_iff_eq.1 hp]; decide, rfl⟩
  · obtain ⟨e, he, hp⟩ := envIs_spec (s := fired (.nop .always) (inCtx (fun c => { c with held := true }))) (i := .nop .always) (p := fun e => e.ctx.held) (by decide)
    exact ⟨_, e, he, hp, rfl⟩
  · obtain ⟨e, he, hp⟩ := envIs_spec (s := onRegion (fun r => { r with phase := .checkpointed }) (fired (.nop .always))) (i := .nop .always) (p := fun e => e.region.phase == .checkpointed) (by decide)
    exact ⟨_, e, he, by rw [beq_iff_eq.1 hp]; decide, rfl⟩
  · obtain ⟨e, he, hp⟩ := envIs_spec (s := fired (.nop (.pSet 7)) (inCtx (fun c => { c with p := 0 }))) (i := .nop (.pSet 7)) (p := fun e => e.ctx.p == 0) (by decide)
    exact ⟨_, e, he, fun h => by simp only [simpleHolds, beq_iff_eq.1 hp] at h; exact absurd h (by decide), rfl⟩
  · obtain ⟨e, he, hp⟩ := envIs_spec (s := fired (.nop .always)) (i := .clz .always (.s 1) (.i 3)) (p := fun e => decide ((e.tile.iq.get 3).length < 1)) (by decide)
    exact ⟨_, e, he, of_decide_eq_true hp, rfl⟩
  · obtain ⟨e, he, hp⟩ := envIs_spec
      (s := { fired (.nop .always) with tiles := (fired (.nop .always)).tiles.map (fun x => (x.1, { x.2 with op := x.2.op.set 2 [.reserved 0, .reserved 1] (by decide) })) })
      (i := .clz .always (.o 2) (.s 1)) (p := fun e => decide (2 ≤ (e.tile.op.get 2).length)) (by decide)
    exact ⟨_, e, he, of_decide_eq_true hp, rfl⟩
  · obtain ⟨e, he, hp⟩ := envIs_spec (s := { fired (.ldg .always 0 (.s 1)) with
        tiles := (fired (.nop .always)).tiles.map (fun x => (x.1, { x.2 with iq := x.2.iq.set 0 (List.replicate 4 { tag := 0, pay := .s 0 }) (by decide) })) })
      (i := .ldg .always 0 (.s 1)) (p := fun e => decide (4 ≤ (e.tile.iq.get 0).length)) (by decide)
    exact ⟨_, e, he, le_trans (of_decide_eq_true hp) (Nat.le_add_right _ _), rfl⟩

/-- A slot that nothing keeps back or hinders: a sum of the token at a queue, for a port. -/
theorem wit_SlotsFireWhenReady_ready : ∃ (s : State) (e : Env), encode (.add .always (.o 1) (.i 2) (.s 3)) ≠ none ∧ s.cur = some ⟨1, 0, 0, true⟩ ∧
    s.env? (.add .always (.o 1) (.i 2) (.s 3)) ⟨1, 0, 0, true⟩ = some e ∧ ¬ keptBack s e (.add .always (.o 1) (.i 2) (.s 3)) ∧
    unhindered s e (.add .always (.o 1) (.i 2) (.s 3)) := by
  obtain ⟨e, he, hp⟩ := envIs_spec (s := fired (.add .always (.o 1) (.i 2) (.s 3))) (i := .add .always (.o 1) (.i 2) (.s 3))
    (p := fun e => e.ctx.st == .armed && !e.ctx.held && e.region.phase == .armed && (e.tile.iq.get 2).length == 1 && (e.tile.op.get 1).length == 0
      && e.elem.haltAt == none && e.elem.cslot == none && e.elem.moves == [] && e.elem.resident == []) (by decide)
  simp only [Bool.and_eq_true, beq_iff_eq, Bool.not_eq_true'] at hp
  obtain ⟨⟨⟨⟨⟨⟨⟨⟨h1, h2⟩, h3⟩, h4⟩, h5⟩, h6⟩, h7⟩, h8⟩, h9⟩ := hp
  refine ⟨_, e, by decide, rfl, he, ?_, h6, h7, fun _ _ => rfl, h8, by rw [h9]; decide, fun v hv => ?_, rfl, fun t ht => ?_⟩
  · rintro (h | h | h | ⟨-, h⟩ | ⟨q, n, hq, h⟩ | ⟨q, hq, h⟩ | ⟨q, hq, h⟩ | ⟨q, hq, h⟩)
    · exact h h1
    · rw [h2] at h
      exact absurd h (by decide)
    · rw [h3] at h
      exact absurd h (by decide)
    · exact h trivial
    · rw [show (Instr.add .always (.o 1) (.i 2) (.s 3)).shape.takes = [(2, 1)] from rfl, List.mem_singleton, Prod.mk.injEq] at hq
      rw [hq.1, hq.2, h4] at h
      exact absurd h (by decide)
    · exact absurd hq (by rw [show (Instr.add .always (.o 1) (.i 2) (.s 3)).shape.peeks = [] from rfl]; exact List.not_mem_nil)
    · rw [show (Instr.add .always (.o 1) (.i 2) (.s 3)).shape.port = some 1 from rfl, Option.some.injEq] at hq
      rw [← hq, h5] at h
      exact absurd h (by decide)
    · exact absurd hq (by rw [show (Instr.add .always (.o 1) (.i 2) (.s 3)).shape.reply = none from rfl]; simp)
  · exact absurd hv (by rw [show (Instr.add .always (.o 1) (.i 2) (.s 3)).shape.vregs = [] from rfl]; exact List.not_mem_nil)
  · exact absurd ht (by rw [show (fired (.add .always (.o 1) (.i 2) (.s 3))).task? e.region.task = none from rfl]; simp)

/-- TRAP where there is a fault port, where there is none, and in a region that has stopped; VADD of a non-canonical lane with TRAPF, bit 9 of the side halfword. -/
theorem wit_TrapsFault :
    (∃ (s s1 : State) (e : Env) (n pt : Nat) (pq : Fin 4), s.enter (.trap .always) = some (e, s1) ∧ e.region.ended = false ∧ e.region.freeRec = some n ∧
      e.region.faultPort e.ctx.leaf = some (pt, pq)) ∧
    (∃ (s s1 : State) (e : Env), s.enter (.trap .always) = some (e, s1) ∧ e.region.ended = false ∧ e.region.faultPort e.ctx.leaf = none) ∧
    (∃ (s s1 : State) (e : Env), s.enter (.trap .always) = some (e, s1) ∧ e.region.ended = true) ∧
    (∃ (s s1 : State) (e : Env) (d : VDst) (r : Nat → Lane × Flags), s.enter (.vadd .always (.v 1) (.v 2) (.v 3)) = some (e, s1) ∧ sideTrapf e.side = true ∧
      vectorResult e (.vadd .always (.v 1) (.v 2) (.v 3)) = some (d, r) ∧ (laneFlags (fun n => (r n).2)).traps = true) := by
  refine ⟨?_, ?_, ?_, ?_⟩
  · obtain ⟨e, s1, he, hp⟩ := enters_spec (s := onRegion (fun r => { r with plan := faultPlan }) (fired (.trap .always))) (i := .trap .always)
      (p := fun e => !e.region.ended && e.region.freeRec == some 0 && e.region.faultPort e.ctx.leaf == some (1, 3)) (by decide)
    simp only [Bool.and_eq_true, beq_iff_eq, Bool.not_eq_true'] at hp
    exact ⟨_, s1, e, 0, 1, 3, he, hp.1.1, hp.1.2, hp.2⟩
  · obtain ⟨e, s1, he, hp⟩ := enters_spec (s := fired (.trap .always)) (i := .trap .always) (p := fun e => !e.region.ended && e.region.faultPort e.ctx.leaf == none) (by decide)
    simp only [Bool.and_eq_true, beq_iff_eq, Bool.not_eq_true'] at hp
    exact ⟨_, s1, e, he, hp.1, hp.2⟩
  · obtain ⟨e, s1, he, hp⟩ := enters_spec (s := onRegion (fun r => { r with phase := .stopped }) (fired (.trap .always))) (i := .trap .always) (p := fun e => e.region.ended)
      (by decide)
    exact ⟨_, s1, e, he, hp⟩
  · obtain ⟨e, s1, he, hp⟩ := enters_spec
      (s := fired (.vadd .always (.v 1) (.v 2) (.v 3)) (vreg 2 [0x3FF8000000] ∘ fun e => { e with sides := dotriacontad 0x200 })) (i := .vadd .always (.v 1) (.v 2) (.v 3))
      (p := fun e => sideTrapf e.side && (laneFlags (fun n => (fAdd ((e.v (.v 2)).lane n) ((e.v (.v 3)).lane n)).2)).traps) (by decide)
    simp only [Bool.and_eq_true] at hp
    exact ⟨_, s1, e, _, _, he, hp.1, rfl, hp.2⟩

/-- An element whose slot 1 holds HALT behind a disabled slot, with entry 0 of its slot table context 0. -/
def twoSlots (w : List Work) : State :=
  { fired (.nop .always) (fun e => { e with slots := (dotriacontad disabledWord).set 1 0xE0080001 (by decide), table := 4 }) with scan := w, cur := none }

/-- The pick of slot 1 behind a slot that is not ready; the due slot of a follower. -/
theorem wit_StepsRunDecodedInstructions :
    (∃ (s : State) (rest : List Work) (t : Nat) (e : Elem) (c : Fin 4) (n : Fin 32) (i : Instr), s.scan = .pick t :: rest ∧ s.elem? t = some e ∧ e.follows = false ∧
      (e.table.toNat / 2 ^ (3 * e.idx.toNat) % 2 ^ 3 = 4 + c.val) ∧ decodeWord (e.slots.get n) = some i ∧ i.shape.trig ≠ .never ∧ sideOwner (e.sides.get n) = c ∧
      State.readyAt { s with scan := rest } ⟨t, c, n, true⟩ i = true ∧ 0 < n ∧
      ∀ m j, m < n → decodeWord (e.slots.get m) = some j → State.readyAt { s with scan := rest } ⟨t, c, m, true⟩ j = false) ∧
    (∃ (s : State) (rest : List Work) (t : Nat) (e : Elem) (c : Fin 4) (n : Fin 32) (i : Instr), s.scan = .run ⟨t, c, n, false⟩ :: rest ∧ s.elem? t = some e ∧
      decodeWord (e.slots.get n) = some i) := by
  constructor
  · have h : ((twoSlots [.pick 1]).elem? 1).any (fun e => !e.follows && e.table.toNat / 2 ^ (3 * e.idx.toNat) % 2 ^ 3 == 4 && e.slots.get 1 == 0xE0080001
        && e.slots.get 0 == disabledWord && sideOwner (e.sides.get 1) == 0) = true := by decide
    obtain ⟨e, he, hp⟩ := (Option.any_eq_true _ _).1 h
    simp only [Bool.and_eq_true, beq_iff_eq, Bool.not_eq_true'] at hp
    obtain ⟨⟨⟨⟨h1, h2⟩, h3⟩, h4⟩, h5⟩ := hp
    refine ⟨_, [], 1, e, 0, 1, .halt .always, rfl, he, h1, h2, by rw [h3]; decide, by decide, h5, by decide, by decide, fun m j hm hj => ?_⟩
    have hm : m = 0 := by omega
    subst hm
    rw [h4, show decodeWord disabledWord = some (.nop .never) from by decide, Option.some.injEq] at hj
    subst hj
    decide
  · have h : ((twoSlots [.run ⟨1, 0, 1, false⟩]).elem? 1).any (fun e => e.slots.get 1 == 0xE0080001) = true := by decide
    obtain ⟨e, he, hp⟩ := (Option.any_eq_true _ _).1 h
    exact ⟨_, [], 1, e, 0, 1, .halt .always, rfl, he, by rw [beq_iff_eq.1 hp]; decide⟩

/-! ## Reads of BAR0 -/

/-- IDENT after reset: ROMVER 0x0200, STEPPING 0xB1, PART 0x5346_0004 in its first word, then 4,064 elements, 2,048 memory tiles and 128 port tiles (R1, R193, R194). -/
theorem test_identity : State.reset.barWord 0 = 0xE00200B153460004 ∧ State.reset.barWord 8 = 0x101000F := by decide

/-- A marked port tile of die 1 is in DEFECT and out of the identity record; an offset between registers reads as zero (R193 to R195). -/
theorem test_defects : ({ State.reset with regs := { State.reset.regs with defects := [2048 + 1536] } } : State).barWord 0x5C0 = 1 ∧
    ({ State.reset with regs := { State.reset.regs with defects := [2048 + 1536] } } : State).barWord 8 = 0xFF000F ∧ State.reset.barWord 0x1080 = 0 ∧ State.reset.barWord 0x1038 = 0 := by decide

/-! ## Witnesses: the host, the matcher, the monitors -/

/-- A key of HBM for an address of the first package: `Config.ownPackage` is open, so there are two. -/
theorem domKey_cases {pa : Nat} (h : pa < 2 ^ 40) : domKey pa = pa ∨ domKey pa = pa + 2 ^ 40 := by
  unfold domKey
  split
  · exact Or.inl (Nat.mod_eq_of_lt h)
  · exact Or.inr rfl

/-- HBM with 8-byte words at keys. -/
def words (l : List (Nat × Nat)) : SMap Byte := l.foldl (fun m x => writeBytes m x.1 (leBytes 8 x.2)) []

/-- A queue of LOG2SIZE 6 that is enabled, or is not. -/
def queueOf (on : Bool) : State := { State.reset with queues := [(5, { Queue.reset with cfg := if on then 6 + 2 ^ 16 else 6 })] }

/-- The registers: values on each side of their ranges and of the bits that act, an object table with and without objects, a queue that is enabled and one that is not. -/
theorem wit_RegistersTakeHostWrites : (∃ v : Word, 1 ≤ v.toNat % 2 ^ 7 ∧ v.toNat % 2 ^ 7 ≤ 100) ∧ (∃ s : State, s.objects ≠ []) ∧
    (∃ (s : State) (v : Word), s.objects = [] ∧ v.toNat ≤ 2 ^ 32 ∧ s.regs.pwlow ≤ v) ∧ (∃ (s : State) (v : Word), v ≤ s.regs.pwhigh ∧ s.reclaiming = true) ∧
    (∃ v : Word, 256 ≤ v.toNat ∧ v.toNat ≤ 2 ^ 24) ∧ (∃ v : Word, 4 ≤ v.toNat % 32 ∧ v.toNat % 32 ≤ 24) ∧
    (∃ v : Word, v.getLsbD 14 = false ∧ v.getLsbD 1 = false ∧ v.getLsbD 3 = false) ∧ (∃ v : Word, v.getLsbD 14 = true ∧ v.getLsbD 1 = true ∧ v.getLsbD 3 = true) ∧
    (∀ n ∈ [1, 2, 3, 4], ∃ v : Word, v.toNat = n) ∧
    (∀ b ∈ [false, true], ∃ (s : State) (q : Fin 1024) (v : Word), (s.queue q).cfg.getLsbD 16 = b ∧ v.toNat / 2 ^ 17 % 2 ^ 7 ≠ 0 ∧ 6 ≤ v.toNat % 2 ^ 5 ∧ v.toNat % 2 ^ 5 ≤ 20 ∧
      6 ≤ (s.queue q).cfg.toNat % 2 ^ 5 ∧ (s.queue q).cfg.toNat % 2 ^ 5 ≤ 20) ∧
    (∃ v : Word, ∀ d : Fin 4, (v.extractLsb' (4 * d.val) 4).toNat ≤ 8) :=
  ⟨⟨100, by decide⟩,
    ⟨{ State.reset with regs := { State.reset.regs with objtab := 0x10000, objcnt := 2 }, hbm := words [(0x10030, 1)] }, by decide⟩,
    ⟨State.reset, 0x100000000, by decide⟩, ⟨{ State.reset with reclaiming := true }, 0, by decide⟩, ⟨2 ^ 24, by decide⟩, ⟨24, by decide⟩, ⟨0, by decide⟩, ⟨0x400A, by decide⟩,
    fun n hn => ⟨BitVec.ofNat 64 n, by revert n; decide⟩,
    fun b _ => ⟨queueOf b, 5, 20 + 2 ^ 17, by revert b; decide⟩,
    ⟨0x8888, by decide⟩⟩

/-- A plan-table entry for a plan of two columns. -/
def aPlan : PlanEnt := ⟨0, 0, true, none, none, some { faultPlan with hdr := { Header.zero with w := 2, h := 1 } }⟩

/-- A motif table with an entry of AMSIG and without one; a library whose fragment AMENT names, and FREEZE; a full table. -/
def libState (f : MatchRegs → MatchRegs) (m : SMap Motif) : State :=
  { State.reset with am := f { State.reset.am with sig := 9, ent := BitVec.ofNat 512 (2 ^ 128 + 5 * 2 ^ 160) }, motifs := m, library := [(5, 0)], plans := [(0, aPlan)] }

theorem wit_MatcherCommandsAct :
    (∃ (s : State) (k : Nat) (m : Motif), s.motifs.find? (fun e => e.2.extractLsb' 0 64 == s.am.sig) = some (k, m)) ∧
    (∃ s : State, s.motifs.find? (fun e => e.2.extractLsb' 0 64 == s.am.sig) = none) ∧
    (∃ s : State, s.am.freeze = true ∨ s.alternativesOk s.am.ent = false) ∧
    (∃ s : State, s.am.freeze = false ∧ s.alternativesOk s.am.ent = true) :=
  ⟨⟨libState id [(7, 9)], 7, 9, by decide⟩, ⟨libState id [], by decide⟩, ⟨libState (fun a => { a with freeze := true }) [], by decide⟩, ⟨libState id [], by decide⟩⟩

/-- A record of 128 bytes at a key: fragment 5, two columns, one row, II 1. -/
def library (at' : Nat) (l : SMap Nat) : State :=
  { State.reset with
    am := { State.reset.am with sig := 64 }
    regs := { State.reset.regs with objtab := 0x10000, objcnt := 2, pwbase := 0x20000, pwsize := 0x100 }
    hbm := words [(at', 5 + 2 * 2 ^ 32 + 2 ^ 38), (at' + 8, 2 ^ 40)]
    library := l
    plans := l.map (fun _ => (3, aPlan)) }

/-- An object of 256 bytes is made in a pool with one gap of that length. -/
theorem alloc_made {s : State} {size i : Nat} (k p : Nat) (hc : s.regs.objcnt = 2) (hp : s.regs.pwsize = 256) (hf : s.freeObj 1 1 = some i) (hg : s.gaps = [(0x20000, 256)])
    (hs : (size + 255) / 256 * 256 = 256) : ∃ s1, s.alloc size k p false = .made i s1 ∧ s1.plans = s.plans := by
  have h0 (x : Nat) : nthPlace [(0x20000, 256)] 256 (x % places [(0x20000, 256)] 256) = some 0x20000 := by
    rw [show places [(0x20000, 256)] 256 = 1 from rfl, Nat.mod_one]
    rfl
  unfold State.alloc
  simp only [hc, hp, hs, hg, h0, show (2 : Nat) - 1 = 1 from rfl, hf]
  exact ⟨_, rfl, State.putObj_plans _ _ _⟩

/-- Neither a write of memory nor a watched access touches the plan table. -/
theorem copied_plans (s : State) (k : Nat) (bs : List Byte) (a : Nat) (r : Rec) (n : Nat) : (((s.storeHome k bs).watchImage a r).watchSys k n 1).plans = s.plans := by
  unfold State.watchImage State.watchSys
  rw [State.watch_only, State.watch_only, State.storeHome_only]

/-- A plan enters an empty table. -/
theorem newPlan_first {s : State} (p : Plan) (lib : Option Nat) (h : s.plans = []) : ∃ s2, s.newPlan p [] none lib = some (0, s2) := by
  unfold State.newPlan
  rw [h]
  exact ⟨_, rfl⟩

/-- LIB_INSTALL of a record that is sound where there is room, and of what is none; LIB_REMOVE of a fragment that is there, and of one that is not. -/
theorem wit_LibraryCommandsAct :
    (∃ (s : State) (a : Nat) (r : Rec), a = domKey s.am.sig.toNat ∧ r = s.readRec a ∧ s.am.sig.toNat % 64 = 0 ∧ r.ok = true ∧ r.hdr % 2 ^ 32 ≠ 0 ∧
      SMap.find? s.library (r.hdr % 2 ^ 32) = none ∧ s.library.length < 65536 ∧
      ∃ i s1, s.alloc (s.recordSize a r) 2 15 false = .made i s1 ∧
        ∃ k s2, (let c := ((s1.storeHome (domKey (s1.obj i % 2 ^ 50)) (s.homeBytes a (s.recordSize a r))).watchImage a r).watchSys (domKey (s1.obj i % 2 ^ 50)) (s.recordSize a r) 1
          c.newPlan ((c.readRec (domKey (s1.obj i % 2 ^ 50))).plan (domKey (s1.obj i % 2 ^ 50))) [] none (some i)) = some (k, s2)) ∧
    (∃ s : State, s.am.sig.toNat % 64 ≠ 0 ∧ SMap.find? s.library (s.am.sig.toNat % 2 ^ 32) = none) ∧
    (∃ (s : State) (k : Nat) (p : PlanEnt), SMap.rising none s.library = true ∧ SMap.find? s.library (s.am.sig.toNat % 2 ^ 32) = some k ∧ SMap.find? s.plans k = some p) := by
  refine ⟨?_, ⟨libState id [], by decide⟩, ⟨library 64 [(64, 3)], 3, aPlan, by decide⟩⟩
  have key (a : Nat) (h : domKey 64 = a) (ok : ((library a []).readRec a).ok = true) (frag : ((library a []).readRec a).hdr % 2 ^ 32 = 5)
      (size : (library a []).recordSize a ((library a []).readRec a) = 128) (free : (library a []).freeObj 1 1 = some 1) (gaps : (library a []).gaps = [(0x20000, 256)]) :=
    (show ∃ (s : State) (b : Nat) (r : Rec), b = domKey s.am.sig.toNat ∧ r = s.readRec b ∧ s.am.sig.toNat % 64 = 0 ∧ r.ok = true ∧ r.hdr % 2 ^ 32 ≠ 0 ∧
      SMap.find? s.library (r.hdr % 2 ^ 32) = none ∧ s.library.length < 65536 ∧
      ∃ i s1, s.alloc (s.recordSize b r) 2 15 false = .made i s1 ∧
        ∃ k s2, (let c := ((s1.storeHome (domKey (s1.obj i % 2 ^ 50)) (s.homeBytes b (s.recordSize b r))).watchImage b r).watchSys (domKey (s1.obj i % 2 ^ 50)) (s.recordSize b r) 1
          c.newPlan ((c.readRec (domKey (s1.obj i % 2 ^ 50))).plan (domKey (s1.obj i % 2 ^ 50))) [] none (some i)) = some (k, s2) from by
    obtain ⟨s1, h1, h2⟩ := alloc_made (s := library a []) 2 15 rfl rfl free gaps (size := 128) rfl
    obtain ⟨s2, h3⟩ := newPlan_first (s := ((s1.storeHome (domKey (s1.obj 1 % 2 ^ 50)) ((library a []).homeBytes a 128)).watchImage a ((library a []).readRec a)).watchSys
      (domKey (s1.obj 1 % 2 ^ 50)) 128 1) _ (some 1) ((copied_plans _ _ _ _ _ _).trans h2)
    exact ⟨library a [], a, _, h.symm, rfl, by simp only [library]; decide, ok, by rw [frag]; decide, rfl, by simp [library], 1, s1, by rw [size]; exact h1, 0, s2, by rw [size]; exact h3⟩)
  rcases domKey_cases (pa := 64) (by decide) with h | h
  · exact key _ h (by decide) (by decide) (by decide) (by decide) (by decide)
  · exact key _ h (by decide) (by decide) (by decide) (by decide) (by decide)

/-- Region 0, two columns of one row at column 1 of die 0. -/
def region0 : Region := Region.arming 0 0 1 0 2 1 LHeader.zero Plan.zero

/-- A state with region 0, changed. -/
def withRegion (f : Region → Region) (g : State → State := id) : State := g { State.reset with regions := [(0, f region0)] }

theorem wit_DebugStopsAct :
    (∃ (s : State) (r : Region), s.region? 0 = some r ∧ r.num = 0 ∧ s.dbg.dbgArm = true ∧ s.dbg.dbgRegion = 0 ∧ r.phase = .armed ∧ r.armedAt = s.cycle ∧ r.replaced = false) ∧
    (∃ (s : State) (r : Region) (p : Snapshot), s.region? 0 = some r ∧ r.num = 0 ∧ s.dbg.dbgHeld = [0] ∧ r.phase = .checkpointed ∧ r.save = some p) :=
  ⟨⟨withRegion id (fun s => { s with dbg := { s.dbg with dbgArm := true } }), region0, by decide⟩,
    ⟨withRegion (fun r => { r with phase := .checkpointed, save := some Snapshot.zero }) (fun s => { s with dbg := { s.dbg with dbgHeld := [0] } }), _, Snapshot.zero, rfl, by decide⟩⟩

/-- A committed byte at key 0 in the port caches of the four dies. -/
def committed : State := { State.reset with lines := [0, 1, 2, 3].map (fun d => (lineKey d 0, ⟨quad { Sector.empty with valid := true, dirty := 1, com := 1 }, 0⟩)) }

/-- The last bytes of an address space, and a state whose memory lists nothing; a byte with no committed contents; one of this package's memory with committed contents in its home's port
cache; one of the host's memory. -/
theorem wit_HostAccessesAreCoherent : (∃ (s : State) (pa : Nat) (bs : List Byte), pa < 2 ^ 50 ∧ bs ≠ [] ∧ pa % 2 ^ 40 + bs.length ≤ 2 ^ 40 ∧ Memory.wf s.hbm = true ∧
      isHost (domKey pa) = true ∧ ∀ w : Fin 4, (s.dbg.watch.get w).getLsbD 53 = false) ∧
    (∃ (s : State) (pa : Nat), pa < 2 ^ 50 ∧ isHost (domKey pa) = false ∧ s.comDie (domKey pa) = none) ∧
    (∃ (s : State) (pa d : Nat), pa < 2 ^ 50 ∧ isHost (domKey pa) = false ∧ homeDie (domKey pa) = some d ∧ (s.sector d (domKey pa / 64)).com.getLsbD (domKey pa % 64) = true) := by
  have b := Config.ownPackage_lt
  refine ⟨⟨State.reset, 2 ^ 50 - 1, [7], by decide, nofun, by decide, rfl, ?_, by decide⟩, ⟨State.reset, 0, by decide, ?_, ?_⟩, ?_⟩
  · unfold domKey
    rw [if_neg (fun h => by generalize Config.ownPackage = n at b h; omega)]
    decide
  · rcases domKey_cases (pa := 0) (by decide) with h | h <;> rw [h] <;> decide
  · rcases domKey_cases (pa := 0) (by decide) with h | h <;> rw [h] <;> decide
  · have hk : domKey (Config.ownPackage * 2 ^ 40) = 0 := by
      unfold domKey
      rw [if_pos (by generalize Config.ownPackage = n at b ⊢; omega)]
      generalize Config.ownPackage = n at b ⊢
      omega
    have h : ∀ d : Fin 4, (committed.sector d.val 0).com.getLsbD 0 = true := by decide
    refine ⟨committed, Config.ownPackage * 2 ^ 40, Config.homeDie 0 % 4, by generalize Config.ownPackage = n at b ⊢; omega, by rw [hk]; decide, by rw [hk]; rfl, ?_⟩
    rw [hk]
    exact h ⟨Config.homeDie 0 % 4, Nat.mod_lt _ (by decide)⟩

/-- A task of region 0. -/
def task3 (f : Task → Task := id) : Task := f ⟨3, false, 0, none, false, false, 0, 0, some 0, none, none, none, [], [], [], [], [], hex Bar.zero⟩

/-- A machine check outside every region, in the region of an ordered task, in that of an unordered one, on no fill or spill and on a fill that a context waits for. -/
theorem wit_MachineChecksAct : (∃ (s : State) (n : Nat), s.region? n = none) ∧
    (∃ (s : State) (r : Region) (k : Task), s.region? 0 = some r ∧ s.movesAt 0 64 = [] ∧ s.task? r.task = some k ∧ k.ordered = true ∧ k.irrev = false ∧ k.mchecks = 0 ∧ s.stoppedTask k = false) ∧
    (∃ (s : State) (r : Region), s.region? 0 = some r ∧ s.movesAt 0 64 = [] ∧ r.ended = false ∧ ∀ k, s.task? r.task = some k → k.ordered = false ∨ k.irrev = true ∨ k.mchecks ≠ 0) ∧
    (∃ (s : State) (m : RegMove) (e : Elem), s.movesAt 0 64 = [(1, m)] ∧ s.elem? 1 = some e) :=
  ⟨⟨State.reset, 0, rfl⟩,
    ⟨withRegion (fun r => { r with task := 3 }) (fun s => { s with tasks := [task3 (fun k => { k with ordered := true })] }), _, _, rfl, rfl, rfl, rfl, rfl, rfl, rfl⟩,
    ⟨withRegion (fun r => { r with task := 3 }) (fun s => { s with tasks := [task3] }), _, rfl, rfl, rfl, fun k hk => by
      obtain rfl := Option.some.inj hk
      exact Or.inl rfl⟩,
    ⟨withRegion id (fun s => { s with tiles := [(1, { Tile.arming 0 0 with elem := some { Elem.arming 0 0 with moves := [⟨true, (0, 0), none, 0, 0⟩] } })] }), _, _, rfl, rfl⟩⟩

/-! ## Witnesses: queues and packets -/

/-- Packet 1 of queue 5 with words. -/
def packet (ws : List Word) (st : PktSt := .fetched) : Packet := ⟨1, 5, 0, ws, st, 0, [], false⟩

/-- A state with that packet. -/
def withPacket (k : Packet) (g : State → State := id) : State := g { State.reset with packets := [k], nextId := 2 }

/-- Two queues with a packet each to be fetched, of one class, with credit and without; the ring lies at 0x1000. -/
def twoQueues (credit : Nat) : State :=
  let q : Queue := { Queue.reset with base := 0x1000, cfg := 0x30066, kick := 1, credit := credit }
  { State.reset with queues := [(2, q), (9, q)] }

theorem wit_SlotsAreGrantedInTurn : ∀ n ∈ [0, 1], ((twoQueues n).slotsHeld < 64 ∧ (twoQueues n).lastGrant = none ∧ (twoQueues n).grantable ≠ [] ∧
    SMap.rising none (twoQueues n).queues = true ∧ (twoQueues n).packets = []) ∧ ∀ q, 0 < ((twoQueues n).queue q).cfg.toNat / 2 ^ 17 % 2 ^ 7 := by
  refine fun n hn => ⟨?_, fun q => ?_⟩
  · revert n
    decide
  · have h : ((twoQueues n).queue q).cfg = 0x20066 ∨ ((twoQueues n).queue q).cfg = 0x30066 := by
      simp only [State.queue, twoQueues, SMap.find?]
      repeat' split
      all_goals first | exact Or.inl rfl | exact Or.inr rfl
    rcases h with h | h <;> rw [h] <;> decide

/-- The launch header of zeros, at address 64 of a memory that lists nothing. -/
theorem zero_header (k : Packet) (g : State → State) (h : ∀ a ∈ [64, 64 + 2 ^ 40], (withPacket k g).readHeader a = State.reset.readHeader 64) :
    (withPacket k g).packetHeader 64 = .ok (State.reset.readHeader 64).1 := by
  unfold State.packetHeader
  have e : (withPacket k g).readHeader (domKey 64) = State.reset.readHeader 64 := by
    rcases domKey_cases (pa := 64) (by decide) with e | e <;> rw [e] <;> exact h _ (by decide)
  rw [e]
  rfl

/-- A header at an address that is not a multiple of 64; a header of zeros with IMG; its handle naming plan 0, and naming none. -/
theorem wit_LaunchPacketsLaunch :
    (∃ (s : State) (k : Packet) (c : Illegal), s.fetched? 1 1 = some k ∧ s.packetHeader (k.word 2) = .error c) ∧
    (∃ (s : State) (k : Packet) (h : LHeader), s.fetched? 1 1 = some k ∧ s.packetHeader (k.word 2) = .ok h ∧ k.word 0 / 256 % 2 = 1) ∧
    (∃ (s : State) (k : Packet) (h : LHeader) (i : Nat) (x : PlanEnt × Plan), s.fetched? 1 1 = some k ∧ s.packetHeader (k.word 2) = .ok h ∧ k.word 0 / 256 % 2 = 0 ∧
      s.planOf h.plan = some (i, x)) ∧
    (∃ (s : State) (k : Packet) (h : LHeader), s.fetched? 1 1 = some k ∧ s.packetHeader (k.word 2) = .ok h ∧ k.word 0 / 256 % 2 = 0 ∧ s.planOf h.plan = none) :=
  ⟨⟨withPacket (packet [1, 0, 65]), _, _, rfl, rfl⟩,
    ⟨withPacket (packet [0x101, 0, 64]), packet [0x101, 0, 64], _, rfl, zero_header _ id (by decide +kernel), rfl⟩,
    ⟨withPacket (packet [1, 0, 64]) (fun s => { s with plans := [(0, aPlan)] }), packet [1, 0, 64], _, 0, _, rfl, zero_header _ _ (by decide +kernel), rfl, rfl⟩,
    ⟨withPacket (packet [1, 0, 64]), packet [1, 0, 64], _, rfl, zero_header _ id (by decide +kernel), rfl, rfl⟩⟩

/-- A motif that is in the table, with an alternative of the library; one that is not. -/
theorem wit_GraphsAreMatchedAndLaunched :
    (∃ (s : State) (k : Nat) (m : BitVec 512) (i : Nat) (r : Rec), [0].length ≤ 16 ∧ s.motif? (signature [(1, [], [])] [0]) = some (k, m) ∧
      s.fragment? (m.toNat / 2 ^ (160 + 80 * chooseAlt m s.am.exploreOff ((m.toNat / 2 ^ 64 + 1) % 2 ^ 32)) % 2 ^ 32) = some (i, r)) ∧
    (∃ s : State, s.motif? (signature [(1, [], [])] [0]) = none) ∧
    (∃ (s : State) (k : Packet) (w : Illegal), s.fetched? 1 2 = some k ∧ s.packetHeader (k.word 3) = .error w) ∧
    (∃ (s : State) (k : Packet) (h : LHeader), s.fetched? 1 2 = some k ∧ s.packetHeader (k.word 3) = .ok h) :=
  ⟨⟨libState id [(7, BitVec.ofNat 512 ((signature [(1, [], [])] [0]).toNat + 2 ^ 128 + 5 * 2 ^ 160))], 7, _, 0, _, by decide, rfl, rfl⟩, ⟨State.reset, rfl⟩,
    ⟨withPacket (packet [2, 0, 0, 65]), packet [2, 0, 0, 65], _, rfl, rfl⟩,
    ⟨withPacket (packet [2, 0, 0, 64]), packet [2, 0, 0, 64], _, rfl, zero_header _ id (by decide +kernel)⟩⟩

/-- A range entry for one granule with pages, whose table lies at key 0x1000. -/
def pagedEnt : RangeEnt := ⟨0, 1, 0x1000, true, true, true, true, true, false, 0, 0⟩

/-- Region 0 with that entry at one port; its pages have a copy in frame 5 and are not present. -/
def pagedState (s : State) : State :=
  { s with regions := [(0, { region0 with ports := [(0, [pagedEnt])] })], hbm := words [(0x1000, 2 + 5 * 2 ^ 15), (0x1008, 2 + 5 * 2 ^ 15)] }

theorem absent_page (s : State) (h : (pagedState s).pageEntries = [(0x1000, 0x1000, 0, 2, 0), (0x1008, 0x1000, 1, 2, 32768)])
    (w : ∀ p ∈ [0x1000, 0x1008], (pagedState s).homeWord p 8 = 2 + 5 * 2 ^ 15) : (pagedState s).absentAt (5 * 32768) = some (0x1000, 0x1000, 0, 2, 0) := by
  have p0 : pteKey (2 + 5 * 2 ^ 15) = domKey (5 * 32768) := rfl
  unfold State.absentAt
  simp only [h, List.filter_cons, w 0x1000 (by decide), w 0x1008 (by decide), p0, beq_self_eq_true, if_true, List.filter_nil, List.any_cons, List.any_nil, List.find?_cons]
  rfl

/-- A word of a memory that lists nothing. -/
theorem zero_word (k : Packet) (g : State → State) (h : ∀ a ∈ [64, 64 + 2 ^ 40], (withPacket k g).homeWord a 8 = 0) : (withPacket k g).homeWord (domKey 64) 8 = 0 := by
  rcases domKey_cases (pa := 64) (by decide) with e | e <;> rw [e] <;> exact h _ (by decide)

/-- A WAIT whose condition holds (0 ≤ v), one whose does not (v = 1), waiting for a word of a memory that lists nothing; one whose signal has met it; one on a page that is away; a
parked queue. -/
theorem wit_WaitsWait :
    (∃ (s : State) (k : Packet), s.fetched? 1 3 = some k ∧ s.absentAt (k.word 2) = none ∧ k.word 4 = 0 ∧ k.word 3 ≤ s.homeWord (domKey (k.word 2)) 8) ∧
    (∃ (s : State) (k : Packet), s.packet? 1 = some k ∧ k.st = .waiting ∧ k.kind = 3 ∧ s.absentAt (k.word 2) = none ∧ k.word 4 = 1 ∧
      s.homeWord (domKey (k.word 2)) 8 ≠ k.word 3 ∧ k.met = false) ∧
    (∃ (s : State) (k : Packet), s.packet? 1 = some k ∧ k.st = .waiting ∧ k.kind = 3 ∧ s.absentAt (k.word 2) = none ∧ k.met = true) ∧
    (∃ (s : State) (k : Packet) (x : Nat × Nat × Nat × Nat × Nat), s.fetched? 1 3 = some k ∧ s.absentAt (k.word 2) = some x) ∧
    (∃ s : State, (s.queue 5).parked = true ∧ s.absentAt (((s.packetAt 5 (s.queue 5).read.toNat)[2]?).getD 0).toNat = none) := by
  refine ⟨⟨withPacket (packet [3, 0, 64, 0, 0]), packet [3, 0, 64, 0, 0], rfl, rfl, rfl, Nat.zero_le _⟩,
    ⟨withPacket (packet [3, 0, 64, 1, 1] .waiting), packet [3, 0, 64, 1, 1] .waiting, rfl, rfl, rfl, rfl, rfl, ?_, rfl⟩,
    ⟨withPacket { packet [3, 0, 64, 1, 1] .waiting with met := true }, { packet [3, 0, 64, 1, 1] .waiting with met := true }, rfl, rfl, rfl, rfl, rfl⟩,
    ⟨pagedState (withPacket (packet [3, 0, 5 * 32768])), packet [3, 0, 5 * 32768], _, rfl, absent_page _ rfl (by decide)⟩,
    ⟨{ State.reset with queues := [(5, { Queue.reset with parked := true })] }, rfl, rfl⟩⟩
  rw [show (packet [3, 0, 64, 1, 1] .waiting).word 2 = 64 from rfl, zero_word _ id (by decide)]
  decide

/-- SIGNAL without a buffer list; COPY of nothing and of 64 bytes; BARRIER with an earlier packet in progress and without, and once it waits. -/
theorem wit_SignalsCopiesAndBarriersAct :
    (∃ (s : State) (k : Packet), s.fetched? 1 4 = some k ∧ k.word 7 = 0 ∧ Memory.wf s.hbm = true) ∧
    (∃ (s : State) (k : Packet), s.fetched? 1 5 = some k ∧ k.word 4 = 0) ∧ (∃ (s : State) (k : Packet), s.fetched? 1 5 = some k ∧ k.word 4 ≠ 0) ∧
    (∃ (s : State) (k : Packet), s.packet? 1 = some k ∧ k.kind = 7 ∧ k.due ≤ s.cycle ∧ k.st = .fetched ∧
      s.packets.filter (fun x => x.queue == k.queue && decide (x.index < k.index)) = []) ∧
    (∃ (s : State) (k : Packet), s.packet? 1 = some k ∧ k.kind = 7 ∧ k.due ≤ s.cycle ∧ k.st = .fetched ∧
      s.packets.filter (fun x => x.queue == k.queue && decide (x.index < k.index)) ≠ []) ∧
    (∃ (s : State) (k : Packet), s.packet? 1 = some k ∧ k.kind = 7 ∧ k.due ≤ s.cycle ∧ k.st = .waiting ∧ ∀ w ∈ k.waits, s.packet? w = none) ∧
    (∃ (s : State) (k : Packet), s.packet? 1 = some k ∧ k.kind = 7 ∧ k.due ≤ s.cycle ∧ k.st = .waiting ∧ ∃ w ∈ k.waits, s.packet? w ≠ none) :=
  ⟨⟨withPacket (packet [4, 0, 64, 7, 1]), packet [4, 0, 64, 7, 1], by decide⟩, ⟨withPacket (packet [5]), packet [5], by decide⟩,
    ⟨withPacket (packet [5, 0, 64, 128, 64]), packet [5, 0, 64, 128, 64], by decide⟩, ⟨withPacket (packet [7]), packet [7], by decide⟩,
    ⟨withPacket { packet [7] with index := 1 } (fun s => { s with packets := s.packets ++ [{ packet [1] .started with id := 2 }] }), { packet [7] with index := 1 }, by decide⟩,
    ⟨withPacket { packet [7] .waiting with waits := [2] }, { packet [7] .waiting with waits := [2] }, by decide⟩,
    ⟨withPacket { packet [7] .waiting with waits := [1] }, { packet [7] .waiting with waits := [1] }, by decide⟩⟩

/-- A PREEMPT of queue 5 with word 2; queue 6 is of its group, queue 7 of another; two regions. -/
def preempting (w : Word) : State := withPacket (packet [6, 0, w]) (fun s => { s with
  queues := [(7, { Queue.reset with cfg := 0x20066 + 2 ^ 7 })]
  regions := [(0, { region0 with queue := 5 }), (3, { region0 with num := 3, queue := 7, phase := .retiring })] })

/-- PREEMPT and PREEMPT_KILL of queue 5 by itself, of queue 6, and of queue 7, which is barred. -/
theorem wit_PreemptsHaltAndKill : ∀ w ∈ [(5 : Word), 6, 7, 0x10005, 0x20005, 0x20007, 0x40005], (preempting w).fetched? 1 6 = some (packet [6, 0, w]) ∧
    (SMap.rising none (preempting w).regions && (preempting w).regions.all (fun x => x.2.num == x.1)) = true ∧
    ((preempting w).queue 5).cfg.getLsbD 15 = false ∧
    (((preempting w).queue (w.toNat % 2 ^ 10)).cfg.toNat / 2 ^ 7 % 2 ^ 8 == ((preempting w).queue 5).cfg.toNat / 2 ^ 7 % 2 ^ 8) = (w.toNat % 2 ^ 10 != 7) := by
  intro w hw
  simp only [List.mem_cons, List.not_mem_nil, or_false] at hw
  rcases hw with h | h | h | h | h | h | h <;> subst h <;> decide

/-- A packet that has ended, with a record and without; a PREEMPT that has started and whose region has gone. -/
theorem wit_CompletionRecordsAreWritten : ∀ a ∈ [(0 : Word), 64], (∃ (s : State) (k : Packet) (r : Record), s.packet? 1 = some k ∧ k.st = .ended r ∧ k.due ≤ s.cycle ∧
    k.word 1 = a.toNat ∧ Memory.wf s.hbm = true) ∧
    ∃ (s : State) (k : Packet), s.packet? 1 = some k ∧ k.st = .started ∧ k.word 0 % 2 ^ 8 = 6 ∧ k.waits ≠ [] ∧
      (∀ n ∈ k.waits, ∀ g, s.region? n = some g → g.phase ≠ .halting ∧ g.phase ≠ .stopped) ∧ k.word 1 = a.toNat ∧ Memory.wf s.hbm = true :=
  fun a _ => ⟨⟨withPacket (packet [1, a] (.ended { status := 3, kind := 9 })), packet [1, a] (.ended { status := 3, kind := 9 }), { status := 3, kind := 9 },
    rfl, rfl, Nat.le_refl _, rfl, rfl⟩,
    ⟨withPacket { packet [6, a] .started with waits := [0] }, { packet [6, a] .started with waits := [0] }, rfl, rfl, rfl, List.cons_ne_nil _ _, fun n _ g h => absurd h (by simp [State.region?, withPacket, State.reset, SMap.find?]), rfl, rfl⟩⟩

/-! ## Witnesses: placement -/

/-- A plan of two columns whose record lies at key 64. -/
def plan2 : Plan := { Plan.zero with
  hdr := { Header.zero with w := 2, h := 1 }, leaves := [{ addr := 64, ox := 0, oy := 0, copies := [], turn := [], hdr := { Header.zero with w := 2, h := 1 }, ports := [] }] }

/-- That record: two columns, one row, II 1; its image has one tile, the memory tile (0, 0), a FIFO of one granule. -/
def placeMem : SMap Byte := words [(64, 5 + 2 * 2 ^ 32 + 2 ^ 38), (72, 2 ^ 40), (128, 1 + 64 * 2 ^ 32), (192, 0x800 + 128 * 2 ^ 32), (256, 65)]

/-- Launch 1 of that plan, which waits to be placed. -/
def launch1 (f : Launch → Launch := id) : Launch := f ⟨1, 5, some 1, none, 0, .entry 0, LHeader.zero, none, 0, 0, false, none, [], false, 0, []⟩

/-- A state with that launch, of a GRAPH packet. -/
def withLaunch (l : Launch) (g : State → State := id) : State :=
  g { withPacket (packet [2] .waiting) with launches := [l], plans := [(0, ⟨0, 1, true, none, none, some plan2⟩)], hbm := placeMem }

/-- An object table of one index, with a pool of 2^39 bytes. -/
def backed (s : State) : State := { s with regs := { s.regs with objtab := 0x10000, objcnt := 2, pwbase := 0x1000000, pwsize := 0x8000000000 } }

/-- Wherever Pewter looks in one gap, there is room for what is no longer than the gap. -/
theorem place_one {b l n x : Nat} (h : n ≤ l) : ∃ a, nthPlace [(b, l)] n (x % places [(b, l)] n) = some a := by
  have hp : places [(b, l)] n = (l - n) / 256 + 1 := by simp [places, Nat.not_lt.2 h]
  rw [hp]
  have hx := Nat.mod_lt x (Nat.succ_pos ((l - n) / 256))
  exact ⟨b + 256 * (x % ((l - n) / 256 + 1)), by simp only [nthPlace, if_neg (Nat.not_lt.2 h), if_pos hx]⟩

/-- The backing object of a small region is made in such a pool, whatever the size of its checkpoint area. -/
theorem backing_made {s : State} {w h i b : Nat} (hc : s.regs.objcnt = 2) (hp : s.regs.pwsize = 0x8000000000) (hf : s.freeObj 1 1 = some i) (hg : s.gaps = [(b, 0x8000000000)])
    (hw : w * h * 10240 ≤ 2 ^ 38 - 512) : ∃ obj base u, s.backing w h = .ok (obj, base, u) := by
  have hm := Nat.mod_lt (Config.checkpointBytes (w * h)) (show 0 < 2 ^ 38 from by decide)
  obtain ⟨a, ha⟩ := place_one (b := b) (l := 0x8000000000) (n := (w * h * 10240 + Config.checkpointBytes (w * h) % 2 ^ 38 + 255) / 256 * 256) (x := Config.place s.freeCtr)
    (by omega)
  unfold State.backing State.alloc
  simp only [hc, hp, show (2 : Nat) - 1 = 1 from rfl, hf, hg, ha]
  exact ⟨_, _, _, rfl⟩

/-- The first rectangle of two columns where no region stands: at column 2, its second column of memory tiles. -/
theorem first_place {s : State} (hr : ∀ e ∈ s.regions, s.occupies e.2 = false) (hd : s.regs.defects = []) : firstOrigin s 2 1 0 (0, 2, 0) := by
  refine ⟨by unfold standsAt; decide, fun dx dy _ _ => ⟨by rw [hd]; exact List.not_mem_nil, fun e he h => by rw [hr e he] at h; exact absurd h.1 (by decide)⟩, ?_⟩
  rintro ⟨a, b, c⟩ ho ⟨-, -, -, hm, -⟩
  simp only [originBefore] at ho
  simp only at hm
  omega

/-- A launch that may be armed, and that the attempt to place arms. -/
theorem placeable : Placeable (withLaunch launch1 backed) launch1 plan2 0 2 0 where
  waits := ⟨rfl, by decide, by decide, by decide⟩
  plan := ⟨some 0, false, rfl⟩
  legal := ⟨by decide +kernel, by decide +kernel, by decide +kernel⟩
  agrees := ⟨by decide +kernel, by decide +kernel⟩
  alone := ⟨rfl, first_place (fun _ he => (List.not_mem_nil he).elim) rfl⟩
  ranges := by decide +kernel
  tiles := by decide +kernel
  has := by decide +kernel
  plain := ⟨by decide +kernel, rfl, rfl⟩
  backed := backing_made (i := 1) (b := 0x1000000) rfl rfl (by decide +kernel) (by decide +kernel) (by decide)

theorem armed_place : ∃ u, (withLaunch launch1 backed).tryPlace launch1 = .armed u := by
  obtain ⟨obj, base, u, hb⟩ := placeable.backed
  have ho : (withLaunch launch1 backed).origin plan2.hdr.w plan2.hdr.h plan2.hdr.xphase (fun _ _ _ => false) = some (0, 2, 0) := by decide +kernel
  have hc : (withLaunch launch1 backed).loadColl ((withLaunch launch1 backed).readLeaves plan2) launch1.hdr (withLaunch launch1 backed).freeRegion 0
      = .ok (none, withLaunch launch1 backed) := by
    unfold State.loadColl
    rw [if_pos (by decide +kernel)]
  unfold State.tryPlace
  rw [show (withLaunch launch1 backed).launchPlan launch1 = some (plan2, some 0, false) from rfl]
  dsimp only
  rw [placeable.legal.1, placeable.legal.2.1, placeable.legal.2.2, placeable.agrees.1, placeable.agrees.2]
  simp only [show decide (0 < launch1.hdr.shareK) = false from rfl, Bool.false_and, ho, show (none : Option Illegal).or ((brokenIf (false || false)).map broken) = none from rfl]
  rw [if_neg (by decide +kernel), placeable.tiles]
  dsimp only
  rw [if_pos placeable.has, hc]
  dsimp only
  rw [placeable.plain.2.1]
  simp only [List.drop_nil, State.allocList, if_true, hb]
  exact ⟨_, rfl⟩

/-- What an attempt to place comes to. -/
def comesTo (p : Placing) : Nat :=
  match p with
  | .wait _ => 0
  | .fail _ _ _ => 1
  | .armed _ => 2

theorem comesTo_wait {p : Placing} (h : comesTo p = 0) : ∃ u, p = .wait u := by
  cases p with
  | wait u => exact ⟨u, rfl⟩
  | fail => cases h
  | armed => cases h

theorem comesTo_fail {p : Placing} (h : comesTo p = 1) : ∃ k a b, p = .fail k a b := by
  cases p with
  | fail k a b => exact ⟨k, a, b, rfl⟩
  | wait => cases h
  | armed => cases h

/-- A launch that is armed, one whose record is missing, one for whose backing object the table has no index, and one that has waited 2^20 cycles. -/
theorem wit_RegionsArePlaced :
    (∃ (s : State) (x : Launch) (u : State) (p : Plan) (idx : Option Nat) (alt : Bool), s.launches.find? (fun y => y.id == 1) = some x ∧ s.mayPlace x = true ∧
      s.tryPlace x = .armed u ∧ s.launchPlan x = some (p, idx, alt) ∧ lowestFree s 0) ∧
    (∃ (s : State) (x : Launch) (p : Plan) (die x0 y0 : Nat), s.launches.find? (fun y => y.id == 1) = some x ∧ Placeable s x p die x0 y0 ∧ lowestFree s 0) ∧
    (∃ (s : State) (x : Launch) (k : Nat) (a b : Word), s.launches.find? (fun y => y.id == 1) = some x ∧ s.mayPlace x = true ∧ s.tryPlace x = .fail k a b) ∧
    (∃ (s : State) (x : Launch) (u : State), s.launches.find? (fun y => y.id == 1) = some x ∧ s.mayPlace x = true ∧ s.tryPlace x = .wait u) ∧
    (∃ (s : State) (x : Launch), s.launches.find? (fun y => y.id == 1) = some x ∧ x.region = none ∧ x.since + 2 ^ 20 ≤ s.cycle) := by
  have hf : lowestFree (withLaunch launch1 backed) 0 := ⟨rfl, by decide, fun m hm => absurd hm (Nat.not_lt_zero m)⟩
  refine ⟨?_, ⟨_, launch1, plan2, 0, 2, 0, rfl, placeable, hf⟩, ?_, ?_, ⟨withLaunch launch1 (fun s => { s with cycle := 2 ^ 20 }), launch1, rfl, rfl, Nat.le_refl _⟩⟩
  · obtain ⟨u, hu⟩ := armed_place
    exact ⟨_, launch1, u, plan2, some 0, false, rfl, by decide, hu, rfl, hf⟩
  · obtain ⟨k, a, b, hu⟩ := comesTo_fail (p := (withLaunch launch1 (fun s => { s with hbm := [] })).tryPlace launch1) (by decide +kernel)
    exact ⟨_, launch1, k, a, b, rfl, rfl, hu⟩
  · obtain ⟨u, hu⟩ := comesTo_wait
      (p := (withLaunch launch1 (fun s => { s with regs := { s.regs with objcnt := 1, pwsize := 256 } })).tryPlace launch1) (by decide +kernel)
    exact ⟨_, launch1, u, rfl, rfl, hu⟩

/-- A snapshot of region 0 at its place: its element and its memory tile. -/
def snap0 : Snapshot := { Snapshot.zero with x0 := 1, tiles := [(1, Tile.arming 0 0), (2, { Tile.arming 0 0 with mem := some MTile.arming })] }

/-- A region that halts at a boundary; one that is checkpointed, for which there is room; one with a token withheld since time 0 by a page that is not present. -/
theorem wit_RegionsMove :
    (∃ (s : State) (r : Region), s.region? 0 = some r ∧ r.num = 0 ∧ r.phase = .halting ∧ s.atBoundary r = true) ∧
    (∃ (s : State) (r : Region) (p : Snapshot) (die x0 y0 : Nat), s.region? 0 = some r ∧ r.num = 0 ∧ r.phase = .checkpointed ∧ r.save = some p ∧ r.pageWait = none ∧
      (s.queue r.queue).held = false ∧ 0 ∉ s.dbg.dbgHeld ∧ s.yields (s.rankOf r) = false ∧ r.hdr.shareK = 0 ∧ r.backing ≠ 0 ∧
      firstOrigin s r.w r.h r.plan.hdr.xphase (die, x0, y0) ∧ s.dieHas die r.chans.length r.ru.isSome = true) ∧
    (∃ (s : State) (r : Region) (c va : Nat), s.region? 0 = some r ∧ r.num = 0 ∧ s.withheldOf r = [(c, va)] ∧ r.phase = .armed ∧
      c + s.regs.drainLimit.toNat * (50 * 232792560) ≤ s.time) :=
  ⟨⟨onRegion (fun r => { r with phase := .halting }) (fired (.nop .always) (fun e => { e with haltAt := some 0 })), _, rfl, rfl, rfl, by decide⟩,
    ⟨withRegion (fun r => { r with phase := .checkpointed, save := some snap0, backing := 0x1000 }), _, snap0, 0, 2, 0, rfl, rfl, rfl, rfl, rfl, rfl, by decide, rfl, rfl,
      by decide, first_place (fun e he => by rw [List.mem_singleton.1 he]; rfl) rfl, rfl⟩,
    ⟨withRegion (fun r => { r with ports := [(0, [pagedEnt])] }) (fun s => { s with time := 6 * (50 * 232792560), hbm := words [(0x1000, 2)], tiles := [(2, { Tile.arming 0 0 with mem := some { MTile.arming with
      gens := MTile.arming.gens.set 1 { Gen.closed with withheld := some (0, 0x5000) } (by decide) } })] }), _, 0, 0x5000, rfl, rfl, by decide +kernel, rfl, by decide⟩⟩

/-! ## Witnesses: elements, the matrix unit, the network -/

/-- A tile with an element, changed. -/
def elemTile (f : Elem → Elem) (g : Tile → Tile := id) : Tile := g { Tile.arming 0 0 with elem := some (f (Elem.arming 0 0)) }

/-- Region 0 with an element at tile 1 and a memory tile at tile 2. -/
def tiles (x y : Tile) (g : State → State := id) : State := g { State.reset with regions := [(0, region0)], tiles := [(1, x), (2, y)] }

/-- A tile with a memory tile, changed. -/
def memTile (f : MTile → MTile) (g : Tile → Tile := id) : Tile := g { Tile.arming 0 0 with mem := some (f MTile.arming) }

/-- An element at tile 1 whose slot 31 is a HALT of context 0, and its follower to the south, which is due to fire that slot. -/
def chained : State :=
  { tiles (elemTile (fun e => { e with slots := e.slots.set 31 0xE0080001 (by decide) })) (memTile id) with
    tiles := [(1, elemTile (fun e => { e with slots := e.slots.set 31 0xE0080001 (by decide) })), (49, elemTile (fun e => { e with ctrl := 1, due := [(0, 31)] }))] }

theorem wit_ElementEventsAndFollowersAct :
    (∃ (s : State) (x : Tile) (e : Elem) (w : BitVec 48), s.tile? 1 = some x ∧ x.elem = some e ∧ e.pendTable = some w ∧ e.idx = 0) ∧
    (∃ (s : State) (x : Tile) (e : Elem) (m : RegMove) (r : Region), s.tile? 1 = some x ∧ x.elem = some e ∧ e.moves = [m] ∧ m.isFill = true ∧ m.due ≤ s.cycle ∧
      m.want = (3, 31) ∧ s.region? (e.ctx.get 3).region = some r ∧ s.portFree (s.portAt (tileDie 1) (16 + tileY 1 / 2)) = true) ∧
    (∃ (s : State) (x : Tile) (e : Elem) (m : RegMove), s.tile? 1 = some x ∧ x.elem = some e ∧ e.moves = [m] ∧ m.isFill = false ∧ m.due ≤ s.cycle ∧
      s.portFree (s.portAt (tileDie 1) (16 + tileY 1 / 2)) = true) ∧
    (∃ (s : State) (x : Tile) (e : Elem) (c : CSlot), s.tile? 1 = some x ∧ x.elem = some e ∧ e.cslot = some c ∧ e.idx = 0 ∧ c.running = false ∧ e.haltAt = none) ∧
    (∃ (s : State) (x : Tile) (e : Elem) (d : Nat), s.tile? 1 = some x ∧ x.elem = some e ∧ e.mat.acks = [d] ∧ d ≤ s.cycle) ∧
    (∃ (s : State) (x : Tile) (e : Elem), s.tile? 1 = some x ∧ x.elem = some e ∧ e.due = [(0, 31)] ∧ 0 ≤ s.cycle ∧ s.leaderHalts 1 31 = none) ∧
    (∃ (s : State) (x : Tile) (e : Elem) (c : Fin 4), s.tile? 49 = some x ∧ x.elem = some e ∧ e.due = [(0, 31)] ∧ 0 ≤ s.cycle ∧ s.leaderHalts 49 31 = some c) :=
  ⟨⟨tiles (elemTile (fun e => { e with pendTable := some 4 })) (memTile id), _, _, 4, rfl, rfl, rfl, rfl⟩,
    ⟨tiles (elemTile (fun e => { e with moves := [⟨true, (3, 31), some (0, 5), 0, 0⟩] })) (memTile id), _, _, _, _, rfl, rfl, rfl, rfl, Nat.le_refl _, rfl, rfl, by decide⟩,
    ⟨tiles (elemTile (fun e => { e with moves := [⟨false, (0, 5), some (0, 5), 0, 0⟩] })) (memTile id), _, _, _, rfl, rfl, rfl, rfl, Nat.le_refl _, by decide⟩,
    ⟨tiles (elemTile (fun e => { e with cslot := some ⟨1, 5, false, 0, [], [], []⟩ })) (memTile id), _, _, _, rfl, rfl, rfl, rfl, rfl, rfl⟩,
    ⟨tiles (elemTile (fun e => { e with mat := { e.mat with acks := [0] } })) (memTile id), _, _, 0, rfl, rfl, rfl, Nat.le_refl _⟩,
    ⟨tiles (elemTile (fun e => { e with due := [(0, 31)] })) (memTile id), _, _, rfl, rfl, rfl, Nat.le_refl _, by decide⟩,
    ⟨chained, _, _, 0, rfl, rfl, rfl, Nat.le_refl _, by decide⟩⟩

/-- A result of the matrix unit of either kind that is due, one whose replay is due and one whose is not; ZB with a panel, with rows left and with none; a row to be
read at the memory tile, and one that has been read. -/
theorem wit_MatrixEventsAct :
    (∀ b ∈ [true, false], ∃ (s : State) (x : Tile) (e : Elem) (o : MatOut), s.tile? 1 = some x ∧ x.elem = some e ∧
      e.mat.outs.find? (fun y => y.id == 9) = some o ∧ o.isRow = b ∧ o.due ≤ s.cycle) ∧
    (∀ c ∈ [55, 56], ∃ (s : State) (x : Tile) (e : Elem) (o : MatOut), s.tile? 1 = some x ∧ x.elem = some e ∧
      e.mat.outs.find? (fun y => y.id == 9) = some o ∧ (o.due + 56 ≤ s.cycle ↔ c = 56)) ∧
    (∀ k ∈ [0, 1], ∃ (s : State) (x : Tile) (e : Elem) (p : BitVec 128), s.tile? 1 = some x ∧ x.elem = some e ∧ e.mat.panel = some p ∧ e.mat.zb = true ∧
      e.mat.zdue ≤ s.cycle ∧ (min 4 (p.toNat % 2 ^ 12 - e.mat.zdone) = 0 ↔ k = 1)) ∧
    (∀ g ∈ [none, some (7 : BitVec 1280)], ∃ (s : State) (x : Tile) (e : Elem) (r : Region), s.tile? 1 = some x ∧ x.elem = some e ∧ s.region? x.region = some r ∧
      e.mat.gaddr[e.mat.garrived]? = some 0x80000 ∧ r.localTile x.leaf 0x80000 = some 2 ∧ e.mat.gdue ≤ s.cycle ∧ e.mat.gheld = g ∧ s.olderOnPath 1 e.mat.gid 2 = false ∧
      s.banksFree 2 (banksOf (0x80000 % 2 ^ 19) 128) = true ∧ s.mem? 2 ≠ none) :=
  ⟨fun b _ => ⟨tiles (elemTile (fun e => { e with mat := { e.mat with outs := [⟨9, 2, { tag := 0, pay := .s 0 }, 0, b, false⟩] } })) (memTile id), _, _, _, rfl, rfl, rfl, rfl,
      Nat.le_refl _⟩,
    fun c hc => ⟨tiles (elemTile (fun e => { e with mat := { e.mat with outs := [⟨9, 2, { tag := 0, pay := .s 0 }, 0, true, false⟩] } })) (memTile id) (fun s => { s with cycle := c }),
      _, _, _, rfl, rfl, rfl, by revert c; decide⟩,
    fun k hk => ⟨tiles (elemTile (fun e => { e with mat := { e.mat with panel := some aPanel, zb := true, zdone := k } })) (memTile id), _, _, aPanel, rfl, rfl, rfl, rfl,
      Nat.le_refl _, by revert k; decide⟩,
    fun g _ => ⟨tiles (elemTile (fun e => { e with mat := { e.mat with garrived := 15, gaddr := List.replicate 16 0x80000, gheld := g } })) (memTile id), _, _, _, rfl, rfl, rfl,
      rfl, (show region0.localTile 0 0x80000 = some 2 from by decide), Nat.le_refl _, rfl, rfl, rfl, nofun⟩⟩

/-- An accumulate token for the last row in accumulator mode; one in another mode, of a region that has ended. -/
theorem wit_AccumulateTokensAdd :
    (∃ (s : State) (x : Tile) (m : MTile) (k : Token) (y : Elem) (r : Region), s.tile? 2 = some x ∧ x.mem = some m ∧ x.iq.get 3 = [k] ∧ k.side = .acc 8191 1 ∧
      m.ctrl.toNat % 8 = 3 ∧ (∀ c, SMap.find? m.banks (8191 / 512) = some c → c < s.cycle) ∧ s.elem? 1 = some y ∧ s.region? x.region = some r ∧ Memory.wf s.sram = true) ∧
    (∃ (s : State) (x : Tile) (m : MTile) (k : Token), s.tile? 2 = some x ∧ x.mem = some m ∧ x.iq.get 3 = [k] ∧ k.side = .acc 0 1 ∧ m.ctrl.toNat % 8 ≠ 3 ∧
      ∀ r, s.region? x.region = some r → r.ended = true) :=
  ⟨⟨tiles (elemTile id) (memTile (fun m => { m with ctrl := 3 }) (fun t => { t with iq := t.iq.set 3 [{ tag := 0, pay := .v Vec.zero, side := .acc 8191 1 }] (by decide) })),
      _, _, _, _, _, rfl, rfl, rfl, rfl, rfl, nofun, rfl, rfl, rfl⟩,
    ⟨tiles (elemTile id) (memTile id (fun t => { t with iq := t.iq.set 3 [{ tag := 0, pay := .v Vec.zero, side := .acc 0 1 }] (by decide) }))
        (fun s => { s with regions := [(0, { region0 with phase := .stopped })] }), _, _, _, rfl, rfl, rfl, rfl, by decide, fun r hr => by
      obtain rfl := Option.some.inj hr
      rfl⟩⟩

/-- A data token of a scalar. -/
def tok (w : Word := 7) : Token := { tag := 0, pay := .s w }

/-- An element's tile with a token at port 0, and class 0 with an entry. -/
def sending (w : BitVec 32) (n : Nat) : Tile :=
  elemTile id (fun t => { t with
    routes := t.routes.set 0 w (by decide), op := t.op.set 0 [.full tok none 0] (by decide), iq := t.iq.set 3 (List.replicate n tok) (by decide) })

theorem sending_route : ∀ n ∈ [3, 4], oneQueue ((sending (16 + 3 * 64) n).routes.get ((sending (16 + 3 * 64) n).classOf 0)).toNat 3 := by unfold oneQueue; decide

/-- A packet at the memory tile: one that a direct link has brought to queue 2, or one whose route by class 0 is still to be read. -/
def onLink (into : Option (Fin 4) := some 2) (hold : Option (Nat × Branch) := none) : Flight :=
  { id := 1, pkt := 0, src := 4, tile := 2, dir := 1, tok := tok, route := .table 0, into := into, hold := hold, ready := 0 }

/-- A state in which that packet is under way. -/
def flying (f : Flight) (x : Tile := elemTile id) (y : Tile := memTile id) : State := tiles x y (fun s => { s with nextId := 9, flights := [f] })

/-- A port whose entry names queue 3 of its own tile, with room there and without, before its entry has been read and after; one whose entry names the way east, and
one whose entry names the direct link, to the memory tile; a token that a direct link has brought to queue 2 of the memory tile, held by nothing and by its port; a token
that goes on from the memory tile. -/
theorem wit_RoutersDeliverTokens :
    (∀ n ∈ [3, 4], ∀ left ∈ [none, some (5, Route.table 0, [Branch.loc 3])], ∃ (s : State) (t : Tile), s.tile? 1 = some t ∧ t.op.get 0 = [.full tok left 0] ∧ plainSlots (t.op.get 0) ∧
      ((left = none ∧ oneQueue (t.routes.get (t.classOf 0)).toNat 3) ∨ (∃ p, left = some (p, .table (t.classOf 0), [.loc 3]))) ∧ (t.iq.get 3).length = n) ∧
    (∀ w ∈ [2, 32], ∃ (s : State) (t y : Tile) (b : Branch) (n dir ready : Nat) (into : Option (Fin 4)), s.tile? 1 = some t ∧ t.op.get 0 = [.full tok none 0] ∧
      plainSlots (t.op.get 0) ∧ oneHop 1 s.cycle (t.routes.get (t.classOf 0)).toNat b n dir ready into ∧ (into.isSome = true ↔ w = 32) ∧ s.tile? n = some y ∧
      y.ofLeaf (t.classOwner (t.classOf 0)) = true ∧ s.flights = []) ∧
    (∃ (s : State) (f : Flight) (t : Tile), s.tile? 2 = some t ∧ s.flights = [f] ∧ f.ready ≤ s.cycle ∧ f.tile = 2 ∧ standsBefore t f 2 ∧ plainSide f.tok ∧ f.hold = none ∧
      (t.iq.get 2).length < 4) ∧
    (∃ (s : State) (f : Flight) (t : Tile), s.tile? 2 = some t ∧ s.flights = [f] ∧ f.ready ≤ s.cycle ∧ f.tile = 2 ∧ standsBefore t f 2 ∧ plainSide f.tok ∧
      f.hold = some (1, .dir 1) ∧ f.id ≠ f.pkt ∧ (t.iq.get 2).length < 4 ∧
      s.port? 1 ⟨f.src % 4, Nat.mod_lt _ (by decide)⟩ = some [.full tok (some (f.pkt, .table 0, [.dir 1])) 0]) ∧
    (∃ (s : State) (f : Flight) (t y : Tile) (c : Fin 16) (b : Branch) (n dir ready : Nat), s.tile? 2 = some t ∧ s.flights = [f] ∧ f.ready ≤ s.cycle ∧ f.tile = 2 ∧ f.into = none ∧
      f.left = none ∧ f.route = .table c ∧ oneHop 2 s.cycle (t.routes.get c).toNat b n dir ready none ∧ s.tile? n = some y ∧ y.ofLeaf (t.classOwner c) = true ∧
      f.pkt ≠ f.id ∧ f.id < s.nextId ∧ f.tile ≠ n) := by
  have plain (l : Option (Nat × Route × List Branch)) : plainSlots [.full tok l 0] := by
    intro k l c h
    rw [List.mem_singleton, OutSlot.full.injEq] at h
    rw [h.1]
    trivial
  refine ⟨fun n hn left hl => ?_, fun w hw => ?_, ⟨flying onLink, onLink, _, rfl, rfl, Nat.le_refl _, rfl, Or.inl rfl, trivial, rfl, by decide⟩,
    ⟨flying (onLink (some 2) (some (1, .dir 1))) (elemTile id (fun t => { t with op := t.op.set 0 [.full tok (some (0, .table 0, [.dir 1])) 0] (by decide) })),
      onLink (some 2) (some (1, .dir 1)), _, rfl, rfl, Nat.le_refl _, rfl, Or.inl rfl, trivial, rfl, by decide, by decide, rfl⟩,
    ⟨flying (onLink none) (elemTile id) (memTile id (fun t => { t with routes := t.routes.set 0 8 (by decide) })), onLink none, _, _, 0, .dir 3, 1, 1, 1, rfl, rfl, Nat.le_refl _, rfl,
      rfl, rfl, rfl, ⟨by decide, Or.inl ⟨3, 0, by decide, rfl, by decide, by decide, by decide, rfl⟩⟩, rfl, by decide, by decide, by decide, by decide⟩⟩
  · simp only [List.mem_cons, List.not_mem_nil, or_false] at hl
    rcases hl with h | h <;> subst h
    · exact ⟨tiles (sending (16 + 3 * 64) n) (memTile id), _, rfl, rfl, plain _, Or.inl ⟨rfl, sending_route n hn⟩, List.length_replicate⟩
    · exact ⟨tiles { sending (16 + 3 * 64) n with op := (sending (16 + 3 * 64) n).op.set 0 [.full tok (some (5, .table 0, [.loc 3])) 0] (by decide) } (memTile id), _, rfl, rfl, plain _,
        Or.inr ⟨5, by revert n; decide⟩, List.length_replicate⟩
  · simp only [List.mem_cons, List.not_mem_nil, or_false] at hw
    rcases hw with h | h <;> subst h
    · exact ⟨tiles (sending 2 0) (memTile id), _, _, .dir 1, 2, 3, 1, none, rfl, rfl, plain _, ⟨by decide, Or.inl ⟨1, 0, by decide, rfl, by decide, by decide, by decide, rfl⟩⟩,
        by decide, rfl, by decide, rfl⟩
    · exact ⟨tiles (sending 32 0) (memTile id), _, _, .home 0, 2, 5, 1, some 0, rfl, rfl, plain _, ⟨by decide, Or.inr ⟨0, by decide, by decide, rfl, by decide, rfl, by decide, rfl⟩⟩,
        by decide, rfl, by decide, rfl⟩

/-- A scatter register that holds a token of each tag for copy 0; a gather register whose buffer of copy K mod n has a token, and that drops it; a staging tile
with room before B is loaded, and one that sends its oldest afterwards. -/
theorem wit_PlanRegistersForward :
    (∀ g ∈ [(0 : BitVec 2), 1, 2], ∃ (s : State) (t : Tile) (c : Scatter), s.tile? 1 = some t ∧ t.scatter[0]? = some c ∧ c.held = some ({ tok with tag := g }, [0]) ∧
      t.scatterAt 1 c.q = none ∧ (t.iq.get c.q).length < 4) ∧
    (∃ (s : State) (t : Tile) (c : Scatter) (u : State), s.tile? 1 = some t ∧ t.scatter[0]? = some c ∧ c.held = some (tok, [1]) ∧
      s.sendOn 1 c.q tok (.to ⟨1 + c.stride * 1, c.q, none⟩) = some u ∧ u.tile? 1 = some t) ∧
    (∃ (s : State) (t : Tile) (g : Gather) (u : State), s.tile? 1 = some t ∧ t.gather[0]? = some g ∧ g.bufs[g.k % g.n]? = some [tok] ∧
      s.sendOn 1 (s.gatherPort g) tok g.dest = some u ∧ u.tile? 1 = some t) ∧
    (∃ (s : State) (t : Tile) (m : MTile) (g : Staging), s.tile? 2 = some t ∧ t.mem = some m ∧ m.staging = some g ∧ g.active = false ∧ t.iq.get 0 = [tok] ∧
      (g.toks.map stageGranules).foldl (· + ·) 0 + 1 ≤ 32768) ∧
    (∃ (s : State) (t : Tile) (m : MTile) (g : Staging) (u : State), s.tile? 2 = some t ∧ t.mem = some m ∧ m.staging = some g ∧ g.active = true ∧ t.iq.get 0 = [] ∧
      g.toks = [tok] ∧ s.sendOn 2 0 tok g.dest = some u ∧ u.tile? 2 = some t) := by
  have far (x : Tile) : ∃ u, (tiles x (memTile id)).sendOn 1 3 tok (.to ⟨2, 3, none⟩) = some u ∧ u.tile? 1 = some x := by
    refine ⟨_, rfl, rfl⟩
  refine ⟨fun g _ => ⟨tiles (elemTile id (fun t => { t with scatter := [⟨3, 4, 1, 0, true, some ({ tok with tag := g }, [0])⟩] })) (memTile id), _, _, rfl, rfl, rfl, rfl, Nat.zero_lt_succ _⟩,
    ?_,
    ⟨tiles (elemTile id (fun t => { t with gather := [⟨0, 0, 0, 2, 1, 5, true, [[], [tok]], .drop⟩] })) (memTile id), _, _, _, rfl, rfl, rfl, rfl, rfl⟩,
    ⟨tiles (elemTile id) (memTile (fun m => { m with staging := some ⟨false, .wait, [tok]⟩ }) (fun t => { t with iq := t.iq.set 0 [tok] (by decide) })), _, _, _,
      rfl, rfl, rfl, rfl, rfl, by decide⟩,
    ⟨tiles (elemTile id) (memTile (fun m => { m with staging := some ⟨true, .drop, [tok]⟩ })), _, _, _, _, rfl, rfl, rfl, rfl, rfl, rfl, rfl, rfl⟩⟩
  obtain ⟨u, hu, ht⟩ := far (elemTile id (fun t => { t with scatter := [⟨3, 4, 1, 0, true, some (tok, [1])⟩] }))
  exact ⟨_, _, _, u, rfl, rfl, rfl, hu, ht⟩

/-- A request of tile 1. -/
def request (i : Instr) (q : Option (Fin 4)) (x y z : Word) (st : ReqSt := .sent) : Req where
  id := 5
  tile := 1
  ctx := 0
  slot := 0
  region := 0
  leaf := 0
  task := 0
  q := q
  pred := none
  op := i
  x := x
  y := y
  z := z
  pay := .s 0
  arcs := {}
  rel := none
  due := 0
  st := st

/-- A request of queue 3 that has been answered. -/
def reply (b : Option Bool) : Req := { request (.rnext .always 3 1) (some 3) 0 0 0 (.done ⟨.s 7, false, b, {}⟩) with pred := b.map (fun _ => 1) }

/-- A reply that is due with a predicate and without, and a fault token that is due. -/
theorem wit_RepliesAndFaultsEnterQueues :
    (∀ b ∈ [none, some true], ∃ (s : State) (g : Region) (t : Tile) (r : Req) (a : Reply), s.req? r.id = some r ∧ r.st = .done a ∧ r.q = some 3 ∧
      s.tile? r.tile = some t ∧ r.due ≤ s.cycle ∧ (∀ x ∈ s.reqs, ¬ x.id < r.id) ∧ s.region? r.region = some g ∧ g.placed = true ∧ (t.iq.get 3).length < 4 ∧ a.pred = b) ∧
    (∃ (s : State) (g : Region) (t : Tile) (x : FaultTok) (z : Ctx), s.faultToks.find? (fun y => y.id == x.id) = some x ∧ s.tile? x.tile = some t ∧ x.due ≤ s.cycle ∧
      (∀ y ∈ s.faultToks, ¬ y.id < x.id) ∧ s.region? x.region = some g ∧ g.placed = true ∧ (t.iq.get x.q).length < 4 ∧ x.froze = some (1, 0) ∧
      s.ctx? 1 0 = some z ∧ z.st = .frozen false) :=
  ⟨fun b _ => ⟨tiles (elemTile id) (memTile id) (fun s => { s with reqs := [reply b] }), _, _, reply b, _, rfl, rfl, rfl, rfl, Nat.le_refl _,
      fun x hx => by rw [List.mem_singleton.1 hx]; exact Nat.lt_irrefl _, rfl, rfl, Nat.zero_lt_succ _, rfl⟩,
    ⟨tiles (elemTile (inCtx (fun c => { c with st := .frozen false }))) (memTile id) (fun s => { s with faultToks := [⟨5, 0, 1, 3, 9, 0, some (1, 0)⟩] }), _, _,
      ⟨5, 0, 1, 3, 9, 0, some (1, 0)⟩, _, rfl, rfl, Nat.le_refl _, fun x hx => by rw [List.mem_singleton.1 hx]; exact Nat.lt_irrefl _, rfl, rfl, by decide, rfl, rfl, rfl⟩⟩

/-! ## Witnesses: streams and units -/

/-- A stream record of KIND k: one dimension of 3 elements of 64-bit integers, the last at the top of the tile, DIRECT. -/
def record (k : Nat) : BitVec 512 := BitVec.ofNat 512 (k + 11 * 16 + 0x7FFE8 * 2 ^ 16 + 3 * 2 ^ 72 + 2 ^ 136 + 2 ^ 339)

/-- A memory tile whose generator 1 runs at element u with a record. -/
def streamMem (w : BitVec 512) (u : Nat) (f : MTile → MTile := id) : MTile := f { MTile.arming with
  recs := MTile.arming.recs.set 1 w (by decide), gens := MTile.arming.gens.set 1 { Gen.closed with st := .running, tuple := [u, 0, 0, 0] } (by decide) }

/-- Its tile, with a token at queue 0. -/
def streamTile (w : BitVec 512) (u : Nat) (f : MTile → MTile := id) (k : Token := tok) : Tile :=
  memTile (fun _ => streamMem w u f) (fun t => { t with iq := t.iq.set 0 [k] (by decide) })

/-- That tile in its region. -/
def stream (w : BitVec 512) (u : Nat) (f : MTile → MTile := id) (k : Token := tok) : State := tiles (elemTile id) (streamTile w u f k)

theorem stream_generating (w : BitVec 512) (u : Nat) (f : MTile → MTile) (k : Token)
    (h : ((streamMem w u f).gens.get 1).st = .running ∧ ((streamMem w u f).gens.get 1).busy = 0) : Generating (stream w u f k) 2 1 (streamTile w u f k) (streamMem w u f) region0 :=
  ⟨rfl, rfl, rfl, rfl, rfl, h.1, by rw [h.2]; exact Nat.zero_le _⟩

theorem idle_banks {s : State} {m : MTile} {a : Nat} (h : m.banks = []) : banksIdle s m a := by
  intro b c _ hf
  rw [h] at hf
  cases hf

theorem idle {s : State} {m : MTile} (h : m.banks = []) : unserved s m := by
  intro b c hf
  rw [h] at hf
  cases hf

/-- A memory tile whose generator 1, of a KIND, has only its completion to send, to port 3 or without. -/
def completing (comp : Nat) (kind : Nat := 0) : State := tiles (elemTile id) (memTile (fun m => { m with
  recs := m.recs.set 1 (BitVec.ofNat 512 (kind + comp * 2 ^ 328 + 3 * 2 ^ 329)) (by decide), gens := m.gens.set 1 { Gen.closed with st := .finishing 0 } (by decide) }))

theorem wit_StreamsMoveTokens :
    (∀ u ∈ [0, 2], ∃ (s : State) (x : Tile) (m : MTile) (r : Region) (a : Nat), Generating s 2 1 x m r ∧ plainRecord (m.recs.get 1) 1 ∧ x.opKind.getLsbD 0 = false ∧
      m.ctrl = 0 ∧ (m.gens.get 1).pendTok = [] ∧ (x.op.get 0).length < 2 ∧ (m.gens.get 1).tuple.getD 0 0 = u ∧ u < count0 (m.recs.get 1) ∧
      nextPlace (m.recs.get 1) u = a ∧ a + 8 ≤ 2 ^ 19 ∧ banksIdle s m a ∧ (m.gens.get 1).tuple ≠ []) ∧
    (∀ u ∈ [0, 2], ∃ (s : State) (x : Tile) (m : MTile) (r : Region) (a : Nat), Generating s 2 1 x m r ∧ plainRecord (m.recs.get 1) 2 ∧ x.iqKind.getLsbD 0 = false ∧
      m.ctrl = 0 ∧ m.qStop.getLsbD 0 = false ∧ x.iq.get 0 = [tok] ∧ tok.tag = 0 ∧ tok.side = .none ∧ tok.log = none ∧ (m.gens.get 1).tuple.getD 0 0 = u ∧
      u < count0 (m.recs.get 1) ∧ nextPlace (m.recs.get 1) u = a ∧ a + 8 ≤ 2 ^ 19 ∧ banksIdle s m a ∧ (m.gens.get 1).tuple ≠ [] ∧ Memory.wf s.sram = true) ∧
    (∀ b ∈ [true, false], ∃ (s : State) (x : Tile) (m : MTile) (r : Region) (due : Nat), s.tile? 2 = some x ∧ x.mem = some m ∧ s.region? x.region = some r ∧ r.num = x.region ∧
      (m.gens.get 1).st = .finishing due ∧ due ≤ s.cycle ∧ (m.recs.get 1).getLsbD 328 = b ∧ (x.op.get 3).length < 2 ∧ (m.recs.get 1).toNat / 2 ^ 329 % 4 = 3) ∧
    (∀ k ∈ [3, 4], ∃ (s : State) (x : Tile) (m : MTile) (r : Region) (due : Nat), s.tile? 2 = some x ∧ x.mem = some m ∧ s.region? x.region = some r ∧ r.num = x.region ∧
      (m.gens.get 1).st = .finishing due ∧ due ≤ s.cycle ∧ (m.recs.get 1).getLsbD 328 = false ∧ (m.recs.get 1).toNat % 16 = k) := by
  refine ⟨fun u hu => ?_, fun u hu => ?_, fun b hb => ?_, fun k hk => ?_⟩
  · fin_cases hu
    · exact ⟨_, _, _, _, 0x7FFE8, stream_generating (record 1) 0 id tok ⟨rfl, rfl⟩, by unfold plainRecord; decide, rfl, rfl, rfl, by decide, rfl, by decide, by decide, by decide,
        idle_banks rfl, by decide⟩
    · exact ⟨_, _, _, _, 0x7FFF8, stream_generating (record 1) 2 id tok ⟨rfl, rfl⟩, by unfold plainRecord; decide, rfl, rfl, rfl, by decide, rfl, by decide, by decide, by decide,
        idle_banks rfl, by decide⟩
  · fin_cases hu
    · exact ⟨_, _, _, _, 0x7FFE8, stream_generating (record 2) 0 id tok ⟨rfl, rfl⟩, by unfold plainRecord; decide, rfl, rfl, rfl, rfl, rfl, rfl, rfl, rfl, by decide, by decide,
        by decide, idle_banks rfl, by decide, rfl⟩
    · exact ⟨_, _, _, _, 0x7FFF8, stream_generating (record 2) 2 id tok ⟨rfl, rfl⟩, by unfold plainRecord; decide, rfl, rfl, rfl, rfl, rfl, rfl, rfl, rfl, by decide, by decide,
        by decide, idle_banks rfl, by decide, rfl⟩
  · fin_cases hb
    · exact ⟨completing 1, _, _, _, 0, rfl, rfl, rfl, rfl, rfl, Nat.le_refl _, by decide, by decide, by decide⟩
    · exact ⟨completing 0, _, _, _, 0, rfl, rfl, rfl, rfl, rfl, Nat.le_refl _, by decide, by decide, by decide⟩
  · exact ⟨completing 0 k, _, _, _, 0, rfl, rfl, rfl, rfl, rfl, Nat.le_refl _, by revert k; decide, by revert k; decide⟩

/-- A token of a sequence walk: one slot. -/
def walkTok : Token := { tag := 0, pay := .v (Vec.build (fun n => if n = 3 then 1 else 0)) }

/-- The reduce unit in arrival mode; the last element of the reduction at the top of the tile. -/
theorem wit_UnitsTakeTokens_reduce : ∃ (s : State) (x : Tile) (m : MTile) (r : Region), Generating s 2 1 x m r ∧ x.iq.get 0 = [tok] ∧ tok.side = .none ∧ tok.log = none ∧
    m.qStop.getLsbD 0 = false ∧ tok.tag = 0 ∧ plainRecord (m.recs.get 1) 5 ∧ (m.recs.get 1).toNat / 16 % 16 = 1 ∧ (m.gens.get 1).walk = none ∧ (m.gens.get 1).tuple ≠ [] ∧
    m.ctrl.toNat / 2 ^ 22 % 4 = 1 ∧ m.ctrl.toNat / 2 ^ 30 % 4 = 0 ∧ x.iqKind.getLsbD 0 = false ∧ (m.gens.get 1).tuple.getD 0 0 < count0 (m.recs.get 1) ∧
    nextPlace (m.recs.get 1) ((m.gens.get 1).tuple.getD 0 0) = (0x7FFF8 : Nat) ∧ banksIdle s m 0x7FFF8 ∧ Memory.wf s.sram = true :=
  ⟨_, _, _, _, stream_generating (BitVec.ofNat 512 (5 + 16 + 0x7FFE8 * 2 ^ 16 + 3 * 2 ^ 72 + 2 ^ 136)) 2 (fun m => { m with ctrl := 2 ^ 22 }) tok ⟨rfl, rfl⟩,
    rfl, rfl, rfl, rfl, rfl, by unfold plainRecord; decide, by decide, rfl, by decide, by decide, by decide, rfl, by decide, by decide, idle_banks rfl, rfl⟩

/-- A memory tile whose generator 1 inserts into the object at 0x7F000, of which the bytes that are not zero are given. -/
def sketching (bs : List Byte) : State :=
  { stream (BitVec.ofNat 512 (6 + 0x7F000 * 2 ^ 16)) 0 with sram := writeBytes [] (sramKey 2 0x7F000) bs }

theorem sketch_generating (bs : List Byte) : Generating (sketching bs) 2 1 (streamTile (BitVec.ofNat 512 (6 + 0x7F000 * 2 ^ 16)) 0)
    (streamMem (BitVec.ofNat 512 (6 + 0x7F000 * 2 ^ 16)) 0) region0 := ⟨rfl, rfl, rfl, rfl, rfl, rfl, Nat.le_refl _⟩

/-- An object of each kind: a sketch of seed 5 (its kind 0xC1, infinities as its least and greatest), one of kind 0xC2, and one of zeros. -/
theorem wit_UnitsTakeTokens_summary : ∀ c ∈ [([0xC1] ++ leBytes 15 0 ++ leBytes 8 5 ++ leBytes 4 0x7F800000 ++ leBytes 4 0xFF800000, SumKind.qs), ([0xC2], .hh), ([], .dc)],
    ∃ (s : State) (x : Tile) (m : MTile) (r : Region), Generating s 2 1 x m r ∧ x.iq.get 0 = [tok] ∧ (m.recs.get 1).toNat % 16 = 6 ∧
      ((m.recs.get 1).extractLsb' 16 56).toNat = 0x7F000 ∧ m.unitBusy ≤ s.cycle ∧ unserved s m ∧ m.qStop.getLsbD 0 = false ∧ sumKind (s.sramBytes 2 0x7F000 4096) = some c.2 ∧
      sumValid (s.sramBytes 2 0x7F000 4096) c.2 = true := by
  intro c hc
  refine ⟨_, _, _, _, sketch_generating c.1, rfl, by decide, by decide, Nat.le_refl _, idle rfl, rfl, ?_⟩
  simp only [List.mem_cons, List.not_mem_nil, or_false] at hc
  rcases hc with h | h | h <;> subst h <;> decide +kernel

/-- A bound record of K = 1 without entries. -/
theorem wit_UnitsTakeTokens_topk : ∃ (s : State) (x : Tile) (m : MTile) (r : Region) (b : TopK), Generating s 2 1 x m r ∧ x.iq.get 0 = [tok] ∧
    (m.recs.get 1).toNat % 16 = 7 ∧ m.tkBusy ≤ s.cycle ∧ unserved s m ∧ m.qStop.getLsbD 0 = false ∧ m.topk = some b ∧ x.iqKind.getLsbD 0 = false ∧ s.tkEntries 2 b.off = (1, []) ∧
    nonCanonical (tok.pay.word.setWidth 40) = false ∧ tok.pay.word.setWidth 40 ≠ nanW :=
  ⟨{ stream (BitVec.ofNat 512 7) 0 (fun m => { m with topk := some ⟨0x7ED00, 0, 0⟩ }) with sram := [(sramKey 2 (0x7ED00 + 512), 1)] },
    streamTile (BitVec.ofNat 512 7) 0 (fun m => { m with topk := some ⟨0x7ED00, 0, 0⟩ }), streamMem (BitVec.ofNat 512 7) 0 (fun m => { m with topk := some ⟨0x7ED00, 0, 0⟩ }),
    region0, ⟨0x7ED00, 0, 0⟩, ⟨rfl, rfl, rfl, rfl, rfl, rfl, Nat.le_refl _⟩, rfl, by decide, Nat.le_refl _, idle rfl, rfl, rfl, rfl, by decide, by decide, by decide⟩

/-- A walk of one slot that begins, and one that ends. -/
theorem wit_UnitsTakeTokens_walk :
    (∃ (s : State) (x : Tile) (m : MTile) (r : Region), Generating s 2 1 x m r ∧ x.iq.get 0 = [walkTok] ∧ (m.recs.get 1).toNat % 16 = 8 ∧ (m.gens.get 1).walk = none ∧
      m.ctrl.toNat / 2 ^ 38 % 4 = 3 ∧ x.opKind.getLsbD 3 = true ∧ (∀ j, j < 5 → (walkTok.pay.vec.lane j).toNat < 2 ^ ([40, 24, 32, 16, 9].getD j 0)) ∧
      (∀ j, 5 ≤ j → j < 16 → walkTok.pay.vec.lane j = 0) ∧ walkTok.pay.vec.lane 3 ≠ 0) ∧
    (∃ (s : State) (x : Tile) (m : MTile) (r : Region) (p : WalkPos), Generating s 2 1 x m r ∧ x.iq.get 0 = [walkTok] ∧ (m.recs.get 1).toNat % 16 = 8 ∧
      (m.gens.get 1).walk = some p ∧ p.pend = [] ∧ (p.lanes.lane 3).toNat ≤ p.slot ∧ (x.op.get 0).length < 2) :=
  ⟨⟨tiles (elemTile id) (memTile (fun _ => streamMem (BitVec.ofNat 512 8) 0 (fun m => { m with ctrl := 3 * 2 ^ 38 }))
      (fun t => { t with iq := t.iq.set 0 [walkTok] (by decide), opKind := 8 })), _, _, _, ⟨rfl, rfl, rfl, rfl, rfl, rfl, Nat.le_refl _⟩, rfl, by decide, rfl, by decide,
      by decide, by decide, by decide, by decide⟩,
    ⟨tiles (elemTile id) (memTile (fun m => { m with
      recs := m.recs.set 1 (BitVec.ofNat 512 8) (by decide)
      gens := m.gens.set 1 { Gen.closed with st := .running, walk := some ⟨walkTok.pay.vec, 1, 1, 0, {}, []⟩ } (by decide) })
      (fun t => { t with iq := t.iq.set 0 [walkTok] (by decide) })), _, _, _, _, ⟨rfl, rfl, rfl, rfl, rfl, rfl, Nat.le_refl _⟩, rfl, by decide, rfl, rfl, by decide, by decide⟩⟩

/-! ## Witnesses: units that serve requests -/

/-- A state with a request of tile 1, whose region has a memory tile at tile 2. -/
def serving (r : Req) (g : State → State := id) : State := g (tiles (elemTile id) (memTile id) (fun s => { s with reqs := [r] }))

theorem waiting_only {s : State} {r : Req} (h : s.reqs = [r]) (hd : r.due ≤ s.cycle) (hf : s.req? r.id = some r) : Waiting s r :=
  ⟨hf, hd, fun o ho _ => by rw [h, List.mem_singleton] at ho; rw [ho]⟩

/-- Every form of request that a memory tile serves: with the granules full and empty, scalar and vector. -/
theorem wit_TileRequestsAreServed :
    (∀ i ∈ [Instr.ldsN .always 3 (.s 4), .sts .always (.i 3) (.s 4) (.s 5), .sinitQs .always (.i 3) 2, .sinitHh .always (.i 3) 2, .sinitDc .always (.i 3) 2,
        .ldsW .always 3 (.s 4), .ldsWc .always 3 (.s 4), .feopSet .always (.i 3) 2, .feopClr .always (.i 3) 2],
      ∃ (s : State) (r : Req) (m : MTile), Waiting s r ∧ r.op = i ∧ r.st = .sent ∧ s.reqTile r = some 2 ∧ s.mem? 2 = some m ∧ unserved s m ∧ m.unitBusy ≤ s.cycle ∧
        (∀ e, s.elem? r.tile = some e → e.mat.gaddr.length ≤ e.mat.garrived) ∧ Memory.wf s.sram = true ∧ SMap.wf false s.full = true ∧ r.y = 1 ∧ r.banked = [] ∧ ∃ g ∈ granules (r.x.toNat % 2 ^ 19) (ldsBytes s r), s.isFull 2 g = false) ∧
    (∃ (s : State) (r : Req) (m : MTile), Waiting s r ∧ r.op = .ldsWc .always 3 (.s 4) ∧ r.st = .waiting ∧ s.reqTile r = some 2 ∧ s.mem? 2 = some m ∧ unserved s m ∧
      (∀ g ∈ granules (r.x.toNat % 2 ^ 19) (ldsBytes s r), s.isFull 2 g = true) ∧ SMap.wf false s.full = true) :=
  ⟨fun i hi => ⟨serving (request i (some 3) 0x80000 1 0), request i (some 3) 0x80000 1 0, MTile.arming, waiting_only rfl (Nat.le_refl _) rfl, rfl, rfl,
      by revert i; decide, rfl, idle rfl, Nat.le_refl _, fun e he => by obtain rfl := Option.some.inj he; decide, rfl, rfl, rfl, rfl, by revert i; decide⟩,
    ⟨serving (request (.ldsWc .always 3 (.s 4)) (some 3) 0x80000 1 0 .waiting) (fun s => { s with full := [(65536, true)] }),
      request (.ldsWc .always 3 (.s 4)) (some 3) 0x80000 1 0 .waiting, MTile.arming, waiting_only rfl (Nat.le_refl _) rfl, rfl, rfl, rfl, rfl, idle rfl, by decide, rfl⟩⟩

/-- An entry of the object table at index 1 in STATE 1 with SCOUNT 1; its table lies at key 0x10000. -/
def table (s : State) : State :=
  { s with regs := { s.regs with objtab := 0x10000, objcnt := 2 }, hbm := writeBytes [] 0x10020 (leBytes 32 (2 ^ 20 + 256 * 2 ^ 64 + 2 ^ 104 + 2 ^ 128)) }

/-- Every handle request by a strong handle of an object, and LDW of its last 8 bytes. -/
theorem wit_HandlesAreServed : ∀ i ∈ [Instr.hdup .always (.i 3) (.s 1), .hrel .always (.i 3) (.s 1), .hupg .always 3 (.s 1) 2, .hprio .always (.i 3) (.s 1) 9,
      .hinfo .always 3 (.s 1), .ldw .always 3 2 1],
    ∃ (s : State) (r : Req) (e : Nat), Waiting s r ∧ r.op = i ∧ r.st = .sent ∧ Memory.wf s.hbm = true ∧ s.objKey 1 + 32 ≤ 2 ^ 40 ∧ Named s 1 e r.x true ∧
      e / 2 ^ 104 % 2 ^ 24 = 1 ∧ r.y.toNat % 8 = 0 ∧ s.vectorQueue r.tile r.q = false ∧ r.y.toNat + ldsBytes s r ≤ e / 2 ^ 64 % 2 ^ 40 := by
  intro i _
  have h : (table (serving (request i (some 3) 0x100000000000001 248 0))).obj 1 = 2 ^ 20 + 256 * 2 ^ 64 + 2 ^ 104 + 2 ^ 128 := by
    rw [show (table (serving (request i (some 3) 0x100000000000001 248 0))).obj 1 = (table State.reset).obj 1 from rfl]
    decide +kernel
  have hv : (table (serving (request i (some 3) 0x100000000000001 248 0))).vectorQueue 1 (some 3) = false := rfl
  refine ⟨table (serving (request i (some 3) 0x100000000000001 248 0)), request i (some 3) 0x100000000000001 248 0, 2 ^ 20 + 256 * 2 ^ 64 + 2 ^ 104 + 2 ^ 128,
    waiting_only rfl (Nat.le_refl _) rfl, rfl, rfl, ?_, (show 0x10000 + 32 * 1 + 32 ≤ 2 ^ 40 from by decide), ⟨⟨by decide, (show 1 < 2 from by decide), by decide⟩, h, by decide, ?_⟩, by decide,
    (show (248 : Word).toNat % 8 = 0 from by decide), hv, ?_⟩
  · exact (show Memory.wf (table State.reset).hbm = true from by decide +kernel)
  · exact (show (0x100000000000001 : Word).toNat = _ from by decide)
  · unfold ldsBytes
    rw [show (request i (some 3) 0x100000000000001 248 0).tile = 1 from rfl, show (request i (some 3) 0x100000000000001 248 0).q = some 3 from rfl, hv]
    exact (show (248 : Word).toNat + 8 ≤ _ from by decide)

/-- A range with a chunk left and one without, of a consumer that has had an empty chunk and of one that has not; a collective slot that is over. -/
theorem wit_ChunksAreGranted :
    (∀ u ∈ [(⟨0, 10, 4, 2, 1, []⟩ : RangeUnit), ⟨10, 10, 4, 2, 1, []⟩, ⟨10, 10, 4, 2, 1, [0]⟩], ∃ (s : State) (r : Req) (g : Region), s.req? r.id = some r ∧
      r.op = .rnext .always 3 1 ∧ r.st = .sent ∧ r.due ≤ s.cycle ∧ s.region? r.region = some g ∧ g.ru = some u ∧ r.q ≠ none) ∧
    (∃ (s : State) (r : Req) (x : Tile) (e : Elem) (c : CSlot), s.req? r.id = some r ∧ s.tile? 1 = some x ∧ x.elem = some e ∧ e.cslot = some c ∧ c.rq = r.id ∧
      c.running = true ∧ c.len ≤ s.cycle - c.start + 1) :=
  ⟨fun u _ => ⟨serving (request (.rnext .always 3 1) (some 3) 0 0 0) (fun s => { s with regions := [(0, { region0 with ru := some u })] }),
      request (.rnext .always 3 1) (some 3) 0 0 0, _, rfl, rfl, rfl, Nat.le_refl _, rfl, rfl, by simp [request]⟩,
    ⟨tiles (elemTile (fun e => { e with cslot := some ⟨5, 3, true, 7, [], [], []⟩ })) (memTile id) (fun s => { s with cycle := 9, reqs := [request (.cslot .always 3 (.s 1)) (some 3) 3 0 0 .waiting] }),
      request (.cslot .always 3 (.s 1)) (some 3) 3 0 0 .waiting, _, _, _, rfl, rfl, rfl, rfl, rfl, rfl, by decide⟩⟩

/-- Two plans of one leaf each, one row and II 1. -/
def twoPlans (lib : Option Nat) : SMap PlanEnt := [(0, ⟨0, 0, true, none, lib, some plan2⟩), (1, ⟨0, 0, true, none, none, some plan2⟩)]

/-- Requests at the Solder unit of die 0. -/
theorem wit_PlansAreServed : ∀ i ∈ [Instr.pcost .always 3 (.s 1), .piface .always 3 1, .pfree .always (.i 3) (.s 1), .pseq .always 3 (.s 1) (.s 2)], ∀ lib ∈ [none, some 1],
    ∃ (s : State) (r : Req) (e : PlanEnt) (p : Plan), s.req? r.id = some r ∧ r.op = i ∧ r.st = .sent ∧ r.due ≤ s.cycle ∧ tileDie r.tile = 0 ∧ (∀ o ∈ s.reqs, o = r) ∧
      s.solderBusy.get 0 ≤ s.cycle ∧ s.planOf r.x = some (0, e, p) ∧ e.lib = lib ∧ s.orderedTask r.task = none ∧ (p.word 0).isSome = true ∧
      ∃ e' p', s.planOf 1 = some (1, e', p') ∧ (compose .pseq p p').toOption.isSome = true := by
  intro i hi lib hl
  exact ⟨serving (request i (some 3) 0 0 0) (fun s => { s with plans := twoPlans lib }), request i (some 3) 0 0 0, ⟨0, 0, true, none, lib, some plan2⟩, plan2, rfl, rfl, rfl, Nat.le_refl _, (show tileDie 1 = 0 from by decide),
    fun o ho => List.mem_singleton.1 ho, Nat.le_refl _, by revert i lib; decide, rfl, rfl, by decide +kernel, ⟨0, 0, true, none, none, some plan2⟩, plan2, by revert i lib; decide, by decide +kernel⟩


/-- Region 0 with a range of 64 KiB at one port: that of the element's row, for a subport of 0. -/
def ranged : Region := { region0 with ports := [(64, [⟨0, 1, 0x40000, true, true, true, false, true, false, 0, 0⟩])] }

/-- The last 8 bytes of that range, or the first 4 of them. -/
theorem ranged_piece (s : State) (pt : Option Nat) (need : Need) {n : Nat} (hn : n = 8 ∨ n = 4) : s.pieces pt (ranged.entries 16 0) 0xFFF8 n n need = .ok [(0x4FFF8, n, none)] := by
  have hb : badPkg 0x4FFF8 = false := by simp [badPkg, keyPkg]
  have ht : s.translate pt (ranged.entries 16 0) 0xFFF8 n n need = .ok 0x4FFF8 none := by
    unfold State.translate
    rw [show (ranged.entries 16 0).find? (fun e => e.hits 0xFFF8) = some ⟨0, 1, 0x40000, true, true, true, false, true, false, 0, 0⟩ from rfl]
    rcases hn with h | h <;> subst h <;> simp [bits, RangeEnt.keyAt, hb] <;> cases need <;> rfl
  unfold State.pieces
  rw [ht]

/-- A request of that region at its port. -/
def porting (r : Req) : State := serving r (fun s => { s with regions := [(0, ranged)] })

/-- One atomic of each kind, by its ordering, size and the reply that it has. -/
def atomics : List (Instr × AtOrd × Nat) :=
  [(.aadd .always (.i 3) 1 (.relaxed .unpaired), .relaxed .unpaired, 8), (.afadd .always (.i 3) 1 (.sync .ar .system), .sync .ar .system, 4),
    (.amin .always (.i 3) 1 (.relaxed .nonOrdering), .relaxed .nonOrdering, 8), (.amax .always (.i 3) 1 (.sync .acq .die), .sync .acq .die, 8),
    (.aand .always .nul 1 (.relaxed .commutative), .relaxed .commutative, 8), (.aor .always (.i 3) 1 (.relaxed .speculative), .relaxed .speculative, 8),
    (.axor .always (.i 3) 1 (.sync .rel .task), .sync .rel .task, 8), (.aswp .always (.i 3) 1 (.relaxed .unpaired), .relaxed .unpaired, 8),
    (.acas .always (.i 3) 1 (.relaxed .unpaired), .relaxed .unpaired, 8)]

/-- LDG, STG of 8 bytes and an atomic of each kind, of an unordered task, with empty caches and a port tile that has given nothing in this cycle. -/
theorem wit_PortsAccessMemory :
    (∃ (s : State) (r : Req) (g : Region), Waiting s r ∧ r.st = .sent ∧ s.region? r.region = some g ∧ r.withheld = none ∧ r.op = .ldg .always 3 (.s 1) ∧ r.pa = none ∧
      (s.portTile (s.portAt (tileDie r.tile) (16 + tileY r.tile / 2))).served ≠ some s.cycle ∧ (∀ l, (s.sameSet (tileDie r.tile) l).length < 15) ∧
      s.pieces (some (s.portAt (tileDie r.tile) (16 + tileY r.tile / 2))) (g.entries (16 + tileY r.tile / 2) 0) r.x.toNat (ldsBytes s r) 8 .rd = .ok [(0x4FFF8, ldsBytes s r, none)]) ∧
    (∃ (s : State) (r : Req) (g : Region), Waiting s r ∧ r.st = .sent ∧ s.region? r.region = some g ∧ r.withheld = none ∧ r.op = .stg .always (.i 3) (.s 1) (.s 2) ∧
      (s.portTile (s.portAt (tileDie r.tile) (16 + tileY r.tile / 2))).served ≠ some s.cycle ∧ (∀ l, (s.sameSet (tileDie r.tile) l).length < 15) ∧
      r.pa = none ∧ s.orderedTask r.task = none ∧ s.pend = [] ∧ r.pay.bytes.length = 8 ∧ onePackage 0x4FFF8 8 ∧ isIo 0x4FFF8 = false ∧ nothingCommitted s ∧ Memory.wf s.hbm = true ∧
      s.pieces (some (s.portAt (tileDie r.tile) (16 + tileY r.tile / 2))) (g.entries (16 + tileY r.tile / 2) 0) r.x.toNat r.pay.bytes.length 8 .wr = .ok [(0x4FFF8, 8, none)]) ∧
    (∀ i ∈ atomics, ∃ (s : State) (r : Req) (g : Region), Waiting s r ∧ r.st = .sent ∧ s.region? r.region = some g ∧ r.withheld = none ∧ r.op = i.1 ∧ atOrd r.op = some i.2.1 ∧
      (s.portTile (s.portAt (tileDie r.tile) (16 + tileY r.tile / 2))).served ≠ some s.cycle ∧ r.pa = none ∧ s.orderedTask r.task = none ∧ (accessOf s r).1 = i.2.2 ∧
      s.pieces (some (s.portAt (tileDie r.tile) (16 + tileY r.tile / 2))) (g.entries (16 + tileY r.tile / 2) 0) r.x.toNat i.2.2 i.2.2 .atom = .ok [(0x4FFF8, i.2.2, none)] ∧
      noPath 0x4FFF8 i.2.1 = false) ∧
    (∀ i ∈ atomics, ∃ (s : State) (r : Req) (g : Region), Waiting s r ∧ r.st = .sent ∧ s.region? r.region = some g ∧ r.withheld = none ∧ r.op = i.1 ∧ atOrd r.op = some i.2.1 ∧
      i.2.1 ≠ .relaxed .quantum ∧ r.pa = some 0x40000 ∧ s.orderedTask r.task = none ∧ s.lines = [] ∧ Memory.wf s.hbm = true ∧ onePackage 0x40000 i.2.2) := by
  have sv : ((porting (request (.rnext .always 3 1) none 0 0 0)).portTile ((porting (request (.rnext .always 3 1) none 0 0 0)).portAt (tileDie 1) (16 + tileY 1 / 2))).served ≠ some 0 := by decide
  refine ⟨⟨porting (request (.ldg .always 3 (.s 1)) (some 3) 0xFFF8 0 0), request (.ldg .always 3 (.s 1)) (some 3) 0xFFF8 0 0, ranged, waiting_only rfl (Nat.le_refl _) rfl, rfl,
      rfl, rfl, rfl, rfl, sv, fun l => Nat.zero_lt_succ _, ranged_piece _ _ _ (Or.inl rfl)⟩,
    ⟨porting (request (.stg .always (.i 3) (.s 1) (.s 2)) (some 3) 0xFFF8 0 0), request (.stg .always (.i 3) (.s 1) (.s 2)) (some 3) 0xFFF8 0 0, ranged,
      waiting_only rfl (Nat.le_refl _) rfl, rfl, rfl, rfl, rfl, sv, fun l => Nat.zero_lt_succ _, rfl, rfl, rfl, by decide, by unfold onePackage; decide, by decide,
      fun e he => (List.not_mem_nil he).elim, rfl, ranged_piece _ _ _ (Or.inl rfl)⟩, fun i hi => ?_, fun i hi => ?_⟩
  · simp only [atomics, List.mem_cons, List.not_mem_nil, or_false] at hi
    rcases hi with h | h | h | h | h | h | h | h | h <;> subst h <;>
      exact ⟨porting (request _ (some 3) 0xFFF8 0 0), request _ (some 3) 0xFFF8 0 0, ranged, waiting_only rfl (Nat.le_refl _) rfl, rfl, rfl, rfl, rfl, rfl, sv, rfl, rfl, rfl,
        ranged_piece _ _ _ (by decide), by decide⟩
  · have h : atOrd i.1 = some i.2.1 ∧ i.2.1 ≠ .relaxed .quantum ∧ onePackage 0x40000 i.2.2 := by
      simp only [atomics, List.mem_cons, List.not_mem_nil, or_false] at hi
      rcases hi with h | h | h | h | h | h | h | h | h <;> subst h <;> exact ⟨rfl, by decide, by unfold onePackage; decide⟩
    exact ⟨porting { request i.1 (some 3) 0 0 0 with pa := some 0x40000 }, { request i.1 (some 3) 0 0 0 with pa := some 0x40000 }, ranged, waiting_only rfl (Nat.le_refl _) rfl, rfl,
      rfl, rfl, rfl, h.1, h.2.1, rfl, rfl, rfl, rfl, h.2.2⟩

/-! ## Witnesses: pages, transfers, the end of regions and tasks -/

/-- A page table of two pages at key 0x1000, reached by a range of region 0, with the migration record of its first page behind it; a copy of that page is under way
for region 0, or nothing is. -/
def paging (e m : Nat) (l : List Fetch) : State :=
  withRegion (fun r => { r with ports := [(0, [pagedEnt])] }) (fun s => { s with fetches := l, time := 10 ^ 17, hbm := words [(0x1000, e), (0x1018, m)] })

theorem paging_words (l : List Fetch) : ∀ e ∈ [0, 1, 2, 3, 5, 1 + 2 ^ 40], ∀ m ∈ [0, 2 ^ 13, 2 ^ 12 + 2 ^ 13],
    (paging e m l).homeWord 0x1000 8 = e ∧ (paging e m l).homeWord 0x1018 8 = m ∧ Memory.wf (paging e m l).hbm = true := by
  intro e he m hm
  have h : (paging e m []).homeWord 0x1000 8 = e ∧ (paging e m []).homeWord 0x1018 8 = m ∧ Memory.wf (paging e m []).hbm = true := by
    revert e m
    decide
  exact h

/-- A page that lies in another package than this one, and this package's number as the place it moves to. -/
theorem moves_here : ∃ e ∈ [1, 1 + 2 ^ 40], ∃ dest, dest % 2 ^ 35 / 2 ^ 25 = Config.ownPackage ∧ dest % 2 ^ 35 / 2 ^ 25 ≠ keyPkg (domKey (e / 2 ^ 15 % 2 ^ 35 * 32768)) := by
  have b := Config.ownPackage_lt
  have hd : (Config.ownPackage * 2 ^ 25) % 2 ^ 35 / 2 ^ 25 = Config.ownPackage := by omega
  by_cases h : Config.ownPackage = 0
  · refine ⟨1 + 2 ^ 40, by decide, Config.ownPackage * 2 ^ 25, hd, ?_⟩
    rw [hd, show (1 + 2 ^ 40) / 2 ^ 15 % 2 ^ 35 * 32768 = 2 ^ 40 from rfl, h]
    unfold domKey keyPkg
    rw [h]
    decide
  · refine ⟨1, by decide, Config.ownPackage * 2 ^ 25, hd, ?_⟩
    rw [hd, show 1 / 2 ^ 15 % 2 ^ 35 * 32768 = 0 from rfl]
    unfold domKey keyPkg
    rw [show (0 : Nat) / 2 ^ 40 = 0 from rfl, if_neg (Ne.symm h)]
    exact h

/-- A fetch that is over, late or neither; a page that is clean, dirty or absent; one that may be migrated, one that is pinned or whose record forbids the move. -/
theorem wit_PagesMove :
    (∀ since ∈ [0, 10 ^ 17], ∃ (s : State) (x : Fetch) (r : Region), Memory.wf s.hbm = true ∧ Memory.wf s.flash = true ∧ s.fetches.find? (fun y => y.id == x.id) = some x ∧
      s.homeWord x.pte 8 % 2 = 0 ∧ s.homeWord x.pte 8 / 2 % 2 = 1 ∧ onePackage x.pte 8 ∧ s.region? x.region = some r ∧ r.num = x.region ∧ r.ended = false ∧
      (∀ n, n ≠ x.region → s.region? n = none) ∧ (x.since + 1000000 * aMicrosecond ≤ s.time ↔ since = 0)) ∧
    (∀ e ∈ [0, 1, 3], ∃ (s : State) (pte : Nat), Memory.wf s.hbm = true ∧ Memory.wf s.flash = true ∧ s.lines = [] ∧ s.pend = [] ∧ onePackage pte 8 ∧ s.homeWord pte 8 = e) ∧
    (∀ e ∈ [0, 1], ∀ m ∈ [0, 2 ^ 13, 2 ^ 12 + 2 ^ 13], ∃ (s : State) (pte tb j pages : Nat), Memory.wf s.hbm = true ∧ Memory.wf s.flash = true ∧ s.lines = [] ∧
      s.tableOf pte = some (tb, j, pages) ∧ onePackage pte 8 ∧ onePackage (tb + 12 * pages + 8 * j) 8 ∧ s.homeWord pte 8 = e ∧ s.homeWord (tb + 12 * pages + 8 * j) 8 = m ∧
      m / 2 ^ 14 % 2 ^ 32 = s.epoch.toNat) ∧
    (∃ (s : State) (pte mig dest tb j pages : Nat), Memory.wf s.hbm = true ∧ Memory.wf s.flash = true ∧ s.lines = [] ∧ s.tableOf pte = some (tb, j, pages) ∧
      onePackage pte 8 ∧ onePackage mig 8 ∧ mig = tb + 12 * pages + 8 * j ∧ s.homeWord pte 8 % 2 = 1 ∧ s.homeWord mig 8 / 2 ^ 13 % 2 = 1 ∧
      s.homeWord mig 8 / 2 ^ 12 % 2 = 0 ∧ dest % 2 ^ 35 / 2 ^ 25 ≠ keyPkg (domKey (s.homeWord pte 8 / 2 ^ 15 % 2 ^ 35 * 32768)) ∧
      dest % 2 ^ 35 / 2 ^ 25 = Config.ownPackage ∧ outside (memKey mig) 8 (memKey pte) ∧ outside (memKey pte) 8 (memKey mig)) := by
  have one : onePackage 0x1000 8 ∧ onePackage 0x1018 8 := by unfold onePackage; decide
  refine ⟨fun n hn => ?_, fun e he => ?_, fun e he m hm => ?_, ?_⟩
  · obtain ⟨h, -, w⟩ := paging_words [⟨1, 0x1000, 0x1000, 0, 2, 0, 0, n⟩] 2 (by decide) 0 (by decide)
    refine ⟨paging 2 0 [⟨1, 0x1000, 0x1000, 0, 2, 0, 0, n⟩], ⟨1, 0x1000, 0x1000, 0, 2, 0, 0, n⟩, _, w, rfl, rfl, by rw [h], by rw [h], one.1, rfl, rfl, rfl, fun k hk => ?_, ?_⟩
    · simp [State.region?, paging, withRegion, SMap.find?, Ne.symm hk]
    · revert n
      decide
  · obtain ⟨h, -, w⟩ := paging_words [] e (by revert e; decide) 0 (by decide)
    exact ⟨paging e 0 [], 0x1000, w, rfl, rfl, rfl, one.1, h⟩
  · obtain ⟨h, h', w⟩ := paging_words [] e (by revert e; decide) m hm
    exact ⟨paging e m [], 0x1000, 0x1000, 0, 2, w, rfl, rfl, rfl, one.1, one.2, h, h', by clear h h' w; revert m; revert e; decide⟩
  · obtain ⟨e, he, dest, hd, hk⟩ := moves_here
    obtain ⟨h, h', w⟩ := paging_words [] e (by clear hk; revert e; decide) (2 ^ 13) (by decide)
    refine ⟨paging e (2 ^ 13) [], 0x1000, 0x1018, dest, 0x1000, 0, 2, w, rfl, rfl, rfl, one.1, one.2, rfl, ?_, by rw [h']; decide, by rw [h']; decide, by rw [h]; exact hk, hd,
      by unfold outside; decide, by unfold outside; decide⟩
    rw [h]
    clear h h' w hk
    revert e
    decide

/-- A transfer of region 0, or a COPY of packet 1, changed: one granule of global memory to a memory tile. -/
def moving (f : Transfer → Transfer := id) : Transfer := f ⟨9, 1, 0, 0, 0, 0, 0, [16 * 256, 0x40000, 2 ^ 63 + 2 ^ 19, 2 ^ 12], true, false, 0, 0, {}, 0, 0, none, none⟩

/-- A state with that transfer. -/
def transferring (x : Transfer) (g : State → State := id) : State :=
  g (withRegion (fun r => { r with plan := plan2 }) (fun s => { s with transfers := [x], packets := [packet []] }))

/-- The token of an XREQ at port 0 of tile 1, with `n` requests on the path to the unit of its row. -/
def xferring (n : Nat) : State :=
  tiles (elemTile id (fun t => { t with op := t.op.set 0 [.full { tok with side := .xreq 0 0 } none 0] (by decide) })) (memTile id)
    (fun s => { s with transfers := List.replicate n (moving (fun x => { x with port := 16 })) })

/-- The token of an XREQ that leaves for a path with room, and one whose path is full; a COPY that enters a unit with room; a sound transfer to a memory tile and one whose KIND is reserved; both
granules of a COPY in each direction; a channel with its arrivals. -/
theorem wit_TransfersMove :
    (∀ full ∈ [false, true], ∃ (s : State) (y : Tile) (e : Elem) (k : Token), s.tile? 1 = some y ∧ y.elem = some e ∧ y.op.get 0 = [.full k none 0] ∧ k.side = .xreq 0 0 ∧
      k.log = none ∧ (Config.pathRoom < (s.transfers.filter (fun x => decide (x.accepted = false ∧ x.die = tileDie 1 ∧ x.port = 16 + tileY 1 / 2))).length ↔ full = true)) ∧
    (∃ (s : State) (x : Transfer), s.transfers.find? (fun y => y.id == x.id) = some x ∧ x.due ≤ s.cycle ∧ x.accepted = false ∧
      (s.transfers.filter (fun y => y.accepted && y.die == x.die && y.port == x.port)).length < 16 ∧ x.isCopy = some 1) ∧
    (∀ w ∈ [0x1000, 0x1005], ∃ (s : State) (x : Transfer) (r : Region), s.transfers.find? (fun y => y.id == x.id) = some x ∧ x.due ≤ s.cycle ∧ x.accepted = false ∧
      (s.transfers.filter (fun y => y.accepted && y.die == x.die && y.port == x.port)).length < 16 ∧ x.isCopy = none ∧ s.region? x.region = some r ∧ r.num = x.region ∧
      r.phase = .armed ∧ r.save = none ∧ r.placed = true ∧ SMap.wf false s.full = true ∧ (x.bad = 0 ↔ w = 0x1000) ∧ 0 < x.total ∧ x.word 2 / 2 ^ 63 % 2 = 1 ∧
      (w = 0x1000 → ∃ a, x.spots r 0 = .ok (a, .tile 2 0))) ∧
    (∀ n ∈ [0, 1], ∀ w ∈ [([64, 128, 32] : List Word), [128, 64, 32]], ∃ (s : State) (x : Transfer), s.transfers.find? (fun y => y.id == x.id) = some x ∧ x.due ≤ s.cycle ∧
      x.accepted = true ∧ x.isCopy = some 1 ∧ x.donePos = n ∧ x.words = w ∧ x.donePos < x.word 2 / 16 ∧ Memory.wf s.hbm = true ∧ (s.portTile (x.die * 32 + x.port)).served ≠ some s.cycle ∧
      ∀ q ∈ [0, 1], onePackage (domKey (x.word 1) + 16 * q) 16) ∧
    (∃ (s : State) (r : Region) (ch : Nat) (c : Chan) (y : Tile), s.region? r.num = some r ∧ SMap.find? r.chans ch = some c ∧ ch % 4096 ≠ 0 ∧ r.phase = .armed ∧ 0 < c.p ∧
      c.p ≤ c.a ∧ s.tile? (r.base + c.tile) = some y ∧ (y.iq.get c.q).length < 4) :=
  ⟨fun full _ => ⟨xferring (if full then Config.pathRoom + 1 else 0), elemTile id (fun t => { t with op := t.op.set 0 [.full { tok with side := .xreq 0 0 } none 0] (by decide) }), _,
      { tok with side := .xreq 0 0 }, rfl, rfl, rfl, rfl, rfl, by
        show Config.pathRoom < ((List.replicate (if full then Config.pathRoom + 1 else 0) (moving (fun x => { x with port := 16 }))).filter _).length ↔ _
        rw [List.filter_replicate_of_pos (by decide), List.length_replicate]
        cases full <;> simp⟩,
    ⟨transferring (moving (fun x => { x with isCopy := some 1 })), moving (fun x => { x with isCopy := some 1 }), rfl, Nat.le_refl _, rfl, by decide, rfl⟩,
    fun w hw => ⟨transferring (moving (fun x => { x with words := [BitVec.ofNat 64 w, 0x40000, 2 ^ 63 + 2 ^ 19, 2 ^ 12] })),
      moving (fun x => { x with words := [BitVec.ofNat 64 w, 0x40000, 2 ^ 63 + 2 ^ 19, 2 ^ 12] }), { region0 with plan := plan2 }, rfl, Nat.le_refl _, rfl, by revert w; decide, rfl, rfl, rfl, rfl, rfl, rfl, rfl,
      by revert w; decide, by revert w; decide, by revert w; decide, fun h => by subst h; exact ⟨.va 0x40000, by decide⟩⟩,
    fun n hn w hw => ⟨transferring (moving (fun x => { x with accepted := true, isCopy := some 1, donePos := n, words := w })),
      moving (fun x => { x with accepted := true, isCopy := some 1, donePos := n, words := w }), rfl, Nat.le_refl _, rfl, rfl, rfl, rfl, by revert w; revert n; decide, rfl, (by decide : (none : Option Nat) ≠ some 0),
      fun q hq => by
        have h : ∀ a, (a = 64 ∨ a = 128) → onePackage (domKey a + 16 * q) 16 := by
          intro a ha
          have h2 : q ≤ 1 := by simp only [List.mem_cons, List.not_mem_nil, or_false] at hq; omega
          unfold onePackage domKey
          split <;> omega
        simp only [List.mem_cons, List.not_mem_nil, or_false] at hw
        rcases hw with hw | hw <;> subst hw
        · exact h _ (Or.inr rfl)
        · exact h _ (Or.inl rfl)⟩,
    ⟨{ State.reset with regions := [(0, { region0 with chans := [(5, ⟨0, 2, 3, 4, {}⟩)] })], tiles := [(1, elemTile id)] }, { region0 with chans := [(5, ⟨0, 2, 3, 4, {}⟩)] }, 5, ⟨0, 2, 3, 4, {}⟩,
      elemTile id, rfl, rfl, by decide, rfl, by decide, by decide, rfl, by decide⟩⟩

/-- A context of an element that owns an enabled TCOMMIT slot and is held. -/
def committing (e : Elem) : Elem := inCtx (fun c => { c with st := .armed, held := true }) { e with slots := e.slots.set 0 0xE3281800 (by decide) }

/-- Region 0, changed, on an element whose context 0 has halted and a memory tile whose generators have closed, with the packet that launched it. -/
def ending (r : Region) : State :=
  tiles (elemTile (inCtx (fun c => { c with st := .halted }))) (memTile id) (fun s => { s with
    regions := [(0, r)], launches := [launch1 (fun l => { l with id := 0 })], packets := [packet []], tasks := [task3] })

/-- An element of a stopped region, at whose boundary it stands. -/
def stood (e : Elem) : Elem := { e with haltAt := some 0 }

/-- A stopped region whose elements have halted, with the packet that launched it; one that begins to retire while a load is under way; one whose contexts have halted or whose completion port has
seen the end of a pass and nothing of which is under way, ordered or not, with its packet; a round of an unordered task; an ordered task with two pending bytes. -/
theorem wit_RegionsAndTasksEnd :
    (∃ (s : State) (r : Region) (l : Launch) (k : Packet), SMap.rising none s.regions = true ∧ s.region? 0 = some r ∧ r.num = 0 ∧ r.phase = .stopped ∧ (∀ q ∈ s.reqs, q.region ≠ 0) ∧
      (∀ x ∈ s.transfers, x.region ≠ 0) ∧ (∀ d, (s.engines.get d).now = none) ∧ (∀ z ∈ s.tiles, r.holds z.1 = true → ∀ e, z.2.elem = some e → stoodStill s e) ∧
      (∃ z ∈ s.tiles, r.holds z.1 = true ∧ z.2.elem ≠ none) ∧ s.launches.find? (fun l => l.id == r.launch) = some l ∧ l.pkt = some 1 ∧ s.packet? 1 = some k) ∧
    (∀ b ∈ [false, true], ∀ o ∈ [false, true], ∃ (s : State) (r : Region) (l : Launch) (k : Packet) (x : Task), SMap.rising none s.regions = true ∧ s.region? 0 = some r ∧ r.num = 0 ∧
      r.phase = .armed ∧ r.compSeen = b ∧ (b = true ∨ (r.lastTurn = true ∧ s.ctxsOf r (fun _ => true) ≠ [] ∧ ∀ c ∈ s.ctxsOf r (fun _ => true), c.over = true)) ∧
      (∀ q ∈ s.reqs, q.region ≠ 0) ∧ (∀ x ∈ s.transfers, x.region ≠ 0) ∧ (∀ l ∈ s.launches, l.parent ≠ some 0) ∧ (∀ z ∈ s.tiles, r.holds z.1 = true → allDone z.2) ∧
      r.hdr.ordered = o ∧ s.task? r.task = some x ∧ s.launches.find? (fun l => l.id == r.launch) = some l ∧ l.pkt = some 1 ∧ s.packet? 1 = some k) ∧
    (∀ b ∈ [false, true], ∃ (s : State) (r : Region), SMap.rising none s.regions = true ∧ s.region? 0 = some r ∧ r.num = 0 ∧ r.phase = .armed ∧ r.compSeen = b ∧
      (b = true ∨ (r.lastTurn = true ∧ ∀ c ∈ s.ctxsOf r (fun _ => true), c.over = true)) ∧ ∃ q ∈ s.reqs, q.region = 0 ∧ isAccess q.op = true ∧ (q.st = .sent ∨ q.st = .waiting)) ∧
    (∃ (s : State) (r : Region) (x : Task), SMap.rising none s.regions = true ∧ s.region? 0 = some r ∧ r.num = 0 ∧ r.phase = .armed ∧ s.task? r.task = some x ∧
      r.hdr.ordered = false ∧ s.dbg.dbgArm = false ∧ s.roundDone r = true ∧ ∀ y ∈ s.tasks, y.id < s.nextId) ∧
    (∃ (s : State) (x : Task), SMap.rising none s.regions = true ∧ s.tasks = [x] ∧ x.ordered = true ∧ x.complete = true ∧ x.atomics = [] ∧ x.frees = [] ∧ x.rels = [] ∧
      x.region.bind s.region? = none ∧ Memory.wf s.hbm = true ∧ nothingCommitted s ∧ s.pend.length = 2 ∧ x.key ≠ none ∧
      (∀ p ∈ s.pend, p.task = x.id ∧ p.die = 0 ∧ p.sec * 64 + 64 ≤ 2 ^ 51 ∧ isIo (p.sec * 64) = false ∧ SMap.find? s.lines (0 * 2 ^ 44 + p.sec / 4) ≠ none) ∧
      (∀ p ∈ s.pend, ∀ q ∈ s.pend, p.sec = q.sec → p = q) ∧ s.pend.Nodup) := by
  refine ⟨⟨tiles (elemTile stood) (memTile id) (fun s => { s with regions := [(0, { region0 with phase := .stopped })], launches := [launch1 (fun l => { l with id := 0 })], packets := [packet []] }),
      _, _, _, rfl, rfl, rfl, rfl, fun _ h => (List.not_mem_nil h).elim, fun _ h => (List.not_mem_nil h).elim, by decide, ?_, ?_, rfl, rfl, rfl⟩, fun b hb o ho => ?_, fun b _ => ?_, ?_, ?_⟩
  · intro z hz _ e he
    rcases List.mem_cons.1 hz with rfl | hz
    · cases he
      exact ⟨⟨0, rfl, by decide⟩, rfl, rfl, rfl⟩
    · rcases List.mem_cons.1 hz with rfl | hz
      · cases he
      · cases hz
  · exact ⟨_, List.mem_cons_self, rfl, nofun⟩
  · refine ⟨ending { region0 with compSeen := b, task := 3, hdr := { LHeader.zero with ordered := o } }, { region0 with compSeen := b, task := 3, hdr := { LHeader.zero with ordered := o } }, _, _, task3, rfl, rfl,
      rfl, rfl, rfl, Or.inr ⟨rfl, ?_, ?_⟩, fun _ h => (List.not_mem_nil h).elim, fun _ h => (List.not_mem_nil h).elim, by clear hb ho; revert b o; decide, ?_, rfl, rfl, rfl, rfl, rfl⟩
    · revert b o
      decide
    · revert b o
      decide
    · intro z hz _
      rcases List.mem_cons.1 hz with rfl | hz
      · exact ⟨by decide, nofun, fun e he => by cases he; exact ⟨rfl, rfl⟩⟩
      · rcases List.mem_cons.1 hz with rfl | hz
        · exact ⟨by decide, fun m g hm => (by cases hm; revert g; decide), nofun⟩
        · cases hz
  · exact ⟨{ ending { region0 with compSeen := b } with reqs := [request (.ldg .always 3 (.s 1)) (some 3) 0 0 0 .sent] }, { region0 with compSeen := b }, rfl, rfl, rfl, rfl, rfl,
      Or.inr ⟨rfl, by clear * -; revert b; decide⟩, _, List.mem_cons_self, rfl, rfl, Or.inl rfl⟩
  · exact ⟨tiles (elemTile committing) (memTile id) (fun s => { s with regions := [(0, { region0 with task := 3 })], tasks := [task3], nextId := 4 }), { region0 with task := 3 }, task3, rfl, rfl, rfl,
      rfl, rfl, rfl, rfl, by decide, by decide⟩
  · exact ⟨{ State.reset with
        tasks := [task3 (fun k => { k with ordered := true, complete := true, region := none, key := some (2, 1) })]
        lines := [(16, ⟨quad Sector.empty, 0⟩)]
        pend := [⟨3, 0, 64, 1, 7⟩, ⟨3, 0, 65, 2, 7⟩] }, _, rfl, rfl, rfl, rfl, rfl, rfl, rfl, rfl, rfl, by unfold nothingCommitted; decide, rfl, (nofun : some (2, 1) ≠ none), by decide, by decide, by decide⟩

/-! ## Witnesses: objects, collectives -/

/-- The entry of an object of 256 bytes in STATE `st` with GEN `gen` and no strong handle, and a state with it. -/
def objEntry (st gen : Nat) : Nat := 2 ^ 20 + 256 * 2 ^ 64 + st * 2 ^ 128 + gen * 2 ^ 144
def oneObject (st gen : Nat) (f : State → State) : State :=
  f { State.reset with regs := { State.reset.regs with objtab := 0x10000, objcnt := 2, pwsize := 0x1000 }, hbm := writeBytes [] 0x10020 (leBytes 32 (objEntry st gen)) }

/-- Reclaim with bytes enough, without a victim, and with one, for bytes or for an allocation that lacks something else; a dying object whose GEN is the last and one whose GEN is not, and one that a
weak read has passed; a trace ring, and none. -/
theorem wit_ObjectsAreDestroyed :
    (∃ s : State, s.reclaiming = true ∧ s.dying = none ∧ s.short = false ∧ s.regs.pwhigh.toNat ≤ s.freeBytes) ∧
    (∃ s : State, s.reclaiming = true ∧ s.dying = none ∧ s.short = true ∧ s.victims = []) ∧
    (∀ b ∈ [false, true], ∃ (s : State) (i e : Nat) (rest : List (Nat × Nat)), s.reclaiming = true ∧ s.dying = none ∧ s.short = b ∧
      (s.short = true ∨ s.freeBytes < s.regs.pwhigh.toNat) ∧ s.victims = (i, e) :: rest ∧ Memory.wf s.hbm = true ∧ s.objKey i + 32 ≤ 2 ^ 40) ∧
    (∀ g ∈ [7, 2 ^ 16 - 1], ∃ (s : State) (i : Nat), s.dying = some i ∧ s.weakOut i = false ∧ s.obj i / 2 ^ 128 % 4 = 2 ∧ s.obj i / 2 ^ 144 % 2 ^ 16 = g ∧ Memory.wf s.hbm = true ∧
      s.objKey i + 32 ≤ 2 ^ 40) ∧
    (∃ (s : State) (i : Nat), s.dying = some i ∧ s.weakOut i = true) ∧
    (∃ s : State, s.dbg.trbase = 0) ∧
    (∃ s : State, s.dbg.trbase ≠ 0 ∧ s.dbg.trhead.toNat < s.dbg.trtail.toNat + 2 ^ s.dbg.trsize.toNat ∧ Memory.wf s.hbm = true) :=
  ⟨⟨{ State.reset with reclaiming := true, regs := { State.reset.regs with pwsize := 2 ^ 33 } }, rfl, rfl, rfl, by decide⟩,
    ⟨{ State.reset with reclaiming := true, short := true }, rfl, rfl, rfl, by decide⟩,
    fun b _ => ⟨oneObject 1 0 (fun s => { s with reclaiming := true, short := b }), 1, objEntry 1 0, [], rfl, rfl, rfl, Or.inr (by revert b; decide +kernel), by revert b; decide +kernel,
      by revert b; decide +kernel, by revert b; decide +kernel⟩,
    fun g hg => ⟨oneObject 2 g (fun s => { s with dying := some 1 }), 1, rfl, by revert g; decide +kernel, by revert g; decide +kernel, by revert g; decide +kernel, by revert g; decide +kernel,
      by revert g; decide +kernel⟩,
    ⟨{ State.reset with dying := some 1, reqs := [{ request (.ldw .always 3 1 1) (some 3) 1 0 0 with st := .done ⟨.s 7, false, none, {}⟩ }] }, 1, rfl, by decide⟩,
    ⟨State.reset, rfl⟩, ⟨{ State.reset with dbg := { State.reset.dbg with trbase := 0x1000, trhead := 15 } }, by decide⟩⟩

/-- A chunk of TAG 9 under an operation, of no contributor. -/
def redChunk (op : Fin 16 := 1) (dest : Nat := 0x4000) (senders : List (Nat × Nat) := []) : Chunk := ⟨9, BitVec.ofNat 50 dest, 0, op, 0, 0, 0, List.replicate 1024 0, [], senders⟩

/-- A posted entry of one chunk of FP32 for communicator 5 under an operation, at a LOCAL; an entry that has sent its chunk. -/
def posted (op : Nat := 1) (loc : Nat := 0x4000) : TEntry := { TEntry.idle (BitVec.ofNat 512 (5 + op * 2 ^ 6 + 2 ^ 14 + 2 ^ 17 + loc * 2 ^ 64)) 0 with rq := some 5 }
def sent : TEntry := { TEntry.idle (BitVec.ofNat 512 (5 + 2 ^ 17)) 0 with rq := some 5, accepted := 1 }

/-- Communicator 5 of TAG 9 with a limit on switches, entries at 0 and 1, the request that waits for them. -/
def colls (g : State → State := id) (x : TEntry := posted) (limit : Nat := 100) : State :=
  g (withRegion id (fun s => { s with
    comms := [(5, ⟨9, 0, true, 2, 0, limit, [0], []⟩)]
    tables := [(0, x), (1, sent)]
    reqs := [request (.crdy .always 3 (.s 1)) (some 3) 0 0 0 .waiting] }))

/-- Work that waits at the engine of die 0, and work in service there whose last cycle this is. -/
def atEngine (w : EngWork) (s : State) : State := { s with reqs := [], engines := s.engines.set 0 { s.engines.get 0 with queue := [(5, w)] } (by decide) }
def inService (w : EngWork) (s : State) : State := { s with reqs := [], engines := s.engines.set 0 { s.engines.get 0 with now := some (5, w), busy := s.cycle + 1 } (by decide) }

/-- A chunk that this package receives, at an offset of the memory that is its own. -/
def ownChunk (senders : List (Nat × Nat) := []) : Chunk := redChunk 1 (Config.ownPackage * 2 ^ 40 + 0x4000) senders

theorem ownChunk_here (l : List (Nat × Nat)) : (ownChunk l).dest.toNat = Config.ownPackage * 2 ^ 40 + 0x4000 ∧ (ownChunk l).dest.toNat / 2 ^ 40 = Config.ownPackage := by
  have b := Config.ownPackage_lt
  have h0 : (ownChunk l).dest = BitVec.ofNat 50 (Config.ownPackage * 2 ^ 40 + 0x4000) := rfl
  rw [h0, BitVec.toNat_ofNat]
  omega

/-- The entry posted for it. -/
def ownEntry : TEntry := posted 1 (Config.ownPackage * 2 ^ 40 + 0x4000)

theorem posted_fields (loc : Nat) (h : loc < 2 ^ 50) :
    (posted 1 loc).recv = true ∧ (posted 1 loc).comm = 5 ∧ (posted 1 loc).nchunk = 1 ∧ (posted 1 loc).local' = loc := by
  have w : (posted 1 loc).word.toNat = 147525 + loc * 2 ^ 64 := by
    unfold posted TEntry.idle
    rw [BitVec.toNat_ofNat, Nat.mod_eq_of_lt (Nat.lt_of_lt_of_le (by omega) (Nat.pow_le_pow_right (n := 2) (i := 115) (by decide) (by decide)))]
    omega
  unfold TEntry.recv TEntry.comm TEntry.nchunk TEntry.local' BitVec.getLsbD bits
  rw [w, Nat.testBit_eq_decide_div_mod_eq]
  exact ⟨decide_eq_true (by omega), by omega, by omega, by omega⟩

theorem entry_takes (x : TEntry) (c : Chunk) (h1 : x.recv = true) (h2 : x.comm = 5) (h3 : x.nchunk = 1) (h4 : x.local' = c.dest.toNat) (h5 : c.index = 0) (h6 : x.rq = some 5)
    (h7 : x.region = 0) : (colls id x).entryFor 5 c = some 0 := by
  have he : ((colls id x).entry? 0).isSome = true := by
    unfold State.entry?
    rw [show SMap.find? (colls id x).tables 0 = some x from rfl]
    simp only [h7]
    rfl
  unfold State.entryFor
  rw [show (colls id x).tables = [(0, x), (1, sent)] from rfl, List.find?_cons_of_pos (by simp [h1, h2, h3, h4, h5, h6, he])]
  rfl

theorem ownEntry_takes (l : List (Nat × Nat)) : (colls id ownEntry).entryFor 5 (ownChunk l) = some 0 := by
  have hl : Config.ownPackage * 2 ^ 40 + 0x4000 < 2 ^ 50 := by
    have b := Config.ownPackage_lt
    generalize Config.ownPackage = n at b ⊢
    omega
  obtain ⟨h1, h2, h3, h4⟩ := posted_fields _ hl
  exact entry_takes _ _ h1 h2 h3 (h4.trans (ownChunk_here l).1.symm) rfl rfl rfl

/-- Work to send and to take under OP 0 waits; a chunk to combine under OP 1; a chunk to send, and one of OP 0 to write, in service; a chunk of a TAG that nothing has loaded, one with no posted
entry while the pool has room and while it is full, and one with its entry; a chunk for another package; one set aside, whose time has come and has not; the first and the second chunk at
a switch, and one of OP 0; an entry that has sent all its chunks; a switch slot before its limit and at it. -/
theorem wit_CollectivesAct :
    (∀ b ∈ [false, true], ∃ (s : State) (c : Nat) (w : EngWork), s.reqs = [] ∧ (s.engines.get 0).now = none ∧ (s.engines.get 0).busy ≤ s.cycle ∧ (s.engines.get 0).queue = [(c, w)] ∧
      (s.entry? w.entry).isSome = true ∧ (∀ k ch e, w = .take k ch → SMap.find? s.tables k = some e → e.word.toNat / 2 ^ 6 % 2 ^ 4 ∉ [1, 3, 4]) ∧ (b = true ↔ ∃ k ch, w = .take k ch)) ∧
    (∃ (s : State) (c k : Nat) (ch : Chunk) (e : TEntry), s.reqs = [] ∧ (s.engines.get 0).now = none ∧ (s.engines.get 0).busy ≤ s.cycle ∧ (s.engines.get 0).queue = [(c, .take k ch)] ∧
      s.entry? k = some e ∧ e.word.toNat / 2 ^ 6 % 2 ^ 4 ∈ [1, 3, 4] ∧ fresh e ch ∧ unaided s 0) ∧
    (∃ (s : State) (c k i d : Nat) (e : TEntry) (m : Comm) (r : Region), s.reqs = [] ∧ (s.engines.get 0).now = some (c, .send k i d) ∧ (s.engines.get 0).busy = s.cycle + 1 ∧
      SMap.find? s.tables k = some e ∧ SMap.find? s.comms e.comm = some m ∧ s.region? e.region = some r ∧ s.orderedTask r.task = none ∧ m.swlimit = 0) ∧
    (∃ (s : State) (c k : Nat) (ch : Chunk) (e : TEntry) (r : Region) (a : Nat), s.reqs = [] ∧ (s.engines.get 0).now = some (c, .take k ch) ∧ (s.engines.get 0).busy = s.cycle + 1 ∧
      SMap.find? s.tables k = some e ∧ e.word.toNat / 2 ^ 6 % 2 ^ 4 = 0 ∧ fresh e ch ∧ ch.index ∉ e.written ∧ s.region? e.region = some r ∧ s.orderedTask r.task = none ∧
      a = domKey (e.word.toNat / 2 ^ 64 % 2 ^ 50) + 1024 * ch.index ∧ ch.data.length = 1024 ∧ onePackage a 1024 ∧ Memory.wf s.hbm = true) ∧
    (∃ (s : State) (c : Chunk) (d : Fin 4) (m : Nat) (rest : List (Nat × Nat)), c.dest.toNat / 2 ^ 40 = Config.ownPackage ∧ c.senders = (d.val, m) :: rest ∧ s.comm? c.tag = none) ∧
    (∀ n ∈ [63, 64], ∃ (s : State) (c : Chunk) (i : Nat) (m : Comm), c.dest.toNat / 2 ^ 40 = Config.ownPackage ∧ s.comm? c.tag = some (i, m) ∧ s.entryFor i c = none ∧ m.pool.length = n) ∧
    (∃ (s : State) (c : Chunk) (i : Nat) (m : Comm) (key : Nat), c.dest.toNat / 2 ^ 40 = Config.ownPackage ∧ s.comm? c.tag = some (i, m) ∧ s.entryFor i c = some key) ∧
    (∃ (c : Chunk) (d : Fin 4) (m : Nat) (rest : List (Nat × Nat)), c.dest.toNat / 2 ^ 40 ≠ Config.ownPackage ∧ c.senders = (d.val, m) :: rest) ∧
    (∀ due ∈ [256, 257], ∃ (s : State) (c : Chunk) (x : Nat), (∀ d : Fin 4, d ≠ 2 → (s.engines.get d).refused = []) ∧ (s.engines.get 2).refused = [(x, c, due)] ∧ s.cycle = 256) ∧
    (∀ l ∈ [[], [⟨redChunk, 7, 100⟩]], ∃ (s : State) (c : Chunk) (i : Nat) (m : Comm), s.comm? c.tag = some (i, m) ∧ m.swlimit ≠ 0 ∧ c.op ∈ ([1, 3, 4] : List (Fin 16)) ∧
      s.switches = l ∧ c.expect = 0 ∧ ∀ x ∈ l, (x.chunk.tag, x.chunk.dest, x.chunk.index, x.chunk.expect) = (c.tag, c.dest, c.index, 0)) ∧
    (∃ c : Chunk, c.op ∉ ([1, 3, 4] : List (Fin 16))) ∧
    (∃ (s : State) (e : TEntry) (r : Req), s.entry? 1 = some e ∧ e.rq = some 5 ∧ s.req? 5 = some r ∧ r.id = 5 ∧ e.recv = false ∧ e.parked = [] ∧ e.accepted = e.nchunk * e.dests) ∧
    (∀ n ∈ [99, 100], ∃ (s : State) (x : SwSlot), s.switches[0]? = some x ∧ x.since + x.limit = 100 ∧ s.cycle = n) := by
  refine ⟨fun b hb => ?_, ?_, ?_, ?_, ?_, ?_, ?_, ?_, ?_, ?_, ⟨redChunk 0, by decide⟩, ?_, ?_⟩
  · cases b
    · exact ⟨colls (atEngine (.send 1 0 0)), 5, .send 1 0 0, rfl, rfl, by decide, rfl, rfl, nofun, nofun, nofun⟩
    · refine ⟨colls (atEngine (.take 0 (redChunk 0))) (posted 0), 5, .take 0 (redChunk 0), rfl, rfl, by decide, rfl, rfl, fun k ch e hw he => ?_, fun _ => ⟨_, _, rfl⟩, fun _ => rfl⟩
      cases hw
      cases he
      decide
  · exact ⟨colls (atEngine (.take 0 redChunk)), 5, 0, redChunk, posted, rfl, rfl, by decide, rfl, rfl, by decide, ⟨nofun, by decide⟩, fun _ h => (List.not_mem_nil h).elim⟩
  · exact ⟨colls (inService (.send 1 0 0)) posted 0, 5, 1, 0, 0, sent, _, _, rfl, rfl, rfl, rfl, rfl, rfl, rfl, rfl⟩
  · refine ⟨colls (inService (.take 0 (redChunk 0))) (posted 0), 5, 0, redChunk 0, posted 0, _, _, rfl, rfl, rfl, rfl, by decide, ⟨nofun, by decide⟩, by decide, rfl, rfl, rfl, List.length_replicate, ?_, rfl⟩
    show onePackage (domKey 0x4000 + 1024 * 0) 1024
    rcases domKey_cases (pa := 0x4000) (by decide) with h | h <;> rw [h] <;> unfold onePackage <;> decide
  · exact ⟨State.reset, ownChunk [(3, 1)], 3, 1, [], (ownChunk_here _).2, rfl, rfl⟩
  · exact fun n _ => ⟨colls (fun s => { s with tables := [], comms := [(5, ⟨9, 0, true, 2, 0, 100, [0], List.replicate n redChunk⟩)] }), ownChunk, 5, _, (ownChunk_here _).2, rfl, rfl, List.length_replicate⟩
  · exact ⟨colls id ownEntry, ownChunk, 5, _, 0, (ownChunk_here _).2, rfl, ownEntry_takes _⟩
  · by_cases h : Config.ownPackage = 0
    · exact ⟨redChunk 1 (2 ^ 40) [(3, 1)], 3, 1, [], by rw [h]; decide, rfl⟩
    · exact ⟨redChunk 1 0 [(3, 1)], 3, 1, [], Ne.symm h, rfl⟩
  · exact fun due _ => ⟨{ State.reset with cycle := 256, engines := State.reset.engines.set 2 { State.reset.engines.get 2 with refused := [(7, redChunk, due)] } (by decide) }, redChunk, 7,
      fun d hd => by fin_cases d <;> first | rfl | exact absurd rfl hd, rfl, rfl⟩
  · intro l hl
    refine ⟨colls (fun s => { s with switches := l }), redChunk, 5, _, rfl, by decide, by decide, rfl, rfl, fun x hx => ?_⟩
    simp only [List.mem_cons, List.not_mem_nil, or_false] at hl
    rcases hl with rfl | rfl
    · cases hx
    · rw [List.mem_singleton.1 hx]
      rfl
  · exact ⟨colls, sent, _, rfl, rfl, rfl, rfl, by decide, rfl, by decide⟩
  · exact fun n _ => ⟨{ State.reset with cycle := n, switches := [⟨redChunk, 0, 100⟩] }, ⟨redChunk, 0, 100⟩, rfl, rfl, rfl⟩

/-! ## Witnesses: encoding, memory -/

/-- A well-formed instruction with a word. -/
theorem wit_EncodedInstructionsDecodeToThemselves : ∃ (i : Instr) (w : BitVec 32), i.wf = true ∧ encode i = some w :=
  ⟨.addi .always 3 (-1), 0xE04C7FFF, by decide⟩

/-- After reset every memory is canonical, and a step goes on. -/
theorem wit_StepsKeepMemoryCanonical : ∃ s t : State, s.memWf = true ∧ step s = .next t :=
  ⟨State.reset, _, rfl, rfl⟩

end Sys2Proof.Tests
end

section
/-!
PROOFS. Scalar results: the word that each scalar instruction computes is the number that its rule gives; a firing that writes one word
completes with it; the words of the scalar arithmetic decode.
-/
namespace Sys2Proof.Machine
open Sys2Proof.Claims

/-! ## The words of the scalar operations -/

/-- An immediate of format I is the number that it stands for (R78). -/
theorem sextImm_eq_ofInt (imm : BitVec 13) : sextImm imm = BitVec.ofInt 64 imm.toInt := rfl

theorem sub_eq_ofInt (a b : Word) : a - b = BitVec.ofInt 64 (a.toInt - b.toInt) := by
  rw [sub_eq_add_neg, Int.sub_eq_add_neg, BitVec.ofInt_add, BitVec.ofInt_neg, BitVec.ofInt_toInt, BitVec.ofInt_toInt]

theorem add_sextImm (a : Word) (imm : BitVec 13) : a + sextImm imm = BitVec.ofInt 64 (a.toInt + imm.toInt) := by
  rw [sextImm_eq_ofInt, BitVec.ofInt_add, BitVec.ofInt_toInt]

/-- A signed quotient rounds toward zero and wraps at -2^63 / -1; without a divisor it is all ones (R306). -/
theorem divS_eq_tdiv (a b : Word) : divS a b = if b = 0 then BitVec.ofInt 64 (-1) else BitVec.ofInt 64 (a.toInt.tdiv b.toInt) := by
  have hdiv : a.sdiv b = BitVec.ofInt 64 (a.toInt.tdiv b.toInt) := BitVec.eq_of_toInt_eq (by rw [BitVec.toInt_sdiv, BitVec.toInt_ofInt])
  rw [divS, hdiv]
  rfl

theorem divU_eq_ofNat (a b : Word) : divU a b = if b = 0 then BitVec.ofNat 64 (2 ^ 64 - 1) else BitVec.ofNat 64 (a.toNat / b.toNat) := by
  rw [divU, BitVec.udiv_def]
  rfl

/-- A signed remainder is what the rounded quotient leaves (R363). -/
theorem remS_eq_sub (a b : Word) :
    remS a b = if b = 0 then a else BitVec.ofInt 64 (a.toInt - a.toInt.tdiv b.toInt * b.toInt) := by
  have hrem : a.srem b = BitVec.ofInt 64 (a.toInt - a.toInt.tdiv b.toInt * b.toInt) := by
    rw [← BitVec.ofInt_toInt (x := a.srem b), BitVec.toInt_srem, Int.tmod_def, Int.mul_comm]
  rw [remS, hrem]

theorem remU_eq_sub (a b : Word) : remU a b = if b = 0 then a else BitVec.ofNat 64 (a.toNat - a.toNat / b.toNat * b.toNat) := by
  rw [remU, BitVec.umod_def, Nat.mod_eq_sub_div_mul]

/-- A word is the number that it stands for. -/
theorem eq_ofNat_of_toNat_eq {a : Word} {n : Nat} (h : a.toNat = n) : a = BitVec.ofNat 64 n := by
  rw [← h, BitVec.ofNat_toNat, BitVec.setWidth_eq]

theorem shiftLeft_eq_ofNat (a : Word) (n : Nat) : a <<< n = BitVec.ofNat 64 (a.toNat * 2 ^ n) :=
  BitVec.eq_of_toNat_eq (by rw [BitVec.toNat_shiftLeft, Nat.shiftLeft_eq, BitVec.toNat_ofNat])

theorem ushiftRight_eq_ofNat (a : Word) (n : Nat) : a >>> n = BitVec.ofNat 64 (a.toNat / 2 ^ n) :=
  eq_ofNat_of_toNat_eq (by rw [BitVec.toNat_ushiftRight, Nat.shiftRight_eq_div_pow])

theorem sshiftRight_eq_ofInt (a : Word) (n : Nat) : a.sshiftRight n = BitVec.ofInt 64 (a.toInt / 2 ^ n) := by
  rw [BitVec.sshiftRight_eq, Int.shiftRight_eq_div_pow]
  norm_cast

theorem ite_sle (a b x y : Word) : (if a.sle b then x else y) = if a.toInt ≤ b.toInt then x else y := by
  simp only [BitVec.sle_iff_toInt_le]

theorem ite_ule (a b x y : Word) : (if a.ule b then x else y) = if a.toNat ≤ b.toNat then x else y := by
  simp only [BitVec.ule_iff_toNat_le]

/-- The leading zeros are those above the highest one bit (R299). -/
theorem clz64_eq_leadingZeros (a : Word) : clz64 a = BitVec.ofNat 64 (leadingZeros a) := by
  unfold clz64 leadingZeros
  by_cases ha : a = 0
  · subst ha
    decide
  · have hne : a.toNat ≠ 0 := fun h => ha (BitVec.eq_of_toNat_eq h)
    have hlt : a.toNat.log2 < 64 := (Nat.log2_lt hne).2 a.isLt
    have htop : (List.range 64).find? (fun n => a.getLsbD (63 - n)) = some (63 - a.toNat.log2) := by
      refine List.find?_range_eq_some.2 ⟨?_, List.mem_range.2 (by omega), fun j hj => ?_⟩
      · rw [show 63 - (63 - a.toNat.log2) = a.toNat.log2 by omega]
        exact Nat.testBit_log2 hne
      · have hbound : a.toNat < 2 ^ (63 - j) := Nat.lt_log2_self.trans_le (Nat.pow_le_pow_right (by decide) (by omega))
        simpa [BitVec.getLsbD] using Nat.testBit_lt_two_pow hbound
    rw [if_neg ha, htop]
    rfl

/-- Adding up bits counts those that are one. -/
theorem foldl_add_toNat (p : Nat → Bool) (l : List Nat) (n : Nat) :
    l.foldl (fun n k => n + (p k).toNat) n = n + (l.filter p).length := by
  induction l generalizing n with
  | nil => rfl
  | cons k l ih =>
    rw [List.foldl_cons, ih]
    cases h : p k
    · simp [h]
    · simp [h, Nat.add_assoc, Nat.add_comm 1]

theorem popc64_eq_oneBits (a : Word) : popc64 a = BitVec.ofNat 64 (oneBits a) := by
  rw [popc64, oneBits, foldl_add_toNat, Nat.zero_add]

/-- The mask of a field at its place (R298). -/
theorem fieldMask_shiftLeft (w n : Nat) : fieldMask w <<< n = BitVec.ofNat 64 ((2 ^ min w 64 - 1) * 2 ^ n) := by
  rw [fieldMask, shiftLeft_eq_ofNat]
  exact BitVec.eq_of_toNat_eq (by simp)

theorem bfx64_eq_ofNat (a b : Word) :
    bfx64 a b = BitVec.ofNat 64 (a.toNat / 2 ^ (b.toNat % 64) % 2 ^ min (b.toNat / 64 % 128) 64) := by
  have hpow : 2 ^ min (b.toNat / 64 % 128) 64 ≤ 2 ^ 64 := Nat.pow_le_pow_right (by decide) (by omega)
  have hmask : (fieldMask (b.toNat / 64 % 128)).toNat = 2 ^ min (b.toNat / 64 % 128) 64 - 1 := by
    rw [fieldMask, BitVec.toNat_ofNat, Nat.mod_eq_of_lt]
    omega
  refine eq_ofNat_of_toNat_eq ?_
  rw [bfx64, BitVec.toNat_and, hmask, Nat.and_two_pow_sub_one_eq_mod, BitVec.toNat_ushiftRight, Nat.shiftRight_eq_div_pow]

theorem bfi64_eq (d a b : Word) :
    bfi64 d a b =
      let m : Word := BitVec.ofNat 64 ((2 ^ min (b.toNat / 64 % 128) 64 - 1) * 2 ^ (b.toNat % 64))
      (d &&& ~~~ m) ||| (BitVec.ofNat 64 (a.toNat * 2 ^ (b.toNat % 64)) &&& m) := by
  rw [bfi64, fieldMask_shiftLeft, shiftLeft_eq_ofNat]

/-- The immediate fills the bits that the shift of MOVHI has freed (R339). -/
theorem shiftLeft_or_setWidth (a : Word) (imm : BitVec 13) :
    (a <<< 13) ||| imm.setWidth 64 = BitVec.ofNat 64 (a.toNat * 2 ^ 13 + imm.toNat) := by
  have hdisjoint : (a <<< 13) &&& imm.setWidth 64 = 0#64 := by
    ext i hi
    by_cases h : i < 13
    · simp [h]
    · simp [BitVec.getLsbD_of_ge imm i (by omega)]
  rw [← BitVec.add_eq_or_of_and_eq_zero _ _ hdisjoint, shiftLeft_eq_ofNat, BitVec.ofNat_add, BitVec.ofNat_toNat 64 imm]

/-! ## Firings that write one word -/

/-- What a firing with one scalar result does beside what every firing does. -/
def scalarEffect (s : State) (e : Env) (d : SDst) (w : Word) : Effect := { ctx := d.ctx w, sent := e.sent s.cycle d.any (.s w), bare := s }

section
variable {s s1 : State} {i : Instr} {e : Env} (h : s.enter i = some (e, s1))
include h

/-- A meaning that writes one word, without flags, completes with it; `w` is that word as a rule gives it. -/
theorem fire_writeS {k : Env → State → Res} {d : SDst} {v w : Word} (hk : k e s1 = .done (s1.writeS e d v) 0) (hv : v = w) :
    ∃ t, fire i s k = .next t ∧ Completed s t i e (scalarEffect s e d w) := by
  subst hv
  have hact : Acts s1 (s1.writeS e d v) e (scalarEffect s e d v) := by
    have hseen := Acts.seen h rfl (Acts.writeS s1 e d v)
    rwa [State.enter_cycle h] at hseen
  have hquiet : (sideTrapf e.side && (scalarEffect s e d v).flags.traps) = false := by simp [scalarEffect, Flags.traps]
  exact fire_completed h hk hquiet hact

/-- Every instruction with a scalar result completes with it. -/
theorem scalarResult_completed {d : SDst} {w : Word} (hr : scalarResult e i = some (d, w)) :
    ∃ t, exec i s = .next t ∧ Completed s t i e (scalarEffect s e d w) := by
  cases i <;> cases hr
  -- The word is the rule's by definition.
  case add | mul | mulh | mulhu | and | or | xor | andi | ori | xori | movi | wfld | hweak => exact fire_writeS h rfl rfl
  case sub => exact fire_writeS h rfl (sub_eq_ofInt _ _)
  case addi => exact fire_writeS h rfl (add_sextImm _ _)
  case div => exact fire_writeS h rfl (divS_eq_tdiv _ _)
  case divu => exact fire_writeS h rfl (divU_eq_ofNat _ _)
  case rem => exact fire_writeS h rfl (remS_eq_sub _ _)
  case remu => exact fire_writeS h rfl (remU_eq_sub _ _)
  case shl | shli => exact fire_writeS h rfl (shiftLeft_eq_ofNat _ _)
  case shr | shri => exact fire_writeS h rfl (ushiftRight_eq_ofNat _ _)
  case sar | sari => exact fire_writeS h rfl (sshiftRight_eq_ofInt _ _)
  case min | max => exact fire_writeS h rfl (ite_sle _ _ _ _)
  case minu | maxu => exact fire_writeS h rfl (ite_ule _ _ _ _)
  case clz => exact fire_writeS h rfl (clz64_eq_leadingZeros _)
  case popc => exact fire_writeS h rfl (popc64_eq_oneBits _)
  case bfx => exact fire_writeS h rfl (bfx64_eq_ofNat _ _)
  case bfi => exact fire_writeS h rfl (bfi64_eq _ _ _)
  case movhi => exact fire_writeS h rfl (shiftLeft_or_setWidth _ _)
  case vextr | kmovFromMask => exact fire_writeS h rfl (BitVec.ofNat_toNat 64 _).symm

end

/-! ## The words that decode to the scalar arithmetic -/

/-- Format T with B = 0 is format U, X being bit 0 of FN (R77). -/
theorem ofNat_fieldsT_zero (t : Trig) (opc d a x : Nat) : BitVec.ofNat 32 (fieldsT t opc d a 0 x) = wordU t opc d a x := by
  rw [fieldsT, Nat.zero_mul, Nat.add_zero]
  rfl

/-- A word of the scalar arithmetic is the encoder's, and decodes to its instruction. -/
theorem decodeWord_scalarWord {i : Instr} {n : Nat} (hw : scalarWord i = some n) : decodeWord (BitVec.ofNat 32 n) = some i := by
  cases i <;> cases hw
  case add t d a b => exact Laws.Encoding.add t d a b _ rfl rfl
  case sub t d a b => exact Laws.Encoding.sub t d a b _ rfl rfl
  case mul t d a b => exact Laws.Encoding.mul t d a b _ rfl rfl
  case mulh t d a b => exact Laws.Encoding.mulh t d a b _ rfl rfl
  case mulhu t d a b => exact Laws.Encoding.mulhu t d a b _ rfl rfl
  case div t d a b => exact Laws.Encoding.div t d a b _ rfl rfl
  case divu t d a b => exact Laws.Encoding.divu t d a b _ rfl rfl
  case rem t d a b => exact Laws.Encoding.rem t d a b _ rfl rfl
  case remu t d a b => exact Laws.Encoding.remu t d a b _ rfl rfl
  case and t d a b => exact Laws.Encoding.and t d a b _ rfl rfl
  case shl t d a b => exact Laws.Encoding.shl t d a b _ rfl rfl
  case shr t d a b => exact Laws.Encoding.shr t d a b _ rfl rfl
  case sar t d a b => exact Laws.Encoding.sar t d a b _ rfl rfl
  case min t d a b => exact Laws.Encoding.min t d a b _ rfl rfl
  case minu t d a b => exact Laws.Encoding.minu t d a b _ rfl rfl
  case max t d a b => exact Laws.Encoding.max t d a b _ rfl rfl
  case maxu t d a b => exact Laws.Encoding.maxu t d a b _ rfl rfl
  case xor t d a b => exact Laws.Encoding.xor t d a b _ rfl rfl
  case addi t d imm => exact Laws.Encoding.addi t d imm _ rfl rfl
  case andi t d imm => exact Laws.Encoding.andi t d imm _ rfl rfl
  case xori t d imm => exact Laws.Encoding.xori t d imm _ rfl rfl
  case shli t d imm => exact Laws.Encoding.shli t d imm _ rfl rfl
  case shri t d imm => exact Laws.Encoding.shri t d imm _ rfl rfl
  case sari t d imm => exact Laws.Encoding.sari t d imm _ rfl rfl
  case clz t d a => exact Laws.Encoding.clz t d a _ rfl (congrArg some (ofNat_fieldsT_zero ..).symm)
  case popc t d a => exact Laws.Encoding.popc t d a _ rfl (congrArg some (ofNat_fieldsT_zero ..).symm)

/-- Settles O1: every form writes one word through `State.writeS`, and the word is the number of its rule; the encoder's laws give the words. -/
theorem scalarResultsAreWritten : Obligations.ScalarResultsAreWritten :=
  ⟨fun _ _ _ _ _ _ h hr => scalarResult_completed h hr, fun _ _ hw => decodeWord_scalarWord hw, by decide⟩

end Sys2Proof.Machine
end

section
/-!
PROOFS. Vector results and reductions: the lanes that each vector instruction writes are those of its rule, with the union of their flags; a
firing whose flags do not trap completes with them.
-/
namespace Sys2Proof.Machine
open Sys2Proof.Claims

/-! ## Lanes of a vector -/

/-- A vector written out holds what it was written from. -/
theorem Vec.lane_build (f : Nat → Lane) {n : Nat} (hn : n < 16) : Vec.lane (Vec.build f) n = f n := by
  interval_cases n <;> rfl

theorem Vec.lane_all (x : Lane) {n : Nat} (hn : n < 16) : Vec.lane (Vec.all x) n = x := by
  interval_cases n <;> rfl

/-- Lanes without flags set none. -/
theorem laneFlags_zero : laneFlags (fun _ => 0) = 0 := by decide

/-! ## The lane operations are those of their rules -/

theorem plain_add (a b : Lane) : plain (fun x y => x + y) a b = lane40 (a.toInt + b.toInt) := by
  rw [plain, lane40, BitVec.ofInt_add, BitVec.ofInt_toInt, BitVec.ofInt_toInt]

theorem plain_sub (a b : Lane) : plain (fun x y => x - y) a b = lane40 (a.toInt - b.toInt) := by
  rw [plain, lane40, Int.sub_eq_add_neg, BitVec.ofInt_add, BitVec.ofInt_neg, BitVec.ofInt_toInt, BitVec.ofInt_toInt, sub_eq_add_neg]

theorem plain_mul (a b : Lane) : plain (fun x y => x * y) a b = lane40 (a.toInt * b.toInt) := by
  rw [plain, lane40, BitVec.ofInt_mul, BitVec.ofInt_toInt, BitVec.ofInt_toInt]

theorem plain_min (a b : Lane) : plain (fun x y => if x.sle y then x else y) a b = lane40 (min a.toInt b.toInt) := by
  simp only [plain, lane40, min_def, BitVec.sle_iff_toInt_le, apply_ite (BitVec.ofInt 40), BitVec.ofInt_toInt]

theorem plain_max (a b : Lane) : plain (fun x y => if y.sle x then x else y) a b = lane40 (max a.toInt b.toInt) := by
  simp only [plain, lane40, max_comm a.toInt, max_def, BitVec.sle_iff_toInt_le, apply_ite (BitVec.ofInt 40), BitVec.ofInt_toInt]

theorem plain_sshiftRight (a b : Lane) :
    plain (fun x y => x.sshiftRight (laneCount y)) a b = lane40 (a.toInt / 2 ^ (b.toNat % 64)) := by
  rw [plain, lane40, laneCount, BitVec.sshiftRight_eq, Int.shiftRight_eq_div_pow]
  norm_cast

/-- A lane without a flag is the number that it stands for. -/
theorem lane_ext_toNat {x : Lane} {n : Nat} (h : x.toNat = n) : (x, (0 : Flags)) = (BitVec.ofNat 40 n, 0) := by
  rw [← h, BitVec.ofNat_toNat, BitVec.setWidth_eq]

theorem plain_shiftLeft (a b : Lane) :
    plain (fun x y => x <<< laneCount y) a b = (BitVec.ofNat 40 (a.toNat * 2 ^ (b.toNat % 64)), 0) := by
  refine Prod.ext (BitVec.eq_of_toNat_eq ?_) rfl
  rw [plain, BitVec.toNat_shiftLeft, Nat.shiftLeft_eq, BitVec.toNat_ofNat, laneCount]

theorem plain_ushiftRight (a b : Lane) :
    plain (fun x y => x >>> laneCount y) a b = (BitVec.ofNat 40 (a.toNat / 2 ^ (b.toNat % 64)), 0) :=
  lane_ext_toNat (by rw [BitVec.toNat_ushiftRight, Nat.shiftRight_eq_div_pow, laneCount])

/-- VABS clears bit 39 (R273). -/
theorem clearSign_eq_mod (a : Lane) : (a &&& 0x7FFFFFFFFF, (0 : Flags)) = (BitVec.ofNat 40 (a.toNat % 2 ^ 39), 0) :=
  lane_ext_toNat (by rw [BitVec.toNat_and]; exact Nat.and_two_pow_sub_one_eq_mod a.toNat 39)

theorem xor_signW (a : Lane) : (a ^^^ signW, (0 : Flags)) = (a ^^^ BitVec.ofNat 40 (2 ^ 39), 0) := by
  rw [show signW = BitVec.ofNat 40 (2 ^ 39) by decide]

/-- The lanes that a mask keeps, in their order (R388). -/
theorem lane_compress (m : BitVec 16) (x : Vec) {n : Nat} (hn : n < 16) :
    Vec.lane (compress m x) n = (((List.range 16).filter (fun k => m.getLsbD k))[n]?.map x.lane).getD 0 := by
  rw [compress, Vec.lane_build _ hn, List.getD_eq_getElem?_getD, List.getElem?_map]

/-! ## Meanings that write sixteen lanes -/

/-- The meaning of `i` writes to `d` a vector whose lanes are `r`'s, and sets the union of their flags. -/
def WritesLanes (i : Instr) (e : Env) (d : VDst) (r : Nat → Lane × Flags) : Prop :=
  ∃ k : Env → State → Res, (∀ s, exec i s = fire i s k) ∧
    ∀ s1, ∃ x, k e s1 = .done (s1.writeV e d x) (laneFlags (fun n => (r n).2)) ∧ ∀ n, n < 16 → Vec.lane x n = (r n).1

section
variable {i : Instr} {e : Env}

/-- A meaning that gives each lane a result of its own, with its flags. -/
theorem lanewise_writesLanes {k : Env → State → Res} {d : VDst} {f r : Nat → Lane × Flags} (hx : ∀ s, exec i s = fire i s k)
    (hk : ∀ s1, k e s1 = .done (s1.writeV e d (lanewise f).1) (lanewise f).2) (hf : ∀ n, f n = r n) : WritesLanes i e d r := by
  obtain rfl := funext hf
  exact ⟨k, hx, fun s1 => ⟨_, hk s1, fun _ => Vec.lane_build _⟩⟩

/-- A meaning that moves lanes sets no flag. -/
theorem moves_writesLanes {k : Env → State → Res} {d : VDst} {x : Vec} {f : Nat → Lane} (hx : ∀ s, exec i s = fire i s k)
    (hk : ∀ s1, k e s1 = .done (s1.writeV e d x) 0) (hf : ∀ n, n < 16 → Vec.lane x n = f n) : WritesLanes i e d (fun n => (f n, 0)) :=
  ⟨k, hx, fun s1 => ⟨x, (hk s1).trans (congrArg (Res.done (s1.writeV e d x)) laneFlags_zero.symm), hf⟩⟩

/-- Every vector instruction writes the lanes of its rule. -/
theorem vectorResult_writesLanes {d : VDst} {r : Nat → Lane × Flags} (hr : vectorResult e i = some (d, r)) : WritesLanes i e d r := by
  cases i <;> cases hr
  -- The lane's operation is the rule's by definition.
  case vadd | vsub | vmul | vscale | vmin | vmax | vfma | vfms | vfnma | vmov | vrcps | vrsqs | vexp2s | vlog2s | vrnd | vcvti | vcvtf | vsrnd
    | vscan | vand | vor | vxor => exact lanewise_writesLanes (fun _ => rfl) (fun _ => rfl) (fun _ => rfl)
  case vabs => exact lanewise_writesLanes (fun _ => rfl) (fun _ => rfl) (fun _ => clearSign_eq_mod _)
  case vneg => exact lanewise_writesLanes (fun _ => rfl) (fun _ => rfl) (fun _ => xor_signW _)
  case viadd => exact lanewise_writesLanes (fun _ => rfl) (fun _ => rfl) (fun _ => plain_add _ _)
  case visub => exact lanewise_writesLanes (fun _ => rfl) (fun _ => rfl) (fun _ => plain_sub _ _)
  case vimul => exact lanewise_writesLanes (fun _ => rfl) (fun _ => rfl) (fun _ => plain_mul _ _)
  case vimin => exact lanewise_writesLanes (fun _ => rfl) (fun _ => rfl) (fun _ => plain_min _ _)
  case vimax => exact lanewise_writesLanes (fun _ => rfl) (fun _ => rfl) (fun _ => plain_max _ _)
  case vshl => exact lanewise_writesLanes (fun _ => rfl) (fun _ => rfl) (fun _ => plain_shiftLeft _ _)
  case vshr => exact lanewise_writesLanes (fun _ => rfl) (fun _ => rfl) (fun _ => plain_ushiftRight _ _)
  case vsar => exact lanewise_writesLanes (fun _ => rfl) (fun _ => rfl) (fun _ => plain_sshiftRight _ _)
  -- Lanes that move.
  case vbcast => exact moves_writesLanes (fun _ => rfl) (fun _ => rfl) (fun _ hn => (Vec.lane_all _ hn).trans (BitVec.ofNat_toNat 40 _).symm)
  case vsel | vperm | vrot | vxpnd => exact moves_writesLanes (fun _ => rfl) (fun _ => rfl) (fun _ => Vec.lane_build _)
  case vcprs => exact moves_writesLanes (fun _ => rfl) (fun _ => rfl) (fun _ => lane_compress _ _)

end

/-! ## Firings that write sixteen lanes, or a reduced one -/

/-- What a firing with sixteen lanes does beside what every firing does. -/
def vectorEffect (s : State) (e : Env) (d : VDst) (x : Vec) (f : Flags) : Effect :=
  { ctx := d.ctx x, sent := e.sent s.cycle d.any (.v x), flags := f, bare := s }

/-- What a reduction does beside what every firing does. -/
def reductionEffect (s : State) (e : Env) (d : ADst) (x : Lane) (f : Flags) : Effect :=
  { ctx := reductionCtx d x, sent := e.sent s.cycle d (reductionPay e d x), flags := f, bare := s }

/-- A result of a reduction written to a destination (R395). -/
theorem Acts.writeA (s : State) (e : Env) (d : ADst) (x : Lane) :
    Acts s (s.writeA e d x) e { ctx := reductionCtx d x, sent := e.sent s.cycle d (reductionPay e d x), bare := s } := by
  cases d with
  | s n => exact .modCtx s e _
  | v n => exact .modCtx s e _
  | o q => exact .send s e q _ _ _
  | oe q => exact .send s e q _ _ _
  | nul => exact .refl s e

/-- Every reduction writes the lane of its rule. -/
theorem reductionResult_writeA {e : Env} {i : Instr} {d : ADst} {x : Lane} {f : Flags} (hr : reductionResult e i = some (d, x, f)) :
    ∃ k : Env → State → Res, (∀ s, exec i s = fire i s k) ∧ ∀ s1, k e s1 = .done (s1.writeA e d x) f := by
  cases i <;> simp only [reductionResult, reduceCtorEq, Option.some.injEq, Prod.mk.injEq] at hr
  case vreda | vredmMax | vredmMin =>
    obtain ⟨rfl, hreduce⟩ := hr
    exact ⟨_, fun _ => rfl, fun _ => by rw [hreduce]⟩

section
variable {s s1 : State} {i : Instr} {e : Env} (h : s.enter i = some (e, s1))
include h

/-- Lanes written while a firing is under way act by the effect of the state before it. -/
theorem Acts.writeV_seen (d : VDst) (x : Vec) (f : Flags) : Acts s1 (s1.writeV e d x) e (vectorEffect s e d x f) := by
  have hact := (Acts.seen h rfl (Acts.writeV s1 e d x)).withFlags f
  rwa [State.enter_cycle h] at hact

theorem Acts.writeA_seen (d : ADst) (x : Lane) (f : Flags) : Acts s1 (s1.writeA e d x) e (reductionEffect s e d x f) := by
  have hact := (Acts.seen h rfl (Acts.writeA s1 e d x)).withFlags f
  rwa [State.enter_cycle h] at hact

/-- Every vector instruction whose flags do not trap completes with its lanes. -/
theorem vectorResult_completed {d : VDst} {r : Nat → Lane × Flags} (hr : vectorResult e i = some (d, r))
    (hquiet : (sideTrapf e.side && (laneFlags (fun n => (r n).2)).traps) = false) :
    ∃ t x, exec i s = .next t ∧ (∀ n, n < 16 → Vec.lane x n = (r n).1) ∧
      Completed s t i e (vectorEffect s e d x (laneFlags (fun n => (r n).2))) := by
  obtain ⟨k, hexec, hk⟩ := vectorResult_writesLanes hr
  obtain ⟨x, hdone, hlanes⟩ := hk s1
  obtain ⟨t, ht, hc⟩ := fire_completed (x := vectorEffect s e d x _) h hdone hquiet (Acts.writeV_seen h d x _)
  exact ⟨t, x, (hexec s).trans ht, hlanes, hc⟩

/-- A reduction whose flags do not trap completes with the reduced lane. -/
theorem reductionResult_completed {d : ADst} {x : Lane} {f : Flags} (hr : reductionResult e i = some (d, x, f))
    (hquiet : (sideTrapf e.side && f.traps) = false) : ∃ t, exec i s = .next t ∧ Completed s t i e (reductionEffect s e d x f) := by
  obtain ⟨k, hexec, hdone⟩ := reductionResult_writeA hr
  obtain ⟨t, ht, hc⟩ := fire_completed (x := reductionEffect s e d x f) h (hdone s1) hquiet (Acts.writeA_seen h d x f)
  exact ⟨t, (hexec s).trans ht, hc⟩

end

/-- Settles O3: every form writes its lanes through `State.writeV`, and each lane is the one of its rule; a reduction writes its lane
through `State.writeA`; the encoder's laws give the words. -/
theorem vectorAndReducedResultsAreWritten : Obligations.VectorAndReducedResultsAreWritten := by
  refine ⟨fun _ _ _ _ _ _ h hr hquiet => vectorResult_completed h hr hquiet, fun _ _ _ _ _ _ _ h hr hquiet => reductionResult_completed h hr hquiet,
    fun t d a b => Laws.Encoding.vperm t d a b _ rfl rfl, fun t d a dn n => Laws.Encoding.vrot t d a dn n _ rfl ?_, by decide, by decide, by decide⟩
  exact congrArg some (ofNat_fieldsT_zero ..).symm

end Sys2Proof.Machine
end

section
/-!
PROOFS. Faults of a firing: what getting under way and freezing leave as it was; a region with a fault port and a free record entry takes the
fault, another stops, and one that has ended takes none; TRAP and the flags of a vector instruction under TRAPF fault so.
-/
namespace Sys2Proof.Machine
open Sys2Proof.Claims

/-! ## The parts of an element that getting under way leaves -/

/-- Registers set to zero are none of those parts (R18). -/
theorem Elem.parts_zeroed (c : Fin 4) (vs : List (Fin 32)) (x : Elem) :
    (vs.foldl (fun (x : Elem) v => x.modCtx c (fun k => { k with v := k.v.set v.val Vec.zero v.isLt })) x).parts = x.parts := by
  refine foldl_keeps Elem.parts _ (fun y v => ?_) vs x
  rfl

/-- A firing that goes on changes contexts and residents of its element only (R19). -/
theorem Elem.regPlan_go_parts {x y : Elem} {c : Fin 4} {sl : Fin 32} {vs : List (Fin 32)} {due : Nat} (h : x.regPlan c sl vs due = .go y) :
    y.parts = x.parts := by
  unfold Elem.regPlan at h
  dsimp only at h
  split at h
  · split at h
    · cases h
    · split at h <;> cases h
  · split at h
    · cases h
      exact Elem.parts_zeroed c _ x
    · split at h <;> cases h

theorem State.enter_elem_parts {s s1 : State} {i : Instr} {e : Env} (h : s.enter i = some (e, s1)) :
    (s.elem? e.site.tile).map Elem.parts = some e.elem.parts := by
  unfold State.enter at h
  split at h
  · cases h
  · split at h
    · cases h
    · rename_i e0 he
      obtain ⟨rfl, htile, helem, -⟩ := State.env?_spec he
      split at h
      · split at h
        · rename_i x hx
          cases h
          simp [State.elem?, htile, helem, Elem.regPlan_go_parts hx]
        · cases h
        · cases h
      · cases h

/-- Getting under way leaves the parts of every element. -/
theorem State.enter_parts {s s1 : State} {i : Instr} {e : Env} (h : s.enter i = some (e, s1)) (u : Nat) :
    (s1.elem? u).map Elem.parts = (s.elem? u).map Elem.parts := by
  by_cases hu : u = e.site.tile
  · rw [hu, State.enter_elem_parts h, State.enter_elem h]
    rfl
  · rw [State.enter_elem_other h u hu]

/-! ## Fields of the bare part -/

theorem State.cycle_eq_of_bare {s t : State} (h : t.bare = s.bare) : t.cycle = s.cycle := (congrArg State.cycle h : t.bare.cycle = s.bare.cycle)
theorem State.nextId_eq_of_bare {s t : State} (h : t.bare = s.bare) : t.nextId = s.nextId := (congrArg State.nextId h : t.bare.nextId = s.bare.nextId)
theorem State.faultToks_eq_of_bare {s t : State} (h : t.bare = s.bare) : t.faultToks = s.faultToks :=
  (congrArg State.faultToks h : t.bare.faultToks = s.bare.faultToks)

/-! ## The context of a fault freezes -/

/-- The picker moves on and the followers must fire the slot, as after every firing (R29, R34). -/
def State.passOn (s : State) (e : Env) : State := (State.modElem { s with cur := none } e.site.tile (fun x => x.rotate e.site)).oblige e

/-- What a fault of a firing does before the region takes it. -/
def State.freeze (s : State) (e : Env) : State := (s.passOn e).modCtx e.site.tile e.site.ctx (fun x => { x with st := .frozen false })

theorem State.miss_eq (s : State) (e : Env) (f : FaultInfo) :
    s.miss e f = (s.freeze e).raiseFault e.ctx.region e.ctx.leaf e.site.tile e.site.ctx.val e.site.slot.val false f
      (some (e.site.tile, e.site.ctx)) := rfl

/-- What of an element neither the picker nor the due slots are. -/
theorem State.elem?_passOn (s : State) (e : Env) {γ : Type} (P : Elem → γ) (hdue : ∀ (x : Elem) d, P { x with due := d } = P x)
    (hrot : ∀ x : Elem, P (x.rotate e.site) = P x) (u : Nat) : ((s.passOn e).elem? u).map P = (s.elem? u).map P := by
  rw [State.passOn, State.elem?_oblige _ _ P hdue]
  by_cases hu : u = e.site.tile
  · subst hu
    rw [State.elem?_modElem_same, Option.map_map]
    exact congrArg (fun g => (s.elem? e.site.tile).map g) (funext hrot)
  · rw [State.modElem, State.elem?_modTile_other _ _ _ _ hu]
    rfl

/-- What of a tile its element is not. -/
theorem State.tile?_freeze (s : State) (e : Env) {γ : Type} (P : Tile → γ) (helem : ∀ (x : Tile) y, P { x with elem := y } = P x) (u : Nat) :
    ((s.freeze e).tile? u).map P = (s.tile? u).map P := by
  rw [State.freeze, State.modCtx, State.tile?_modElem _ _ _ P helem, State.passOn, State.tile?_oblige _ _ P helem,
    State.tile?_modElem _ _ _ P helem]
  rfl

/-- Any field that a change of an element leaves, freezing leaves, but for the site. -/
theorem State.freeze_keeps {γ : Type} (P : State → γ) (hmod : ∀ (s : State) t f, P (s.modElem t f) = P s)
    (hcur : ∀ s : State, P { s with cur := none } = P s) (s : State) (e : Env) : P (s.freeze e) = P s := by
  rw [State.freeze, State.modCtx, hmod, State.passOn, State.oblige_keeps P hmod, hmod, hcur]

theorem State.ctx?_freeze (s : State) (e : Env) (u : Nat) (c : Fin 4) :
    (s.freeze e).ctx? u c
      = (s.ctx? u c).map (fun x => if u = e.site.tile ∧ c = e.site.ctx then { x with st := .frozen false } else x) := by
  have hpass : (s.passOn e).ctx? u c = s.ctx? u c :=
    s.elem?_passOn e (fun x => x.ctx.get c) (fun _ _ => rfl) (fun x => by rw [Elem.ctx_rotate]) u
  rw [State.freeze, State.ctx?_modCtx, hpass]

theorem Elem.parts_rotate (x : Elem) (site : Site) : (x.rotate site).parts = x.parts := by
  unfold Elem.rotate
  split <;> rfl

theorem State.parts_freeze (s : State) (e : Env) (u : Nat) : ((s.freeze e).elem? u).map Elem.parts = (s.elem? u).map Elem.parts := by
  rw [State.freeze, State.parts_modCtx, s.elem?_passOn e Elem.parts (fun _ _ => rfl) (fun x => x.parts_rotate e.site)]

theorem State.mem?_freeze (s : State) (e : Env) (u : Nat) : (s.freeze e).mem? u = s.mem? u := by
  have htile := s.tile?_freeze e Tile.mem (fun _ _ => rfl) u
  simpa only [State.mem?, Option.bind_map, Function.id_comp] using congrArg (fun m => m.bind id) htile

/-- `t` is `s` but for the context of a firing, which is frozen, the picker of its element, and the slots that followers must fire. -/
structure FrozenAt (s t : State) (e : Env) : Prop where
  ctx : t.ctx? e.site.tile e.site.ctx = some { e.ctx with st := .frozen false }
  ctxs : ∀ u c, ¬(u = e.site.tile ∧ c = e.site.ctx) → t.ctx? u c = s.ctx? u c
  ports : ∀ u q, t.port? u q = s.port? u q
  queues : ∀ u q, t.queue? u q = s.queue? u q
  elems : ∀ u, (t.elem? u).map Elem.parts = (s.elem? u).map Elem.parts
  mems : ∀ u, t.mem? u = s.mem? u
  regions : t.regions = s.regions
  bare : t.bare = s.bare
  rest : t.hbm = s.hbm ∧ t.dbg = s.dbg ∧ t.watched = s.watched ∧ t.tasks = s.tasks ∧ t.seq = s.seq

/-- The freezing of a firing that has got under way, seen from the state before it. -/
theorem State.freeze_frozenAt {s s1 : State} {i : Instr} {e : Env} (h : s.enter i = some (e, s1)) : FrozenAt s (s1.freeze e) e where
  ctx := by rw [State.ctx?_freeze, State.enter_ctx h, Option.map_some, if_pos ⟨rfl, rfl⟩]
  ctxs u c hne := by simp only [State.ctx?_freeze, hne, if_false, Option.map_id', State.enter_ctx_other h u c hne]
  ports u q := (s1.tile?_freeze e (fun x => x.op.get q) (fun _ _ => rfl) u).trans (State.enter_port h u q)
  queues u q := (s1.tile?_freeze e (fun x => x.iq.get q) (fun _ _ => rfl) u).trans (State.enter_queue h u q)
  elems u := (s1.parts_freeze e u).trans (State.enter_parts h u)
  mems u := by
    rw [State.mem?_freeze]
    obtain ⟨-, -, rfl, -⟩ := State.enter_spec h
    exact State.mem?_modElem s _ _ u
  regions := by
    rw [State.freeze_keeps State.regions (by simp) (fun _ => rfl)]
    obtain ⟨-, -, rfl, -⟩ := State.enter_spec h
    exact State.modElem_regions s _ _
  bare := (State.freeze_keeps State.bare State.bare_modElem (fun _ => rfl) s1 e).trans (State.enter_bare h)
  rest := by
    rw [State.freeze_keeps State.hbm (by simp) (fun _ => rfl), State.freeze_keeps State.dbg (by simp) (fun _ => rfl),
      State.freeze_keeps State.watched (by simp) (fun _ => rfl), State.freeze_keeps State.tasks (by simp) (fun _ => rfl),
      State.freeze_keeps State.seq (by simp) (fun _ => rfl)]
    obtain ⟨-, -, rfl, -⟩ := State.enter_spec h
    simp

/-! ## A region takes a fault -/

theorem Vector.at_upd_same {α : Type} {n : Nat} (v : Vector α (n + 1)) (i : Nat) (x : α) : Vector.at (Vector.upd v i x) i = x :=
  Vector.getElem_set_self _

theorem Vector.at_upd_other {α : Type} {n : Nat} (v : Vector α (n + 1)) {i j : Nat} (x : α) (h : i % (n + 1) ≠ j % (n + 1)) :
    Vector.at (Vector.upd v i x) j = Vector.at v j :=
  Vector.getElem_set_ne _ _ h

theorem Region.freeRec_lt {r : Region} {n : Nat} (h : r.freeRec = some n) : n < 16 := List.mem_range.1 (List.mem_of_find?_eq_some h)

/-- A region with a record entry taken by a fault whose token's payload is `w` (R210). -/
def Region.recorded (r : Region) (n : Nat) (f : FaultInfo) (w : Word) : Region :=
  { r with frec := Vector.upd r.frec n (some f.detail), faulted := r.faulted.or (some (f.kind, w, f.detail)) }

/-- The cycle at which a fault token arrives: within 63, and behind those before it (R211). -/
def State.faultDue (s : State) (n pt : Nat) (pq : Fin 4) : Nat :=
  max (s.within 63) ((s.faultToks.filter (fun x => x.region == n && x.tile == pt && x.q == pq)).foldl (fun m x => max m x.due) 0)

theorem State.cycle_le_faultDue (s : State) (n pt : Nat) (pq : Fin 4) : s.cycle ≤ s.faultDue n pt pq :=
  (Nat.le_add_right _ _).trans (le_max_left _ _)

/-- A fault token on its way to a fault port (R211). -/
def State.sendFault (s : State) (n pt : Nat) (pq : Fin 4) (w : Word) (froze : Option (Nat × Fin 4)) : State :=
  (State.fresh { s with faultToks := s.faultToks ++ [⟨s.nextId, n, pt, pq, w, s.faultDue n pt pq, froze⟩] }).tick

section
variable {s : State} {r : Region} {n leaf tile ctx slot : Nat} {src : Bool} {f : FaultInfo} {froze : Option (Nat × Fin 4)}
  (hr : s.region? n = some r)
include hr

/-- With a fault port and a free record entry the region takes the fault (R210, R211). -/
theorem State.raiseFault_recorded {k pt : Nat} {pq : Fin 4} (hgo : r.ended = false) (hrec : r.freeRec = some k)
    (hport : r.faultPort leaf = some (pt, pq)) :
    s.raiseFault n leaf tile ctx slot src f froze =
      let w := faultWord f (r.rel leaf tile).1 (r.rel leaf tile).2 ctx slot src k
      (s.modRegion n (fun x => x.recorded k f w)).sendFault n pt pq w froze := by
  simp only [State.raiseFault, hr, hgo, hrec, hport, Bool.false_eq_true, if_false]
  rfl

/-- A region that goes on stops with the fault (R212). -/
theorem State.stopRegion_stopped (hgo : r.ended = false) (tok : Word) : Stopped s (s.stopRegion n f tok) n f := by
  simp only [State.stopRegion, hr, hgo, Bool.false_eq_true, if_false]
  exact ⟨⟨_, SMap.find?_put_same _ _ _, rfl, rfl, rfl, rfl⟩, fun m hm => SMap.find?_put_other _ _ _ _ hm, rfl⟩

/-- Without a fault port or a free record entry the region stops (R212). -/
theorem State.raiseFault_stopped (hgo : r.ended = false) (hnone : r.freeRec = none ∨ r.faultPort leaf = none) :
    Stopped s (s.raiseFault n leaf tile ctx slot src f froze) n f := by
  simp only [State.raiseFault, hr, hgo, Bool.false_eq_true, if_false]
  cases hrec : r.freeRec with
  | none => exact State.stopRegion_stopped hr hgo _
  | some k =>
    have hport : r.faultPort leaf = none := hnone.resolve_left (by simp [hrec])
    simp only [hport]
    exact State.stopRegion_stopped hr hgo _

/-- A region that has stopped or ended takes no more faults. -/
theorem State.raiseFault_ended (hend : r.ended = true) : s.raiseFault n leaf tile ctx slot src f froze = s := by
  simp only [State.raiseFault, hr, hend, if_true]

end

/-! ## A fault of a firing -/

/-- A frozen firing whose region takes the fault: tiles alone make contexts, ports, queues, elements and memory tiles, so the region's record and
the fault token leave them. -/
theorem FrozenAt.faulted {s t : State} {e : Env} {n pt : Nat} {pq : Fin 4} (h : FrozenAt s t e) (hr : s.region? e.ctx.region = some e.region)
    (hn : n < 16) (f : FaultInfo) :
    let w := faultWord f (e.region.rel e.ctx.leaf e.site.tile).1 (e.region.rel e.ctx.leaf e.site.tile).2 e.site.ctx.val e.site.slot.val false n
    Faulted s ((t.modRegion e.ctx.region (fun x => x.recorded n f w)).sendFault e.ctx.region pt pq w (some (e.site.tile, e.site.ctx))) e f n pt pq := by
  intro w
  generalize hz : t.modRegion e.ctx.region (fun x => x.recorded n f w) = z
  have htile : ∀ u, (z.sendFault e.ctx.region pt pq w (some (e.site.tile, e.site.ctx))).tile? u = t.tile? u := fun u =>
    hz ▸ congrArg (fun l => SMap.find? l u) (State.modRegion_tiles t _ _)
  have hbare : z.bare = s.bare := hz ▸ (State.bare_modRegion t _ _).trans h.bare
  have hid : z.nextId = s.nextId := State.nextId_eq_of_bare hbare
  have hcycle : z.cycle = s.cycle := State.cycle_eq_of_bare hbare
  have htoks : z.faultToks = s.faultToks := State.faultToks_eq_of_bare hbare
  have hreg : ∀ m, t.region? m = s.region? m := fun m => congrArg (fun g => SMap.find? g m) h.regions
  obtain ⟨hhbm, hdbg, hwatched, htasks, hseq⟩ := h.rest
  exact {
    ctx := by simpa only [State.ctx?, State.elem?, htile] using h.ctx
    ctxs := fun u c hne => by simpa only [State.ctx?, State.elem?, htile] using h.ctxs u c hne
    ports := fun u q => by simpa only [State.port?, htile] using h.ports u q
    queues := fun u q => by simpa only [State.queue?, htile] using h.queues u q
    elems := fun u => by simpa only [State.elem?, htile] using h.elems u
    mems := fun u => by simpa only [State.mem?, htile] using h.mems u
    token := ⟨_, hcycle ▸ z.cycle_le_faultDue e.ctx.region pt pq, by rw [← htoks, ← hid]; rfl⟩
    region := by
      refine ⟨e.region.recorded n f w, ?_, Vector.at_upd_same _ _ _, fun m hm hne => Vector.at_upd_other _ _ (by omega), rfl⟩
      show z.region? e.ctx.region = _
      rw [← hz, State.region?_modRegion_same, hreg, hr]
      rfl
    regions := fun m hm => by
      show z.region? m = _
      rw [← hz, State.region?_modRegion_other _ _ _ _ hm, hreg]
    bare := by
      rw [← hid]
      exact congrArg (fun k : State => { k with
        faultToks := (z.sendFault e.ctx.region pt pq w (some (e.site.tile, e.site.ctx))).faultToks
        nextId := z.nextId + 1
        freeCtr := z.freeCtr + 1 }) hbare
    rest := by
      subst hz
      exact ⟨(State.modRegion_hbm t _ _).trans hhbm, (State.modRegion_dbg t _ _).trans hdbg, (State.modRegion_watched t _ _).trans hwatched,
        (State.modRegion_tasks t _ _).trans htasks, (State.modRegion_seq t _ _).trans hseq⟩ }

/-- A region stops from a frozen firing as from the state before it. -/
theorem FrozenAt.stopped {s t u : State} {e : Env} {n : Nat} {f : FaultInfo} (h : FrozenAt s t e) (hstop : Stopped t u n f) : Stopped s u n f where
  region := by
    rw [← State.cycle_eq_of_bare h.bare]
    exact hstop.region
  regions m hm := (hstop.regions m hm).trans (congrArg (fun g => SMap.find? g m) h.regions)
  memory := hstop.memory.trans h.rest.1

section
variable {s s1 : State} {i : Instr} {e : Env} (h : s.enter i = some (e, s1)) (f : FaultInfo)
include h

/-- The region of a firing is there when the firing has frozen. -/
theorem State.region?_freeze_site : (s1.freeze e).region? e.ctx.region = some e.region := by
  obtain ⟨-, -, -, -, hr, -⟩ := State.enter_spec h
  exact (congrArg (fun g => SMap.find? g e.ctx.region) (State.freeze_frozenAt h).regions).trans hr

/-- With a fault port and a free record entry the region takes the fault, and nothing else has changed. -/
theorem State.miss_faulted {n pt : Nat} {pq : Fin 4} (hgo : e.region.ended = false) (hrec : e.region.freeRec = some n)
    (hport : e.region.faultPort e.ctx.leaf = some (pt, pq)) : Faulted s (s1.miss e f) e f n pt pq := by
  obtain ⟨-, -, -, -, hr, -⟩ := State.enter_spec h
  rw [State.miss_eq, State.raiseFault_recorded (State.region?_freeze_site h) hgo hrec hport]
  exact (State.freeze_frozenAt h).faulted hr (Region.freeRec_lt hrec) f

/-- Without either the region stops. -/
theorem State.miss_stopped (hgo : e.region.ended = false) (hnone : e.region.freeRec = none ∨ e.region.faultPort e.ctx.leaf = none) :
    Stopped s (s1.miss e f) e.ctx.region f := by
  rw [State.miss_eq]
  exact (State.freeze_frozenAt h).stopped (State.raiseFault_stopped (State.region?_freeze_site h) hgo hnone)

/-- In a region that has ended only the context freezes. -/
theorem State.miss_ended (hend : e.region.ended = true) : FrozenAt s (s1.miss e f) e := by
  rw [State.miss_eq, State.raiseFault_ended (State.region?_freeze_site h) hend]
  exact State.freeze_frozenAt h

end

/-! ## TRAP, and vector instructions under TRAPF -/

/-- A vector instruction whose flags trap faults (R86). -/
theorem vectorResult_misses {s s1 : State} {i : Instr} {e : Env} {d : VDst} {r : Nat → Lane × Flags} (h : s.enter i = some (e, s1))
    (hr : vectorResult e i = some (d, r)) (htrapf : sideTrapf e.side = true) (htraps : (laneFlags (fun n => (r n).2)).traps = true) :
    exec i s = .next (s1.miss e ⟨kTrap, 1, 0⟩) := by
  obtain ⟨k, hexec, hk⟩ := vectorResult_writesLanes hr
  obtain ⟨x, hdone, -⟩ := hk s1
  rw [hexec]
  exact fire_trap h hdone (by rw [htrapf, htraps]; rfl)

theorem trap_misses {s s1 : State} {t : Trig} {e : Env} (h : s.enter (.trap t) = some (e, s1)) :
    exec (.trap t) s = .next (s1.miss e ⟨kTrap, 0, 0⟩) :=
  fire_fault h rfl

/-- Settles O57: TRAP and a vector instruction whose flags trap both miss, and what a miss leaves is said by the region's state. -/
theorem trapsFault : Obligations.TrapsFault := by
  refine ⟨fun t => Laws.Encoding.trap t _ rfl (congrArg some (ofNat_fieldsT_zero ..).symm), by decide, fun s s1 i e cause h hcause => ?_⟩
  have hmiss : exec i s = .next (s1.miss e ⟨12, cause, 0⟩) := by
    obtain ⟨rfl, t, rfl⟩ | ⟨rfl, htrapf, d, r, hr, htraps⟩ := hcause
    · exact trap_misses h
    · exact vectorResult_misses h hr htrapf htraps
  refine ⟨_, hmiss, fun n pt pq hgo hrec hport => State.miss_faulted h _ hgo hrec hport, fun hgo hnone => State.miss_stopped h _ hgo hnone,
    fun hend => ?_⟩
  have hfrozen := State.miss_ended h ⟨12, cause, 0⟩ hend
  exact ⟨hfrozen.regions, State.faultToks_eq_of_bare hfrozen.bare, hfrozen.ctx⟩

end Sys2Proof.Machine
end
